-- ==== Sys2Proof/Word.lean ====
section
/-!
DEFINITION. The word types of the machine (07_encoding_and_assembly.md R167, R169): a register is 32 bits, a
pair 64, a quad 128; memory is byte addressed (00_scope.md R2).
-/
namespace Sys2Proof

/-- A byte of storage. -/
abbrev Byte := BitVec 8

/-- A 32-bit register or instruction word. -/
abbrev Word := BitVec 32

/-- A 64-bit register pair, pointer or special register. -/
abbrev DWord := BitVec 64

end Sys2Proof
end

