-- ==== Sys2Proof/Config.lean ====
section
/-!
DEFINITION. What one part fixes and the spec leaves open. Every `opaque` constant is a free value: no proof can see
what it is, so a statement about the machine holds for every value it may have. Each is applied to the state's
counter `fresh`, which every use advances, or to the operands it depends on.
-/
namespace Sys2Proof

/-- A byte the spec leaves open: a member of an "unpredictable within" set, or contents it does not give. -/
opaque Config.freeByte : Nat → Byte

/-- A 64-bit value the spec leaves open. -/
opaque Config.freeDWord : Nat → DWord

/-- A choice between two members of an "unpredictable within" set. -/
opaque Config.freeBool : Nat → Bool

/-- Whether the byte that a copy (by its number) moves at a position is the one that the copy itself wrote to the byte's
source, where it writes there (R264). -/
opaque Config.takesCopied : Nat → Nat → Bool

/-- What the management core puts into an SPDM answer that R383 does not lay out (version numbers, certificates,
signatures), from the request code and a counter. -/
opaque Config.spdmPayload : Nat → Nat → List Byte

/-- Whether this part lacks the profiling event (R370: events 0x8000 to 0xFFFF may be absent). -/
opaque Config.eventAbsent : Nat → Bool

end Sys2Proof
end

