-- ==== Sys2Proof/Syntax.lean ====
section
/-!
DEFINITION. The instruction set as data: one structure per operand layout of the spec's encoding tables
(07_encoding_and_assembly.md R167, R181) and ONE inductive `Instr` with one constructor per row of
spec/opcode_table.json. The table's 228 words are instructions in the usual sense. Its other 113 rows are the
steps the device takes by itself or for the host (95_what_each_step_holds.md); they have no encoding, so they
carry the identity of what they act on and the data that comes from outside.
-/
namespace Sys2Proof

/-- LR format (R167): guard, write-suppress, destination, two sources, chain bit. -/
structure LR where
  g : BitVec 3
  w : Bool
  d : BitVec 6
  a : BitVec 7
  b : BitVec 7
  h : Bool
deriving DecidableEq, Repr

/-- LR format whose w bit is fixed at 0 (DTSUM, R206). -/
structure LRq where
  g : BitVec 3
  d : BitVec 6
  a : BitVec 7
  b : BitVec 7
  h : Bool
deriving DecidableEq, Repr

/-- A per-lane compare (R171): condition k into predicate p. -/
structure Cmp where
  g : BitVec 3
  w : Bool
  k : BitVec 3
  p : BitVec 3
  a : BitVec 7
  b : BitVec 7
  h : Bool
deriving DecidableEq, Repr

/-- A one-source LR form whose b field is the function code (R174, R175). -/
structure Un where
  g : BitVec 3
  w : Bool
  d : BitVec 6
  a : BitVec 7
  h : Bool
deriving DecidableEq, Repr

/-- A conversion to or from operand format f (R175). -/
structure CvtF where
  g : BitVec 3
  w : Bool
  d : BitVec 6
  a : BitVec 7
  f : BitVec 4
  h : Bool
deriving DecidableEq, Repr

/-- CVTR (R175): w and h hold the target code, so neither is a field. -/
structure CvtR where
  g : BitVec 3
  d : BitVec 6
  a : BitVec 7
  b : BitVec 7
deriving DecidableEq, Repr

/-- PLOP (R172). -/
structure Plop where
  g : BitVec 3
  w : Bool
  o : BitVec 3
  p : BitVec 3
  x : BitVec 3
  y : BitVec 3
  h : Bool
deriving DecidableEq, Repr

/-- BALLOT (R173): voted predicate p, width code wc. -/
structure Ballot where
  g : BitVec 3
  w : Bool
  d : BitVec 6
  p : BitVec 3
  wc : BitVec 3
  h : Bool
deriving DecidableEq, Repr

/-- TSHFL (R173): value a, index or mask register b, width code wc. -/
structure Tshfl where
  g : BitVec 3
  d : BitVec 6
  a : BitVec 7
  b : BitVec 6
  wc : BitVec 3
deriving DecidableEq, Repr

/-- TRED (R173): value a, width code wc. -/
structure Tred where
  g : BitVec 3
  w : Bool
  d : BitVec 6
  a : BitVec 7
  wc : BitVec 3
  h : Bool
deriving DecidableEq, Repr

/-- LW format (R167). -/
structure LW where
  g : BitVec 3
  d : BitVec 6
  i : BitVec 16
deriving DecidableEq, Repr

/-- LI format (R167), imm8. -/
structure LI where
  g : BitVec 3
  d : BitVec 6
  a : BitVec 7
  i : BitVec 8
deriving DecidableEq, Repr

/-- SHI (R176): kind k, amount n. -/
structure ShI where
  g : BitVec 3
  d : BitVec 6
  a : BitVec 7
  k : BitVec 2
  n : BitVec 5
deriving DecidableEq, Repr

/-- LM format (R167): pointer a, hint, signed offset o. -/
structure LM where
  g : BitVec 3
  d : BitVec 6
  a : BitVec 7
  h : BitVec 2
  o : BitVec 7
deriving DecidableEq, Repr

/-- ATOM (R178): pointer a, packed data register and width b, operation f. -/
structure Atm where
  g : BitVec 3
  d : BitVec 6
  a : BitVec 7
  b : BitVec 6
  f : BitVec 3
deriving DecidableEq, Repr

/-- LB format (R167): predicate p, inversion i, offset o. -/
structure LB where
  p : BitVec 3
  i : Bool
  o : BitVec 21
deriving DecidableEq, Repr

/-- LC format (R167): link pair d, offset o. -/
structure LC where
  g : BitVec 3
  d : BitVec 6
  o : BitVec 16
deriving DecidableEq, Repr

/-- JMPR (R180): target pair a. -/
structure Jmp where
  g : BitVec 3
  a : BitVec 7
deriving DecidableEq, Repr

/-- SYNC NOP (R179). -/
structure Nop where
  g : BitVec 3
  h : Bool
deriving DecidableEq, Repr

/-- A block barrier number (R179). -/
structure BarN where
  n : BitVec 4
deriving DecidableEq, Repr

/-- PHINT (R179): liveness record index. -/
structure PhI where
  i : BitVec 7
deriving DecidableEq, Repr

/-- TRAP (R179): guard and code. -/
structure TrapK where
  g : BitVec 3
  k : BitVec 7
deriving DecidableEq, Repr

/-- Per-lane WAITC (R179): value register s(d), counter k. -/
structure WaitL where
  d : BitVec 6
  k : BitVec 4
deriving DecidableEq, Repr

/-- MCST (R179): data d, pointer a. -/
structure Mcst where
  g : BitVec 3
  d : BitVec 6
  a : BitVec 7
deriving DecidableEq, Repr

/-- UR format (R181) with fn fixed. -/
structure UR where
  d : BitVec 6
  a : BitVec 6
  b : BitVec 6
  c : BitVec 3
deriving DecidableEq, Repr

/-- UI format (R181). -/
structure UI where
  d : BitVec 6
  a : BitVec 6
  i : BitVec 13
deriving DecidableEq, Repr

/-- SSHI (R176). -/
structure SShI where
  d : BitVec 6
  a : BitVec 6
  k : BitVec 2
  n : BitVec 5
deriving DecidableEq, Repr

/-- UW format (R181). -/
structure UW where
  d : BitVec 6
  i : BitVec 19
deriving DecidableEq, Repr

/-- SCMP (R183): pair flag p, condition k, destination condition d. -/
structure SCmp where
  p : Bool
  k : BitVec 3
  d : BitVec 3
  a : BitVec 6
  b : BitVec 6
  c : BitVec 3
deriving DecidableEq, Repr

/-- SCOP (R183). -/
structure SCop where
  o : BitVec 3
  d : BitVec 3
  x : BitVec 3
  y : BitVec 3
  c : BitVec 3
deriving DecidableEq, Repr

/-- SMOVS (R182): special register i. -/
structure SMovs where
  d : BitVec 6
  i : BitVec 13
deriving DecidableEq, Repr

/-- SMOVW (R182): special register i. -/
structure SMovw where
  a : BitVec 6
  i : BitVec 13
deriving DecidableEq, Repr

/-- SV2S (R183): pair flag p, lane l, vector register a. -/
structure Sv2s where
  p : Bool
  d : BitVec 6
  a : BitVec 6
  l : BitVec 5
  c : BitVec 3
deriving DecidableEq, Repr

/-- SFLT FCMP and DCMP (R183). -/
structure SFCmp where
  k : BitVec 3
  d : BitVec 3
  a : BitVec 6
  b : BitVec 6
  c : BitVec 3
deriving DecidableEq, Repr

/-- UB format (R181). -/
structure UB where
  c : BitVec 3
  i : Bool
  o : BitVec 21
deriving DecidableEq, Repr

/-- UR form that names a and the guard only. -/
structure Ua where
  a : BitVec 6
  c : BitVec 3
deriving DecidableEq, Repr

/-- SATOM (R182): operation f. -/
structure SAtm where
  f : BitVec 3
  d : BitVec 6
  a : BitVec 6
  b : BitVec 6
  c : BitVec 3
deriving DecidableEq, Repr

/-- UE format with two blocks (R181). -/
structure UE2 where
  e : BitVec 6
  f : BitVec 6
  t : BitVec 9
deriving DecidableEq, Repr

/-- UR form that names d and the guard only. -/
structure Ud where
  d : BitVec 6
  c : BitVec 3
deriving DecidableEq, Repr

/-- DQ.POLL and EVQ.POLL (R183): destination d, condition b. -/
structure UPoll where
  d : BitVec 6
  b : BitVec 3
  c : BitVec 3
deriving DecidableEq, Repr

/-- UE format with one block (R181). -/
structure UE1 where
  e : BitVec 6
  t : BitVec 9
deriving DecidableEq, Repr

/-- UE format with no block (R181). -/
structure UE0 where
  t : BitVec 9
deriving DecidableEq, Repr

/-- Uniform WAITC (R182): value register d, counter k. -/
structure WaitU where
  d : BitVec 6
  k : BitVec 4
deriving DecidableEq, Repr

/-- UE format with a block and no tag (RFL.WAIT, RFL.STATE). -/
structure UEe where
  e : BitVec 6
deriving DecidableEq, Repr

/-- UR form that names the guard only. -/
structure Uc where
  c : BitVec 3
deriving DecidableEq, Repr

/-- Who issues an instruction (06_execution_model.md R145, R150): the lanes of one fragment of a group, or the
control thread of one (block, member, quadrant). `none` stands between issues. -/
inductive Agent where
  | none
  | frag (block group : Nat) (lanes : BitVec 32)
  | ctl (block rank quad : Nat)
deriving DecidableEq, Repr

/-- One group of a block (R141). -/
structure GroupRef where
  block : Nat
  group : Nat
deriving DecidableEq, Repr

/-- One thread: a lane of a group of a block (R142). -/
structure ThreadRef where
  block : Nat
  group : Nat
  lane : Nat
deriving DecidableEq, Repr

/-- One granule of a region a block holds (01_address_spaces.md R31, R33): the region's place in the block's
region list and the granule's index in the region. -/
structure GranuleRef where
  block : Nat
  region : Nat
  granule : Nat
deriving DecidableEq, Repr

/-- A packet read by a queue (12_dispatch_and_issue.md R309): the next packet of the ring, or a node of one of the
queue's running graphs, with the index of its GRAPH packet (R312). -/
structure PktRef where
  queue : Nat
  node : Option (Nat × Nat)
deriving DecidableEq, Repr

/-- A request to move one page to a die, with the mask of the dies whose copies of a replicated page it names
(02_translation_and_leases.md R65, R66). -/
structure MigrateReq where
  ctx : Nat
  va : Nat
  die : Nat
  copies : Nat
deriving DecidableEq, Repr

/-- The hypervisor half of a queue control block as a QCB update carries it (R303). -/
structure QcbHalf where
  ringBase : BitVec 64
  ctrl : BitVec 32
  ident : BitVec 32
  leaseLimit : BitVec 64
  clusterMask : BitVec 16
  errVector : BitVec 16
  statusLine : BitVec 64
deriving DecidableEq, Repr

/-- One firmware image as the boot ROM meets it (15_host_and_platform.md R382): whether the B slot is the selected one,
whether the A slot and the B slot verify, and the 48-byte digest of each. -/
structure ImagePair where
  selB : Bool := false
  okA : Bool
  okB : Bool
  digestA : List (BitVec 8)
  digestB : List (BitVec 8)
deriving DecidableEq, Repr

/-- The registers a REGISTER_WRITE names: those of the register maps that have no row of their own in the
table, in their instance (die, cluster, quadrant, core, function, port). -/
inductive RegName where
  | vsctl (die : Nat)
  | mbxg (die entry : Nat)
  | dsctl (cluster : Nat)
  | pectl (cluster : Nat)
  | trctl (cluster : Nat)
  | tlbiCtl (fn : Nat)
  | tlbiVa (fn : Nat)
  | tlbiNpg (fn : Nat)
  | trlAddr (fn : Nat)
  | trlCtl (fn : Nat)
  | rstCtl (fn : Nat)
  | rstTmo (fn : Nat)
  | clkOfs (fn : Nat)
  | spillBase (fn : Nat)
  | spillSize (fn : Nat)
  | prqBase (fn : Nat)
  | prqSize (fn : Nat)
  | icoal (fn : Nat)
  | vecMask (fn : Nat)
  | ctxWord (ctx word : Nat)
  | wpBase (core n : Nat)
  | wpLim (core n : Nat)
  | wpCtl (core n : Nat)
  | monCtl (core n : Nat)
  | dbgCtl (quad : Nat)
  | dbgBuf (quad : Nat)
  | exportBase (port entry : Nat)
  | exportLen (port entry : Nat)
  | exportPhys (port entry : Nat)
  | fnstat (fn : Nat)
  | fngen (fn : Nat)
  | intPend (fn : Nat)
  | readOnly (name : Nat)
deriving DecidableEq, Repr

/-- What the host asks of the device over its link (R67, R123, R371): CXL.mem accesses to device HBM by physical address, its own
stores to its memory, the read of a register, and a request that relies on a feature the link does not offer. -/
inductive HostAccess where
  | read (pa len : Nat)
  | write (pa : Nat) (data : List (BitVec 8))
  | hostWrite (addr : Nat) (data : List (BitVec 8))
  | register (r : RegName)
  | unlisted
deriving DecidableEq, Repr

/-- What a peer asks of this device through one of its ports (R379): an atomic has its operation (R234), its width in bytes,
and its operands. -/
inductive PeerKind where
  | read (len : Nat)
  | write (data : List (BitVec 8))
  | atomic (f width : Nat) (data swap : BitVec 64)
deriving DecidableEq, Repr

/-- An access that arrives from a peer: the port, the offset into this device's windows, and the request. -/
structure PeerReq where
  port : Nat
  offset : Nat
  kind : PeerKind
deriving DecidableEq, Repr

/-- Where an ECC error strikes (03_caches_versions_mailbox.md R79, R80; R351). -/
inductive ErrLoc where
  | cleanLine (core line : Nat)
  | l2Line (cluster line : Nat)
  | llcLine (die line : Nat)
  | pendSector (block rank sector : Nat)
  | llcSector (pa : Nat)
  | mbxSector (die off : Nat)
  | versionLine (die line : Nat) (t : ThreadRef)
  | abWord (core bank row : Nat)
  | wbWord (core bank row : Nat)
  | cbCell (core bank row col : Nat)
  | vreg (t : ThreadRef) (r : Nat)
  | preg (t : ThreadRef) (r : Nat)
  | sreg (g : GroupRef) (r : Nat)
  | creg (g : GroupRef) (r : Nat)
  | ctlSreg (block rank quad r : Nat)
  | ctlCreg (block rank quad r : Nat)
  | plane (quad : Nat) (shadow : Bool)
  | frame (block : Nat)
  | fetchAhead (core : Nat)
deriving DecidableEq, Repr

/-- One constructor per row of spec/opcode_table.json. -/
inductive Instr where
  | iadd (x : LR)
  | isub (x : LR)
  | imul (x : LR)
  | imulh (x : LR)
  | imulhu (x : LR)
  | imad (x : LR)
  | and (x : LR)
  | or (x : LR)
  | xor (x : LR)
  | shl (x : LR)
  | shr (x : LR)
  | sar (x : LR)
  | imin (x : LR)
  | imax (x : LR)
  | umin (x : LR)
  | umax (x : LR)
  | iadd64 (x : LR)
  | padd (x : LR)
  | sel (x : LR)
  | fadd (x : LR)
  | fmul (x : LR)
  | ffma (x : LR)
  | fmin (x : LR)
  | fmax (x : LR)
  | dadd (x : LR)
  | dmul (x : LR)
  | dfma (x : LR)
  | dtsum (x : LRq)
  | icmp (x : Cmp)
  | fcmp (x : Cmp)
  | dcmp (x : Cmp)
  | xuFrcp (x : Un)
  | xuFrsq (x : Un)
  | xuFsqrt (x : Un)
  | xuFexp2 (x : Un)
  | xuFlog2 (x : Un)
  | xuFsin (x : Un)
  | xuFcos (x : Un)
  | xuFtanh (x : Un)
  | xuFfloor (x : Un)
  | xuFceil (x : Un)
  | xuFtrunc (x : Un)
  | xuFrint (x : Un)
  | xuFabs (x : Un)
  | xuFneg (x : Un)
  | xuDrcp (x : Un)
  | xuDrsq (x : Un)
  | xuDsqrt (x : Un)
  | xuDabs (x : Un)
  | xuDneg (x : Un)
  | xuPopc (x : Un)
  | xuClz (x : Un)
  | xuBrev (x : Un)
  | xuIneg (x : Un)
  | xuIabs (x : Un)
  | cvtS32F32 (x : Un)
  | cvtU32F32 (x : Un)
  | cvtF32S32 (x : Un)
  | cvtF32U32 (x : Un)
  | cvtS64F64 (x : Un)
  | cvtU64F64 (x : Un)
  | cvtF64S64 (x : Un)
  | cvtF64U64 (x : Un)
  | cvtF64F32 (x : Un)
  | cvtF32F64 (x : Un)
  | cvtS32F64 (x : Un)
  | cvtF64S32 (x : Un)
  | cvtS64F32 (x : Un)
  | cvtF32S64 (x : Un)
  | cvtFormatFromF32 (x : CvtF)
  | cvtF32FromFormat (x : CvtF)
  | cvtrE8m7 (x : CvtR)
  | cvtrE5m10 (x : CvtR)
  | cvtrE4m3 (x : CvtR)
  | cvtrE5m2 (x : CvtR)
  | plop (x : Plop)
  | ballot (x : Ballot)
  | tshflIdx (x : Tshfl)
  | tshflXor (x : Tshfl)
  | tredAdd (x : Tred)
  | tredMin (x : Tred)
  | tredMax (x : Tred)
  | tredUmin (x : Tred)
  | tredUmax (x : Tred)
  | tredAnd (x : Tred)
  | tredOr (x : Tred)
  | tredXor (x : Tred)
  | tredFadd (x : Tred)
  | tredFmin (x : Tred)
  | tredFmax (x : Tred)
  | tredDadd (x : Tred)
  | movs (x : LW)
  | movi (x : LW)
  | movhi (x : LW)
  | iaddi (x : LI)
  | shi (x : ShI)
  | ldb (x : LM)
  | ldbu (x : LM)
  | ldh (x : LM)
  | ldhu (x : LM)
  | ldw (x : LM)
  | ldd (x : LM)
  | ldq (x : LM)
  | stb (x : LM)
  | sth (x : LM)
  | stw (x : LM)
  | std (x : LM)
  | stq (x : LM)
  | atom (x : Atm)
  | atomAcq (x : Atm)
  | atomRel (x : Atm)
  | atomAr (x : Atm)
  | brv (x : LB)
  | call (x : LC)
  | jmp (x : Jmp)
  | ret (x : Jmp)
  | nop (x : Nop)
  | join
  | refill
  | exit
  | gbar
  | bar (x : BarN)
  | barArrive (x : BarN)
  | barWait (x : BarN)
  | phaseOpen
  | phaseClose
  | fenceBlk
  | fenceDev
  | fenceSys
  | phint (x : PhI)
  | trap (x : TrapK)
  | waitcL (x : WaitL)
  | mcstW (x : Mcst)
  | mcstD (x : Mcst)
  | mcstQ (x : Mcst)
  | saluAdd (x : UR)
  | saluSub (x : UR)
  | saluMul (x : UR)
  | saluMulh (x : UR)
  | saluAnd (x : UR)
  | saluOr (x : UR)
  | saluXor (x : UR)
  | saluShl (x : UR)
  | saluShr (x : UR)
  | saluSar (x : UR)
  | saluMin (x : UR)
  | saluMax (x : UR)
  | saluMinu (x : UR)
  | saluMaxu (x : UR)
  | saluAdd64 (x : UR)
  | saluPadd (x : UR)
  | saddi (x : UI)
  | sandi (x : UI)
  | sori (x : UI)
  | sshi (x : SShI)
  | smovi (x : UW)
  | smovhi (x : UW)
  | scmp (x : SCmp)
  | scop (x : SCop)
  | smovs (x : SMovs)
  | smovw (x : SMovw)
  | sv2s (x : Sv2s)
  | sfltFadd (x : UR)
  | sfltFmul (x : UR)
  | sfltFfma (x : UR)
  | sfltFcmp (x : SFCmp)
  | sfltDadd (x : UR)
  | sfltDmul (x : UR)
  | sfltDfma (x : UR)
  | sfltDcmp (x : SFCmp)
  | sbr (x : UB)
  | scall (x : UW)
  | sjmp (x : Ua)
  | sjmpRet (x : Ua)
  | sldw (x : UI)
  | sldd (x : UI)
  | sstw (x : UI)
  | sstd (x : UI)
  | satom (x : SAtm)
  | satomAr (x : SAtm)
  | loopRun (x : UE2)
  | loopWait
  | loopAbort
  | dqPush (x : Ua)
  | dqPop (x : Ud)
  | dqPoll (x : UPoll)
  | evqWait (x : Ud)
  | evqPoll (x : UPoll)
  | cpG2a (x : UE2)
  | cpA2g (x : UE2)
  | cpG2w (x : UE2)
  | cpA2a (x : UE2)
  | cpG2g (x : UE2)
  | cpGather (x : UE2)
  | cpScatter (x : UE2)
  | cpFill (x : UE2)
  | cpmxG2a (x : UE2)
  | cpmxA2a (x : UE2)
  | cpmxGather (x : UE2)
  | mxLds (x : UE1)
  | mxSwap (x : UE0)
  | mxStream (x : UE1)
  | mxGrouped (x : UE1)
  | mxTile (x : UE1)
  | accAlloc (x : UE1)
  | accTryalloc (x : UE1)
  | accFree (x : UE1)
  | acceZero (x : UE1)
  | acceOut (x : UE1)
  | waitc (x : WaitU)
  | rgnMap (x : UE1)
  | rgnFlush (x : UE1)
  | rgnUnmap (x : UE1)
  | rflSetup (x : UE1)
  | rflRun (x : UE1)
  | rflWait (x : UEe)
  | rflState (x : UEe)
  | rflAbort
  | launch (x : UE1)
  | signalAdd (x : UE1)
  | signalSet (x : UE1)
  | sysTrapret (x : Uc)
  | sysGflagsRd (x : Ud)
  | sysGflagsClr (x : Ua)
  | sysTimerSet (x : Ua)
  | sysProfmark (x : Ua)
  | sysHalt (x : Uc)
  | sysDbgbrk (x : Uc)
  | versionCommitComplete (t : ThreadRef)
  | phaseCloseComplete (t : ThreadRef)
  | fenceSysComplete (t : ThreadRef)
  | joinRelease (g : GroupRef)
  | gbarComplete (g : GroupRef)
  | barrierDeparture (t : ThreadRef)
  | teamOperationExecute (t : ThreadRef)
  | waitcSatisfied (a : Agent)
  | refillUnit (t : ThreadRef)
  | gtimerDeadline (a : Agent)
  | stalledPushResume (a : Agent)
  | copyComplete (op : Nat)
  | matrixOperationStart (op : Nat)
  | matrixOperationComplete (op : Nat)
  | groupedEntryReached (op : Nat)
  | tileStep (op : Nat)
  | accAllocGrant (op : Nat)
  | accumulatorOperationComplete (op : Nat)
  | regionOperationComplete (op : Nat)
  | granuleFillComplete (x : GranuleRef)
  | granuleFillError (x : GranuleRef)
  | writeBackStart (x : GranuleRef)
  | writeBackComplete (x : GranuleRef)
  | launchSlotWrite (op : Nat)
  | launchComplete (op : Nat)
  | signalComplete (op : Nat)
  | loopWalkPush (op : Nat)
  | loopWalkComplete (op : Nat)
  | rflSetupBind (op : Nat)
  | rflInit (op : Nat)
  | rflConvert (op : Nat)
  | rflFactor (op : Nat)
  | rflSolve (op : Nat)
  | rflUpdate (op : Nat)
  | rflResidual (op : Nat)
  | rflTest (op : Nat)
  | rflDone (op : Nat)
  | launchGrid (p : PktRef)
  | leaseGrant (grid : Nat)
  | pageMigration (x : MigrateReq)
  | copyPacket (p : PktRef)
  | waitPacket (p : PktRef)
  | waitWake (queue : Nat)
  | signalPacket (p : PktRef)
  | condPacket (p : PktRef)
  | graphPacket (p : PktRef)
  | graphNodeComplete (queue : Nat) (graph : Nat) (node : Nat)
  | interruptPacket (p : PktRef)
  | markerPacket (p : PktRef)
  | replSync (p : PktRef)
  | preload (p : PktRef)
  | packetCompletion (queue : Nat) (index : Nat)
  | queueMap (queue : Nat)
  | waitCycleTimeout (ctx : Nat)
  | tryPlace (cluster : Nat) (grid : Nat)
  | blockRestore (cluster : Nat) (block : Nat)
  | tsliceExpiry (cluster : Nat)
  | graceWindowExpiry (block : Nat)
  | groupSave (g : GroupRef)
  | tregalEnqueue (cluster : Nat) (grid : Nat)
  | tregalPick (cluster : Nat)
  | tregalTick (cluster : Nat)
  | tregalBlock (cluster : Nat) (block : Nat)
  | tregalWake (cluster : Nat) (grid : Nat) (arg : Nat)
  | tregalMigrate (cluster : Nat) (stack : Nat)
  | policyWatchdogOverrun (cluster : Nat)
  | sketchCountBurst (stack : Nat) (frame : Nat) (ctx : Nat)
  | sketchIntervalClose (stack : Nat)
  | uncorrectableError (loc : ErrLoc)
  | tlbiGo (fn : Nat) (v : BitVec 32)
  | tlbiComplete (fn : Nat)
  | skctlWrite (stack : Nat) (v : BitVec 32)
  | dbellWrite (fn : Nat) (v : BitVec 64)
  | qcbUpdate (q : QcbHalf)
  | prrespWrite (fn : Nat) (v : BitVec 64)
  | intpendClear (fn : Nat) (v : BitVec 64)
  | interruptMessage (fn : Nat) (vector : Nat)
  | qownWrite (quad : Nat) (v : BitVec 32)
  | qownChange (quad : Nat)
  | ptpoolSizeWrite (v : BitVec 32)
  | trseedWrite (cluster : Nat) (v : BitVec 64)
  | tregalLoad (fn : Nat) (v : BitVec 32)
  | resetQueue (fn : Nat) (v : BitVec 64)
  | resetContext (fn : Nat) (v : BitVec 64)
  | resetEngine (fn : Nat) (v : BitVec 64)
  | resetPartition (fn : Nat) (v : BitVec 64)
  | resetDevice (fn : Nat) (v : BitVec 64)
  | resetRungTimeout (fn : Nat)
  | resetComplete (fn : Nat)
  | functionLevelReset (fn : Nat)
  | powerOn (images : List ImagePair)
  | thermalLimitExceeded (die : Nat)
  | atsInvalidation (base : Nat) (len : Nat)
  | hostMemoryAccess (x : HostAccess)
  | peerAccess (x : PeerReq)
  | getVersion
  | getCapabilities
  | negotiateAlgorithms
  | getDigests
  | getCertificate
  | challenge
  | getMeasurements (block : Nat)
  | spdmUnsupportedRequest (code : Nat)
  | debugStop (quad : Nat)
  | debugRun (quad : Nat)
  | debugDump (quad : Nat)
  | monitorClear (core : Nat) (n : Nat)
  | registerWrite (r : RegName) (v : BitVec 64)
  | priResponse (idx : Nat) (ok : Bool)
  | correctableError (loc : ErrLoc)
  | jxLinkPortDown (port : Nat) (down : Bool)
  | peerStoreRejected (port : Nat) (fn : Nat)
  | hostCacheSnoop (addr : Nat)
deriving DecidableEq, Repr

end Sys2Proof
end

