-- ==== Sys2Proof/Machine/State.lean ====
section
/-!
DEFINITION. The state of the JX7M-576 as plain data: every register, memory, queue, buffer, cache line, block,
group, thread, engine operation, policy set and platform register the spec names, and `State.reset`.
Numbers the spec adds or compares as whole quantities (addresses once formed, counts, identities) are `Nat`;
what software sees as a word is a bit vector. Instances are numbered through the whole device: die 0 to 3,
cluster 0 to 15, core 0 to 191, quadrant 0 to 767 (R1, R362), HBM stack 0 to 11, function 0 to 16.
-/
namespace Sys2Proof.Machine

/-- What stops the machine. -/
inductive Fault where
  /-- Raised by every instruction meaning when no agent is issuing: `exec` was called outside an issue, which no
  step does. Safe: the hardware has no such event. -/
  | noIssuer
  /-- Raised by a host or peer access to a physical address that is not memory (R38). Safe: the spec says the
  address does not exist. -/
  | noSuchAddress
deriving DecidableEq, Repr

/-- Why the model gives no meaning. -/
inductive Refusal where
  /-- Raised by a dispatch arm whose instruction has no meaning yet. Safe. -/
  | notModelled (mnemonic : String)
deriving DecidableEq, Repr

/-- A trap cause (14_traps_preemption_debug.md R346). -/
inductive Cause where
  | illegalEncoding | illegalOperand | staleLatch | chainViolation | alignment | spaceFault | accessClass
  | leaseViolation | watchpoint | trapInstruction | matrixNan | flagTrap | formatPair | versionOverflow
  | engineFault | engineReset | barrierMismatch | timer | waitCycle | refillSite | accAlloc | rflExit
deriving DecidableEq, Repr

/-- The trap record of a thread or control thread (R343 to R345) with the resume point R346 gives it. -/
structure TrapRec where
  tcause : Word := 0
  taddr : DWord := 0
  titem : DWord := 0
  tlanes : Word := 0
  resume : Nat := 0
deriving DecidableEq, Repr

/-- The refill states of a thread (R155). WAITING is RUNNING or TRAPPED with a wait. -/
inductive TState where
  | running | trapped | parked | drained
deriving DecidableEq, Repr

/-- The engine queues and their permits (R152). -/
inductive EngQ where
  | copy | matrix | acc | region | launch | rfl | loop
deriving DecidableEq, Repr

/-- The first NaN a matrix operation records (R114). -/
structure NanRec where
  row : Nat
  col : Nat
  generated : Bool
deriving DecidableEq, Repr

/-- The operands of a copy (R262): form fn, source or pattern, source stride, index list, destination, destination
stride, bytes per row, rows. -/
structure CopyDesc where
  fn : Nat
  src : DWord
  sstr : Nat
  ipt : DWord
  dst : DWord
  dstr : Nat
  len : Nat
  cnt : Nat
deriving DecidableEq, Repr

/-- An operation's operand block as it was read at issue (R255). -/
abbrev Block32 := List Word

/-- What an engine operation does (R255). -/
inductive OpKind where
  | copy (c : CopyDesc)
  | cpmx (c : CopyDesc) (b : Block32)
  | lds (b : Block32)
  | swap
  | stream (b : Block32)
  | grouped (b : Block32)
  | tile (b : Block32)
  | alloc (mask : Nat)
  | tryAlloc (mask : Nat)
  | free (mask : Nat)
  | zero (mask : Nat)
  | out (b : Block32)
  | rgnMap (b : Block32)
  | rgnFlush (ptr : DWord)
  | rgnUnmap (ptr : DWord)
  | walk (b snap : Block32)
  | launch (ptr : DWord) (queue : Nat) (slot : Option Nat)
  | signal (set : Bool) (ptr value : DWord)
  | rflSetup (ptr : DWord) (mask : Nat)
  | rflRun (banks : Nat)
deriving DecidableEq, Repr

/-- One engine operation in flight (R130, R152, R255, R276): identity in push order, owning pair, issuer, queue, tag, the
walk that pushed it, whether it started, its progress, flags, NaN record, result words, fault, and the region granule
(region, granule, pointer) whose fill it waits for, with its arrival there and whether the fill has come (R33), what its
sequencer keeps (R269, R276), and what it has read of a row and of a plane, what it has still to write of a row, sector by
sector (bank mode, place, bytes; R131, R136), which read of them comes next (R136), what the places that a copy may both read
and write held before it wrote there (R264), what the rows of A, b and x of a refinement run have held since its fork (R297),
and the sectors that a copy, or the DONE of a refinement run, has still to write (bytes moved, the runs at their
destinations; R131). `copied` marks a CPMX whose copy is over, and a run whose DONE has begun. -/
structure EngOp where
  id : Nat
  block : Nat
  rank : Nat
  quad : Nat
  group : Option Nat
  queue : EngQ
  tag : Nat
  walk : Option Nat
  quiet : Bool
  mxnan : Bool
  kind : OpKind
  started : Bool
  prog : Nat
  prog2 : Nat
  copied : Bool
  stop : Bool
  flags : Word
  nan : Option NanRec
  words : List Word
  fault : Option (Nat × DWord)
  kids : List Nat
  foot : List (Nat × Nat)
  waitGran : Option (Nat × Nat × DWord)
  aux : List Nat
  arrival : Nat := 0
  replay : Bool := false
  rowIn : List (Nat × List Byte) := []
  planeIn : List (Nat × List Byte) := []
  partFirst : Nat := 0
  rowOut : List (Nat × Nat × List Byte) := []
  before : List (Nat × List Byte) := []
  held : List (List (List Nat)) := []
  got : List (Nat × List (DWord × List Byte)) := []
deriving DecidableEq, Repr

/-- What a lane brings to a team operation at which it stands (R148, R199, R215): the operation, whether it gives, and
its operands and GCTL as they stood at issue. -/
structure TeamWait where
  op : Instr
  giver : Bool
  a : DWord
  b : Word
  gctl : Word
deriving DecidableEq, Repr

/-- What a thread or control thread waits for (R155, R239 to R248, R251, R281). A `fill` names the granule, none once it has
come, the pointer, the registers its load is to write (v(r) as r, s(r) as 0x44 + r, and how many), its arrival, and the instant of
its instruction's issue, which its fragment shares; `peers` is a lane whose own access has been made while others of that
fragment wait. -/
inductive Wait where
  | none
  | join
  | gbar
  | bar (n : Nat)
  | team (t : TeamWait)
  | commit (drain : Bool)
  | close
  | fence
  | waitc (k : Nat) (value : Word)
  | permit (op : EngOp)
  | dqPush
  | dqPop (ticket d : Nat)
  | evq
  | rflWait
  | loopWait
  | phint (i : Nat)
  | fill (gran : Option (Nat × Nat)) (ptr : DWord) (dst : Nat × Nat) (arrival issue : Nat)
  | peers (issue : Nat)
  | halt
deriving DecidableEq, Repr

/-- One thread (R142): its program counter, v0 to v63, p1 to p7 (bit i is p(i)), refill state, item and count,
trap record, outstanding arrivals at the 16 block barriers (R241), SkipWatch (R366), a FLAG_TRAP due before its next
instruction with the address it names (R112, R186), and when it last issued on each port (R325). -/
structure Thread where
  pc : Nat
  v : List Word
  p : BitVec 8
  st : TState
  wait : Wait
  item : Option Nat
  icnt : Word
  trap : TrapRec
  arr : List (Option Nat)
  skipWatch : Bool
  flagDue : Option Nat
  lastLane : Option Nat
  lastUni : Option Nat
deriving DecidableEq, Repr

/-- The uniform state of a group or control thread (R145, R150): s0 to s63, c1 to c7 (bit i is c(i)), GCTL,
GFLAGS, CBSEL, GTIMER and its deadline, and the operations whose flags it has merged (R248). -/
structure Uni where
  s : List Word
  c : BitVec 8
  gctl : Word
  gflags : Word
  cbsel : Word
  gtimer : DWord
  deadline : DWord
  joined : List Nat
deriving DecidableEq, Repr

/-- A buffered vector register write of a chain member (R186). -/
structure VWrite where
  lane : Nat
  reg : Nat
  val : Word
deriving DecidableEq, Repr

/-- A buffered predicate write of a chain member. -/
structure PWrite where
  lane : Nat
  pred : Nat
  val : Bool
deriving DecidableEq, Repr

/-- A chain in progress (R186): its lanes, head, members issued, the uniform registers from before it, the latches b0 to b3 of
each lane, the writes and flags that take effect when it completes, and the cycle and instant of its head. -/
structure Chain where
  lanes : BitVec 32
  head : Nat
  count : Nat
  s : List Word
  latches : List (List (Option DWord))
  vw : List VWrite
  pw : List PWrite
  flags : List (Nat × Word)
  cycle : Nat
  seq : Nat
deriving DecidableEq, Repr

/-- One group (R145, R149): its number in the block, slot, uniform state, 32 threads, and chain. -/
structure Group where
  num : Nat
  slot : Nat
  uni : Uni
  threads : List Thread
  chain : Option Chain
  placedAt : Nat
  retired : Bool
  saved : Bool
deriving DecidableEq, Repr

/-- Where a control thread stands (R150, R254). -/
inductive CtlState where
  | running | trapped | halting | halted
deriving DecidableEq, Repr

/-- One control thread of a block on a quadrant (R150, R253). -/
structure Ctl where
  rank : Nat
  quad : Nat
  pc : Nat
  uni : Uni
  st : CtlState
  wait : Wait
  trap : TrapRec
  placedAt : Nat
  lastUni : Option Nat
deriving DecidableEq, Repr

/-- One loaded stationary plane (R266): format code, slice count, column count, the 48 bytes of each column, the
16-byte scale slots of each (column, slice), whether an uncorrectable error poisoned it (R80), and the instant of its load. -/
structure Plane where
  fmt : Nat
  slices : Nat
  n : Nat
  cols : List (List Byte)
  scales : List (List (List Byte))
  poisoned : Bool
  loadedAt : Nat
deriving DecidableEq, Repr

/-- A completed operation as the joins of its pair see it (R248, R257): its counter and the count it made, its
status, cause and address, flags and NaN record, and its class-G write footprint (first and last place keys). -/
structure DoneOp where
  id : Nat
  counter : Nat
  count : Nat
  tag : Nat
  quad : Nat
  status : Nat
  cause : Nat
  addr : DWord
  flags : Word
  nan : Option NanRec
  foot : List (Nat × Nat)
  kids : List Nat
  granted : Nat
deriving DecidableEq, Repr

/-- A ladder rung of a refinement command block (R283). -/
structure Rung where
  fmt : Nat
  actions : Nat
  limit : Nat
deriving DecidableEq, Repr

/-- What RFL.SETUP latched from the command block (R283, R291). -/
structure RflBind where
  ptr : DWord
  mask : Nat
  n : Nat
  init : Bool
  rungs : List Rung
  aPtr : DWord
  aStride : Nat
  bPtr : DWord
  xPtr : DWord
  ws : DWord
  tau : DWord
  rho : DWord
  win : Nat
  gamma : DWord
  setup : Nat
deriving DecidableEq, Repr

/-- The step machine of a refinement run (R286): its operation, state code, rung, j, elimination column, totals per rung, the
η history of the rung, η0 and the latest η, ‖A‖∞, A and b as INIT read them, the vectors, the factor in the rung's codes with the
scales of its rows' blocks, the row order, the exponent of α, whether the factors are made, saturations, the exit code, and
what RFL.STATE may still read: the boundaries passed since the last read (R294). -/
structure RflRun where
  op : Nat
  step : Nat
  rung : Nat
  j : Nat
  k : Nat
  total : Nat
  perRung : List Nat
  etas : List Nat
  eta0 : Nat
  eta : Nat
  normA : Nat
  a : List (List Nat)
  b : List Nat
  x : List Nat
  r : List Nat
  d : List Nat
  lu : List (List Nat)
  scales : List (List Nat)
  perm : List Nat
  alpha : Int
  made : Bool
  sat : Nat
  exitCode : Nat
  seen : List (List Word)
deriving DecidableEq, Repr

/-- The state of one (block, quadrant) pair (R150, R152, R153, R258): counters, decision queue, event queue with the
operation each record belongs to, EVQDROP, SEQ, the completions made, the instant from which loads of the quadrant's planes
count for the block (R266), the planes that a swap-out saved (R355), the completed TRYALLOCs that no join has seen and what
they granted (R259), and the pair's refinement binding, what stands in push order (whether there is one, and its quadrants),
its last run, and the last RUN pushed (R290 to R294). -/
structure Pair where
  rank : Nat
  quad : Nat
  k : List Word
  dq : List DWord
  evq : List (Nat × List Word)
  evqdrop : Word
  seq : Word
  log : List DoneOp
  loadsFrom : Nat
  savedActive : Option Plane
  savedShadow : Option Plane
  unjoined : List (Nat × Nat)
  bind : Option RflBind
  bindView : Bool
  bindMask : Nat
  run : Option RflRun
  lastRun : Option Nat
deriving DecidableEq, Repr

/-- One block barrier (R241). -/
structure Barrier where
  inst : Nat
  masks : List (BitVec 32)
  arrived : List Bool
deriving DecidableEq, Repr

/-- Granule states (R33). -/
inductive GrState where
  | invalid | filling | clean | dirty | writing
deriving DecidableEq, Repr

/-- One granule of a region: its state, byte dirty mask, dirtier mask, what its write-back captured (R33), and which of these
bytes it has still to write. -/
structure Granule where
  st : GrState
  mask : BitVec 128
  dirtier : BitVec 12
  capMask : BitVec 128
  capDirtier : BitVec 12
  capBytes : List Byte
  capLeft : BitVec 128 := 0
deriving DecidableEq, Repr

/-- A region record (R31): the member that mapped it, space code, base, length, global base, mode, granules. -/
structure Region where
  rank : Nat
  space : Nat
  base : Nat
  len : Nat
  vbase : Nat
  mode : Nat
  grans : List Granule
deriving DecidableEq, Repr

/-- One pending byte of a phase domain (R71, R120): the place it will be published at, its value, the other copies
a multicast names (R138), its local instant, and whether an uncorrectable error poisoned its sector (R79). -/
structure PendByte where
  key : Nat
  val : Byte
  copies : List Nat
  at_ : Nat
  bad : Bool := false
deriving DecidableEq, Repr

/-- How far pre-emption of a block has gone (R352, R353). -/
inductive Pre where
  | none
  | soft (graceEnd : Nat)
  | hard
  | swapped
deriving DecidableEq, Repr

/-- A byte saved in a shadow-store frame or the spill area (R355, R356): the member, the kind of storage (0 CLS,
1 CB, 2 AB, 3 none), its offset there, and its value. -/
structure SavedByte where
  rank : Nat
  kind : Nat
  off : Nat
  val : Byte
deriving DecidableEq, Repr

/-- A swapped-out block's save beside its own record (R355, R356): the bytes that are not zero, the bank counters, whether
each member lies in the spill area and else the die of its frame, whether the frame is poisoned, the AB ranges saved (member,
start, length), the poisoned units (member, kind, offset, length), and where each member's image in the spill area begins. -/
structure Frame where
  bytes : List SavedByte
  counters : List (Nat × Nat × Nat × Nat × Nat)
  spilled : List Bool
  dies : List Nat
  poisoned : Bool
  ranges : List (Nat × Nat × Nat)
  poison : List (Nat × Nat × Nat × Nat)
  spillAt : List Nat
deriving DecidableEq, Repr

/-- A pinned leaf (R53): context, first VA, log2 of its size, the place of its frame. -/
structure Pin where
  ctx : Nat
  va : Nat
  bits : Nat
  key : Nat
deriving DecidableEq, Repr

/-- One block (R141, R149): its grid, number, cores by member rank, CLS base, groups, control threads, pairs,
barriers, regions, CB banks (member, logical bank), pending bytes of each domain, PRIV backing
and its pinned pages, pre-emption. -/
structure Block where
  id : Nat
  grid : Nat
  num : Nat
  cores : List Nat
  cluster : Nat
  cbase : Nat
  groups : List Group
  ctls : List Ctl
  pairs : List Pair
  bars : List Barrier
  regions : List Region
  cb : List (Nat × Nat)
  doms : List (List PendByte)
  priv : Option Nat
  privPins : List Pin
  pre : Pre
  placedNs : Nat
  frame : Option Frame
deriving DecidableEq, Repr

/-- One range of a lease list (R51). -/
structure LeaseRange where
  base : Nat
  len : Nat
  r : Bool
  w : Bool
  a : Bool
  x : Bool
  rep : Bool
  place : Nat
  die : Nat
  repMask : Nat
deriving DecidableEq, Repr

/-- The states of a lease (R53). -/
inductive LeaseState where
  | resolving | granted | free | failed
deriving DecidableEq, Repr

/-- A grid descriptor's fields (R314) and the record count of its kernel image header (R194). -/
structure GridDesc where
  codeBase : Nat
  groupEntry : Nat
  ctlEntry : Nat
  handler : Nat
  refillSite : Option Nat
  vCount : Nat
  uCount : Nat
  unit : Nat
  vers : Bool
  power : Bool
  cls : Nat
  vlo : Nat
  vhi : Nat
  clear : Bool
  g : Nat
  m : Nat
  c : Nat
  cbHint : Nat
  maxBlocks : Nat
  items : Nat
  leasePtr : Nat
  argPtr : Nat
  argLen : Nat
  ablim : Nat
  constPtr : Nat
  privBase : Nat
  privLen : Nat
  recs : Nat
deriving DecidableEq, Repr

/-- How a grid stands with one cluster's dispatcher (R316, R320, R327, R328): when it was offered, its rank once
ENQUEUE decided, and whether a WAKE deferred its restores. -/
structure Offer where
  cluster : Nat
  at_ : Nat
  rank : Option Nat
  deferred : Bool
  wakeEpoch : Nat
deriving DecidableEq, Repr

/-- One launched grid (R311, R316, R320): where it came from, its descriptor, leases and pins, item counter, blocks
handed out and live, offers, ageing, completion, and the cores on which a block of it has been placed (R77). -/
structure Grid where
  id : Nat
  ctx : Nat
  queue : Nat
  index : Nat
  node : Option Nat
  desc : GridDesc
  leases : List LeaseRange
  lease : LeaseState
  pins : List Pin
  sidePins : List Pin
  ctr : Nat
  nextBlock : Nat
  live : Nat
  priv : List Nat
  prio : Nat
  offers : List Offer
  offered : Bool
  pass : Nat
  reserved : Bool
  reservedAt : Nat
  complete : Bool
  placed : List Nat := []
deriving DecidableEq, Repr

/-- The states of a queue (R307). -/
inductive QState where
  | unmapped | idle | active | blocked | error
deriving DecidableEq, Repr

/-- A packet that has been read and has not completed: its index, its eight 64-bit words, whether its work is done
or it has failed, how far a copy has gone, the pages it pins, and the source of a copy that overlaps its destination as it stood
before (R264). -/
structure Running where
  index : Nat
  raw : List DWord
  done : Bool
  failed : Bool
  prog : Nat
  pins : List Pin
  snap : List Byte
deriving DecidableEq, Repr

/-- A graph node that runs: its number, whether its work is done, its outcome as a COND, and as in `Running`. -/
structure NodeRun where
  node : Nat
  done : Bool
  outcome : Bool
  prog : Nat
  pins : List Pin
  snap : List Byte
deriving DecidableEq, Repr

/-- A pass of a running command graph (R313): the GRAPH packet's index, the nodes' words as they were read, pending
predecessor counts, the nodes released and running, whether a REARM completed, the smallest limit, the rearms made, and
whether a node failed. -/
structure GraphRun where
  index : Nat
  nodes : List (List DWord)
  pend : List Nat
  released : List Nat
  running : List NodeRun
  flag : Bool
  most : Nat
  rearms : Nat
  failed : Bool
deriving DecidableEq, Repr

/-- One queue: its two control block halves (R303, R304), status line contents (R305), ring slots marked ready or
void (R278, R306), thread mapping (R307), the packets it has in flight, and the
instants at which unread packets were made available (write index then, instant; R335 QAGE), and when its thread last took a
turn (R307). -/
structure Queue where
  id : Nat
  ctx : Nat
  num : Nat
  qcbh : QcbHalf
  version : Nat
  replicas : List Bool
  widx : Nat
  ridx : Nat
  didx : Nat
  resv : Nat
  state : QState
  mapped : Bool
  since : Nat
  err : Nat
  errIndex : Nat
  errNode : Option Nat
  ready : List (Nat × Bool)
  run : List Running
  skip : Nat
  graphs : List GraphRun
  marker : Nat
  markerClk : Nat
  rearms : Nat
  statusSeq : Nat
  statusBad : Bool
  avail : List (Nat × Nat)
  served : Nat := 0
deriving DecidableEq, Repr

/-- A context descriptor (R302), word by word. -/
structure CtxDesc where
  root : DWord
  ident : Word
  ctrl : Word
deriving DecidableEq, Repr

/-- A page request the device has made (R374, R375): tag or PRI index, whether by PRI, function and generation, context, VA, and
whether the host has refused it, which the waiting access has still to see. -/
structure PageReq where
  tag : Nat
  pri : Bool
  fn : Nat
  gen : Nat
  ctx : Nat
  va : Nat
  refused : Bool
deriving DecidableEq, Repr

/-- The registers each function has (R48, R339, R359, R362, R364, R374, R375, R377, R381, R356); tlbiRun is the invalidation in
progress: scope, context, first address, length; rstReq the reset request being carried out. -/
structure FnRegs where
  tlbiCtl : Word := 0
  tlbiVa : DWord := 0
  tlbiNpg : Word := 0
  tlbiRun : List Nat := []
  trlAddr : DWord := 0
  trlCtl : Word := 0
  trlIdx : Word := 0
  trlRun : Option (DWord × Word) := none
  rstCtl : DWord := 0x0800000000000000
  rstTmo : Word := 2000
  rstReq : DWord := 0
  rstStart : Nat := 0
  rstRung : Nat := 0
  fngen : BitVec 16 := 0
  prqBase : DWord := 0
  prqSize : Word := 0
  prqTail : Nat := 0
  intPend : DWord := 0
  icoal : BitVec 16 := 0
  vecMask : DWord := 0
  unsent : List (Nat × Nat) := []
  lastMsg : List (Nat × Nat) := []
  clkOfs : DWord := 0
  ready : Bool := false
  stage : Nat := 0
  spillBase : DWord := 0
  spillSize : DWord := 0
  faultLog : List (Nat × Nat) := []
  peerRej : Nat := 0
deriving DecidableEq, Repr

/-- An event waiting for a policy engine (R327, R329): the point, grid, tenant and argument. -/
structure TrEvent where
  point : Nat
  grid : Nat
  tenant : Nat
  arg : Nat
deriving DecidableEq, Repr

/-- One installed routine set (R338, R341): its tenant (16 for the ringmaster set), routine table, window, code,
state window of each cluster, and whether the carousel replaces it (R336). -/
structure TrSet where
  tenant : Nat
  routines : List (Nat × Nat)
  window : DWord
  code : List Word
  state : List (Nat × List DWord)
  carousel : Bool
deriving DecidableEq, Repr

/-- An open loop of a routine (R332): its first body word, the passes left, its register and the next value. -/
structure TrLoop where
  body : Nat
  left : Nat
  reg : Nat
  next : Nat
deriving DecidableEq, Repr

/-- A routine as it runs (R330): registers, decision registers, program counter, loops, buffered window writes, policy cycles,
the mailbox words its scan has read so far (R334), and whether it ended at DONE or was stopped. -/
structure TrRun where
  g : List Nat
  d : List Nat
  pc : Nat
  loops : List TrLoop
  buf : List (Nat × Nat)
  cycles : Nat
  scanned : List Nat
  done : Bool
  stopped : Bool
deriving DecidableEq, Repr

/-- What a routine runs over (R329, R330): its set, its code, the counters captured that its code names, its point, the words of
its state window, the cluster. -/
structure TrEnv where
  set : TrSet
  code : List Word
  ctrs : List (Nat × Nat)
  point : Nat
  window : List DWord
  cluster : Nat
deriving DecidableEq, Repr

/-- A decision in progress (R329): its event, the sets whose routines are still to run (16 for the ringmaster set), what
those that ended left in their decision registers (none where the carousel decides), the routine that runs, what a load has
replaced since it began (by tenant the set that stood, if any; R341), and the ready grids that PICK's tenant routine found in
its R-vectors. -/
structure Decision where
  ev : TrEvent
  todo : List Nat
  ended : List (Nat × Option (List Nat))
  now : Option (TrEnv × TrRun)
  replaced : List (Nat × Option TrSet)
  ready : List Nat
deriving DecidableEq, Repr

/-- One cluster's dispatcher and policy engine (R320, R329, R334, R336, R342, R352): its registers, the generator, the
overruns and drops, the head and whether it has placed a block since the last attempt here, the events waiting, the grids the
round has still to attempt, the tenant last placed, the last TICK, overruns in a row of each set, the cores' issue counts at
the last TICK and over the period before it (R335 ISSUE), the same of the L2's misses (L2MISS), and the victims chosen for a
reserved head with their power tokens, those without a block having freed them (R321), and the decision in progress (R329).
-/
structure Disp where
  dsctl : Word := 0x100007D0
  pectl : Word := 20
  trctl : Word := 0x800003E8
  trseed : DWord := 0x6A09E667F3BCC909
  gen : DWord := 0x6A09E667F3BCC909
  ovr : Nat := 0
  drop : Nat := 0
  head : Option Nat := none
  events : List TrEvent := []
  order : List Nat := []
  lastTenant : Option Nat := none
  tickAt : Nat := 0
  overruns : List (Nat × Nat) := []
  headPlaced : Bool := false
  issueBase : List Nat := []
  issueLast : List Nat := []
  missBase : Nat := 0
  missLast : Nat := 0
  victims : Option (Nat × List (Option Nat × Nat)) := none
  policy : Option Decision := none
deriving DecidableEq, Repr

/-- One entry of a stack's hot list (R62). -/
structure HotEntry where
  frame : Nat
  ctx : Nat
  est : Nat
deriving DecidableEq, Repr

/-- One HBM stack controller's sketch (R62, R63): SKCTL, SKSEQ, the counters that are not zero by row × 4096 + hash, the
list, when the interval began, and the bursts served that it has still to count, each its frame and CTXID, in arrival order.
-/
structure Sketch where
  skctl : Word := 1000
  skseq : Word := 0
  cnt : List (Nat × Nat) := []
  hot : List HotEntry := []
  start : Nat := 0
  waiting : List (Nat × Nat) := []
deriving DecidableEq, Repr

/-- A way of a core's L1 data cache (R68, R71, R72, R75): the context and its function, the line (place key / 128), the clean
bytes it holds, whether it was filled by an RO load, from CONST or for PRIV, whether it is protected (KEEP), whether it is to be
inserted as least recently used once published (STREAM), and the domain (block, member) whose pending bytes it holds. A core's
ways are listed most recently used first. -/
structure L1Line where
  ctx : Nat
  fn : Nat
  line : Nat
  bytes : List (Option Byte)
  ro : Bool := false
  const : Bool := false
  priv : Bool := false
  keep : Bool := false
  last : Bool := false
  dom : Option (Nat × Nat) := none
deriving DecidableEq, Repr

/-- A way of a core's instruction cache (R68, R77), with the bytes it holds. -/
structure IcLine where
  ctx : Nat
  line : Nat
  bytes : List (Option Byte)
deriving DecidableEq, Repr

/-- A way of a cluster's L2 (R68, R70, R71): the line, the context whose KEEP protects it, whether it is to be inserted as least
recently used once published, whether the cluster owns a host line, and the domain whose pending bytes it holds. The home's
directory keeps a clean copy equal to its home (R69). -/
structure L2Line where
  line : Nat
  keep : Option Nat := none
  last : Bool := false
  owned : Bool := false
  dom : Option (Nat × Nat) := none
deriving DecidableEq, Repr

/-- A way of a die's LLC that holds an ordinary line (R69, R76): the context whose KEEP protects it, its sharer vector, and
the context whose write it has still to bring to its stack (R62). -/
structure LlcLine where
  line : Nat
  keep : Option Nat := none
  sharers : BitVec 16 := 0
  wrote : Option Nat := none
deriving DecidableEq, Repr

/-- A cluster's L2, most recently used first, and its misses (R335 L2MISS). -/
structure ClusterHw where
  l2 : List L2Line := []
  misses : Nat := 0
deriving DecidableEq, Repr

/-- A cached translation (R45): context, first VA, log2 of its size, the leaf. -/
structure TlbEntry where
  ctx : Nat
  va : Nat
  bits : Nat
  leaf : DWord
deriving DecidableEq, Repr

/-- A cached table pointer of a walker (R45): context, the level it was read at, the VA bits that index down to it,
the entry. -/
structure PtrEntry where
  ctx : Nat
  level : Nat
  key : Nat
  entry : DWord
deriving DecidableEq, Repr

/-- A latency or occupancy monitor (R369). -/
structure Monitor where
  ctl : Word := 0
  min : Word := 0
  max : Word := 0
  bins : List Nat := []
deriving DecidableEq, Repr

/-- A watchpoint comparator (R366). -/
structure Watchpoint where
  base : DWord := 0
  lim : DWord := 0
  ctl : Word := 0
deriving DecidableEq, Repr

/-- What a core holds beside its blocks: caches, its L1 TLB, its slice of the die's L2 TLB and the walker's table
pointers (R45), debug comparators and monitors, and the pair that
holds its refinement controller (block, member, quadrant; R291), and the per-lane issues made (R335). -/
structure CoreHw where
  l1 : List L1Line := []
  ic : List IcLine := []
  tlb : List TlbEntry := []
  slice : List TlbEntry := []
  ptrs : List PtrEntry := []
  wps : List (Nat × Watchpoint) := []
  mons : List (Nat × Monitor) := []
  rfl : Option (Nat × Nat × Nat) := none
  issues : Nat := 0
deriving DecidableEq, Repr

/-- What a quadrant holds beside its groups: QOWN and a requested owner (R372, R373), the active and the shadow plane of its
matrix engine (R266), the debug registers (R367), the histogram bins 1 to 7 and stall reasons of its per-lane port (R326,
R368), and on its uniform port the group threads whose eligible instruction a control thread has passed, with the cycles it has
waited (R254). -/
structure QuadHw where
  own : Nat := 0
  wanted : Option Nat := none
  active : Option Plane := none
  shadow : Option Plane := none
  stopped : Bool := false
  session : Bool := false
  dbgCtx : Nat := 0
  dbgEntries : Nat := 0
  dbgBuf : DWord := 0
  bins : List Nat := []
  stalls : List Nat := []
  passed : List (ThreadRef × Nat) := []
deriving DecidableEq, Repr

/-- A speculative version line (R81, R82): its tag, the die that holds it, line and the bytes stored. -/
structure VersLine where
  ctx : Nat
  tag : ThreadRef
  die : Nat
  line : Nat
  bytes : List (Nat × Byte)
  poisoned : Bool
deriving DecidableEq, Repr

/-- What a die holds: VSCTL, the overflow count of VSTAT (R81), the ordinary lines of its LLC, most recently used first
(R68), the mailbox grant table (R89), and ACLK lowering (R384). -/
structure DieHw where
  vsctl : Word := 4
  overflows : Word := 0
  llc : List LlcLine := []
  mbxg : List (Nat × DWord) := []
  slowed : Bool := false
deriving DecidableEq, Repr

/-- An export table entry of a JX Link port (R379): offset range, physical base, and rights. -/
structure ExportEnt where
  base : DWord := 0
  len : DWord := 0
  phys : DWord := 0
deriving DecidableEq, Repr

/-- A leased page's place in the frame table (R53, R65): physical base, pin count, migrating mark. -/
structure FrameEnt where
  pa : Nat
  pins : Nat
  migrating : Bool
deriving DecidableEq, Repr

/-- A register that an uncorrectable error poisoned (R80). -/
inductive PoisonReg where
  | v (t : ThreadRef) (r : Nat)
  | p (t : ThreadRef) (r : Nat)
  | s (g : GroupRef) (r : Nat)
  | c (g : GroupRef) (r : Nat)
  | cs (block rank quad r : Nat)
  | cc (block rank quad r : Nat)
deriving DecidableEq, Repr

/-- What the management core answered to an SPDM request (R383). -/
inductive SpdmAnswer where
  | ok (request : Nat) (payload : List Byte)
  | unsupported (request : Nat)
deriving DecidableEq, Repr

/-- A mark posted by SYS.PROFMARK (R280). -/
structure ProfMark where
  mark : Nat
  clk : DWord
deriving DecidableEq, Repr

/-- What a peer's own export tables deny this device (R380): aperture addresses from base on, and the accesses refused.
It stands outside the device; the outside world sets it. -/
structure PeerDeny where
  base : Nat
  len : Nat
  read : Bool
  write : Bool
  atomic : Bool
deriving DecidableEq, Repr

/-- Where an access falls: bytes of a buffer or mailbox; CB containers from a place on; bytes of class G at a place with
the copies a multicast writes; bytes of a peer; CONST bytes. -/
inductive Place where
  | buf (key : Nat)
  | cell (key : Nat)
  | glob (key : Nat) (copies : List Nat) (mt : Nat) (priv : Bool)
  | peer (key : Nat)
  | konst (off : Nat)
deriving DecidableEq, Repr

/-- The marks of a class-G load: the hint (R75), and what kind of line it fills. -/
structure LoadMarks where
  ro : Bool := false
  stream : Bool := false
  keep : Bool := false
  const : Bool := false
  priv : Bool := false
deriving DecidableEq, Repr

/-- A write that waits in the write queues (R78, R118): whose threads' store it is or whose domain's publication, its context
and function, its class (0 B, 1 D, 2 P, 3 G), its bytes at their places, performed together, and after them those of the other
copies of a multicast, one copy after another (R138), whether the primary's have been performed, and whether it is of a capacity
close, which lies between two instructions of each of the domain's threads (R73). -/
structure HeldStore where
  owner : Agent
  ctx : Nat
  fn : Nat
  cls : Nat
  cells : List (Nat × List Byte)
  dom : Option (Nat × Nat) := none
  copies : List (List (Nat × List Byte)) := []
  begun : Bool := false
  point : Bool := false
deriving DecidableEq, Repr

/-- The bytes of a load of class B, D or P that took effect ahead of its issue (R118), or, where `told`, the bytes that a load or
atomic to be issued will find when it takes effect later. -/
structure EarlyLoad where
  owner : Agent
  key : Nat
  bytes : List Byte
  told : Bool := false
deriving DecidableEq, Repr

/-- What a late access does: a load, with its marks, the version it may see and whether it is sign-extended; an atomic with its
operation, data and swap value; a class-G store, with its marks, whether it is a multicast, and its bytes. -/
inductive LateKind where
  | load (m : LoadMarks) (tag : Option ThreadRef) (signed : Bool)
  | atom (f data swap : Nat)
  | store (m : LoadMarks) (mcst : Bool) (bytes : List Byte)
deriving DecidableEq, Repr

/-- A load, an atomic or a class-G store that has issued and takes effect later (R118): whose it is (one lane of a group, or a
uniform issuer where `uni`), the instruction's instant and address, its block, member and quadrant, its pointer and place, its
width in bytes and its destination, and, where its thread has gone on with foretold bytes, these. -/
structure LateAcc where
  owner : Agent
  uni : Bool
  issue : Nat
  pc : Nat
  block : Nat
  rank : Nat
  quad : Nat
  ptr : DWord
  place : Place
  n : Nat
  d : Nat
  kind : LateKind
  told : Option (List Byte) := none
deriving DecidableEq, Repr

/-- The write queues (R78) and what R118 leaves open beside them: whether writes now wait and whether accesses now take
effect late, the writes that wait, the loads read ahead, the accesses that have still to take effect, the agents whose
acquiring atomic has its PHASE.OPEN still to come (R119), whether a foretold access found other bytes: then the agenda names
no execution of R117, and the machine stands still (log 76); whether the refill of a unit now waits for its turn (R156; log
89); and the context that the queues, left to themselves, serve next (R78). -/
structure WriteQueues where
  hold : Bool := false
  slow : Bool := false
  stores : List HeldStore := []
  loads : List EarlyLoad := []
  late : List LateAcc := []
  opens : List Agent := []
  void : Bool := false
  refills : Bool := false
  next : Nat := 0
deriving DecidableEq, Repr

/-- A motion that may happen at any instant the spec allows and has no row of its own: the replacement of an instruction
cache or TLB entry or of an unprotected clean L1 line (R76, R45), the publication of one 16-byte unit of a commit or one
sector of a write-back in progress (R85, R131, R137), the start of a close's publication (R122), a capacity close (R73), one
sector or row of an engine operation or of a COPY packet (R131), the choice of the read of a row or plane that an operation
makes next (R136), a sector of a copy read ahead of its write, the load of a sequencer's next weights ahead of its step
(R269, R270), writes held back in the write queues, one of them performed, a load read ahead of its turn, what an access will
find foretold, accesses that take effect late, one of them performed (R78, R118), refills that wait for their turn (R156), a
line fetched into an L1 (R121), a peer's write to its own memory (R126), one instruction of a policy routine (R329), time
passing, the host giving the device free HBM frames, the choice of a profiling event (R370), what the peers deny (R380), or a
function becoming READY (R381). -/
inductive Micro where
  | evictL1 (core i : Nat)
  | evictIc (core i : Nat)
  | evictTlb (core i : Nat)
  | evictSlice (core i : Nat)
  | evictPtr (core i : Nat)
  | commitUnit (t : ThreadRef) (unit : Nat)
  | writeBackSector (x : GranuleRef)
  | closeStart (block rank : Nat)
  | capacityClose (block rank : Nat)
  | advance (op : Nat)
  | loadAhead (op : Nat)
  | readOn (op : Nat)
  | readFirst (op i : Nat)
  | holdStores (on : Bool)
  | performStore (i : Nat)
  | readAhead (a : Agent) (key n : Nat)
  | foretell (a : Agent) (key : Nat) (bytes : List Byte)
  | lateAccesses (on : Bool)
  | performLate (i : Nat)
  | lateRefills (on : Bool)
  | fetchL1 (core ctx line : Nat)
  | peerWrite (addr : Nat) (data : List Byte)
  | policyStep (cluster : Nat)
  | copyPacket (p : PktRef)
  | time (cycles : Nat)
  | freeFrame (die pa bits : Nat)
  | profSelect (fn i event : Nat)
  | peerPolicy (l : List PeerDeny)
  | fnReady (fn : Nat)
deriving DecidableEq, Repr

/-- Who moves next (R325 leaves the order between quadrants and of the outside world open): an agent issues, a device
step or outside input takes place, or one of the motions above. -/
inductive Turn where
  | issue (a : Agent)
  | event (i : Instr)
  | micro (m : Micro)
deriving DecidableEq, Repr

/-- The machine. `hostData` is what the last read by the host or a peer gave, `hostUr` whether the host's last request
completed as Unsupported Request (R371). `agenda` and `cur`, `fresh`, `cycle` are the model's own; every other field is the
spec's. -/
structure State where
  mem : List Host.Cell
  poison : List (Nat × Nat)
  regPoison : List PoisonReg
  ctxs : List (Nat × CtxDesc)
  queues : List Queue
  grids : List Grid
  blocks : List Block
  ops : List EngOp
  nextId : Nat
  seq : Nat
  cores : List (Nat × CoreHw)
  quads : List (Nat × QuadHw)
  clusters : List (Nat × ClusterHw)
  dies : List (Nat × DieHw)
  disps : List (Nat × Disp)
  fns : List (Nat × FnRegs)
  sketches : List (Nat × Sketch)
  versions : List VersLine
  wq : WriteQueues
  cbCount : List (Nat × (Nat × Nat × Nat))
  frames : List FrameEnt
  freeFrames : List (Nat × Nat × Nat)
  pageReqs : List PageReq
  sets : List TrSet
  ptpool : Nat
  portsDown : List Nat
  exports : List (Nat × ExportEnt)
  meas : List (List Byte)
  spdm : List SpdmAnswer
  messages : List (Nat × Nat)
  events : List (Nat × Nat)
  sessions : List (Nat × Nat × Nat)
  marks : List ProfMark
  corrected : Nat
  migRefused : Nat
  hostData : List Byte
  hostUr : Bool
  hostGone : List (Nat × Nat)
  lastLive : List (Nat × Nat)
  peerDeny : List PeerDeny
  clk17 : Nat
  cycle : Nat
  cur : Agent
  agenda : List Turn
  fresh : Nat
deriving DecidableEq, Repr

/-- The machine right after reset (R363 rung 4, R381 before bring-up, and the Reset columns of the register maps):
nothing is resident, every table entry reads its reset value, memory lists nothing. -/
def State.reset : State :=
  { mem := [], poison := [], regPoison := [], ctxs := [], queues := [], grids := [], blocks := [], ops := [],
    nextId := 0, seq := 0, cores := [], quads := [], clusters := [], dies := [], disps := [], fns := [], sketches := [],
    versions := [], wq := {}, cbCount := [], frames := [], freeFrames := [], pageReqs := [], sets := [], ptpool := 768,
    portsDown := [], exports := [], meas := List.replicate 8 (List.replicate 48 0), spdm := [], messages := [],
    events := [], sessions := [], marks := [], corrected := 0, migRefused := 0, hostData := [], hostUr := false, hostGone := [], lastLive := [], peerDeny := [], clk17 := 0,
    cycle := 0, cur := .none, agenda := [], fresh := 0 }

end Sys2Proof.Machine
end

