-- ==== Sys2Proof/Machine/Bits.lean ====
section
/-!
DEFINITION. Bit fields, sign extension, byte order, sparse tables and list helpers (00_scope.md R2, R7).
-/
namespace Sys2Proof.Machine

/-- Bits hi:lo of x as a number (R2). -/
def bitsOf (x hi lo : Nat) : Nat := x / 2 ^ lo % 2 ^ (hi - lo + 1)

/-- Bit i of x. -/
def bitOf (x i : Nat) : Bool := x / 2 ^ i % 2 == 1

/-- The two's complement value of the n low bits of x (R7 SignExtend). -/
def sext (n x : Nat) : Int :=
  let y := x % 2 ^ n
  if 2 * y < 2 ^ n then (y : Int) else (y : Int) - (2 ^ n : Nat)

/-- The n-bit pattern of an integer. -/
def toBits (n : Nat) (x : Int) : Nat := (x % ((2 ^ n : Nat) : Int)).toNat

/-- A 64-bit value from its two registers, the even one lowest (R169). -/
def joinPair (lo hi : Word) : DWord := BitVec.ofNat 64 (lo.toNat + hi.toNat * 2 ^ 32)

/-- Bits 31:0 of a 64-bit value. -/
def loWord (x : DWord) : Word := BitVec.ofNat 32 x.toNat

/-- Bits 63:32 of a 64-bit value. -/
def hiWord (x : DWord) : Word := BitVec.ofNat 32 (x.toNat / 2 ^ 32)

/-- n bytes of a number, little-endian (R2). -/
def toBytes : Nat → Nat → List Byte
  | 0, _ => []
  | n + 1, x => BitVec.ofNat 8 x :: toBytes n (x / 256)

/-- The number a little-endian byte string holds (R2). -/
def ofBytes : List Byte → Nat
  | [] => 0
  | b :: bs => b.toNat + 256 * ofBytes bs

/-- The value a sparse table holds at k, or its default. -/
def tabGet {α : Type} (t : List (Nat × α)) (k : Nat) (d : α) : α :=
  match t with
  | [] => d
  | (j, x) :: r => if j == k then x else tabGet r k d

/-- The table with k set, its keys rising. -/
def tabSet {α : Type} (t : List (Nat × α)) (k : Nat) (v : α) : List (Nat × α) :=
  match t with
  | [] => [(k, v)]
  | (j, x) :: r =>
    if j == k then (k, v) :: r
    else if k < j then (k, v) :: (j, x) :: r
    else (j, x) :: tabSet r k v

/-- The table with the value at k changed by f. -/
def tabMod {α : Type} (t : List (Nat × α)) (k : Nat) (d : α) (f : α → α) : List (Nat × α) :=
  tabSet t k (f (tabGet t k d))

/-- A list with its i-th element changed. -/
def modAt {α : Type} (l : List α) (i : Nat) (f : α → α) : List α :=
  match l, i with
  | [], _ => []
  | x :: r, 0 => f x :: r
  | x :: r, i + 1 => x :: modAt r i f

/-- The elements of the list that meet p changed by f. -/
def modIf {α : Type} (l : List α) (p : α → Bool) (f : α → α) : List α :=
  l.map fun x => if p x then f x else x

/-- The place of the first element that meets p. -/
def indexWhere {α : Type} (l : List α) (p : α → Bool) : Option Nat :=
  match l with
  | [] => none
  | x :: r => if p x then some 0 else (indexWhere r p).map (· + 1)

/-- Insertion into a list that `le` orders, after its equals. -/
def insertBy {α : Type} (le : α → α → Bool) (x : α) : List α → List α
  | [] => [x]
  | y :: r => if le y x then y :: insertBy le x r else x :: y :: r

/-- A stable sort by insertion. -/
def sortBy {α : Type} (le : α → α → Bool) (l : List α) : List α :=
  l.foldl (fun acc x => insertBy le x acc) []

/-- The lanes of a mask, ascending. -/
def lanesOf (m : BitVec 32) : List Nat := (List.range 32).filter fun i => bitOf m.toNat i

/-- The mask of a list of lanes (R345). -/
def maskOf (l : List Nat) : BitVec 32 :=
  BitVec.ofNat 32 (l.foldl (fun a i => a ||| 2 ^ i) 0)

/-- ceil(a / b). -/
def ceilDiv (a b : Nat) : Nat := (a + b - 1) / b

/-- The number of set bits of the n low bits. -/
def popCount : Nat → Nat → Nat
  | 0, _ => 0
  | n + 1, x => x % 2 + popCount n (x / 2)

/-- The n low bits of x in reverse order. -/
def reverseBits : Nat → Nat → Nat
  | 0, _ => 0
  | n + 1, x => x % 2 * 2 ^ n + reverseBits n (x / 2)

/-- floor(sqrt x) for x below 4^k, one bit of the root at a time. -/
def isqrtFrom : Nat → Nat → Nat → Nat
  | 0, _, r => r
  | k + 1, x, r =>
    let t := r + 2 ^ k
    isqrtFrom k x (if t * t ≤ x then t else r)

/-- floor(sqrt x). -/
def isqrt (x : Nat) : Nat := isqrtFrom (x.log2 / 2 + 1) x 0

/-- Floor(Log2(x)) of a positive dyadic m × 2^e. -/
def log2Dy (m : Nat) (e : Int) : Int := (m.log2 : Int) + e

/-- Floor of m / 2^k, shifting left when k is negative. -/
def shrInt (m : Nat) (k : Int) : Nat := if k < 0 then m <<< (-k).toNat else m >>> k.toNat

end Sys2Proof.Machine
end

