-- ==== Sys2Proof/Machine/Ops.lean ====
section
/-!
DEFINITION. The named operations on the machine: instances and their numbering (R1, R362), blocks, groups, threads,
control threads and pairs, the one memory and its places, poison (R79, R80), profiling counts (R370), taking a trap
(R343 to R350) and returning from one (R348, R350).
-/
namespace Sys2Proof.Machine

-- Instances.

/-- The cluster of a core, through the whole device. -/
def clusterOf (core : Nat) : Nat := core / 12
/-- The die of a core. -/
def dieOf (core : Nat) : Nat := core / 48
/-- A quadrant's number through the whole device (R362). -/
def quadNo (core quad : Nat) : Nat := core * 4 + quad

def State.coreHw (s : State) (c : Nat) : CoreHw := tabGet s.cores c {}
def State.quadHw (s : State) (q : Nat) : QuadHw := tabGet s.quads q {}
def State.dieHw (s : State) (d : Nat) : DieHw := tabGet s.dies d {}
def State.disp (s : State) (k : Nat) : Disp := tabGet s.disps k {}
def State.fnRegs (s : State) (f : Nat) : FnRegs := tabGet s.fns f {}
def State.modCoreHw (s : State) (c : Nat) (f : CoreHw → CoreHw) : State :=
  { s with cores := tabMod s.cores c {} f }
def State.modQuadHw (s : State) (q : Nat) (f : QuadHw → QuadHw) : State :=
  { s with quads := tabMod s.quads q {} f }
def State.modDieHw (s : State) (d : Nat) (f : DieHw → DieHw) : State :=
  { s with dies := tabMod s.dies d {} f }
def State.modDisp (s : State) (k : Nat) (f : Disp → Disp) : State :=
  { s with disps := tabMod s.disps k {} f }
def State.modFn (s : State) (k : Nat) (f : FnRegs → FnRegs) : State :=
  { s with fns := tabMod s.fns k {} f }

/-- A context's descriptor; an unwritten one is all zero (R302). -/
def State.ctxDesc (s : State) (ctx : Nat) : CtxDesc := tabGet s.ctxs ctx ⟨0, 0, 0⟩
/-- The function a context belongs to (R302). -/
def CtxDesc.fn (d : CtxDesc) : Nat := bitsOf d.ident.toNat 20 16
/-- The tenant of a context (R302). -/
def CtxDesc.tenant (d : CtxDesc) : Nat := bitsOf d.ident.toNat 15 12
/-- V of a context descriptor (R302). -/
def CtxDesc.valid (d : CtxDesc) : Bool := bitOf d.ident.toNat 31
/-- The context's cluster mask (R302). -/
def CtxDesc.clusters (d : CtxDesc) : Nat := bitsOf d.ctrl.toNat 15 0
def State.ctxFn (s : State) (ctx : Nat) : Nat := (s.ctxDesc ctx).fn

/-- The quadrants of a core that a function owns, ascending (R14, R372). -/
def State.ownedQuads (s : State) (core fn : Nat) : List Nat :=
  (List.range 4).filter fun k => (s.quadHw (quadNo core k)).own == fn

/-- The physical quadrant of a function's logical quadrant (R317). -/
def State.physQuad (s : State) (core fn quad : Nat) : Nat := (s.ownedQuads core fn).getD quad quad

def State.grid? (s : State) (g : Nat) : Option Grid := s.grids.find? (·.id == g)
def State.modGrid (s : State) (g : Nat) (f : Grid → Grid) : State :=
  { s with grids := modIf s.grids (·.id == g) f }
def State.block? (s : State) (b : Nat) : Option Block := s.blocks.find? (·.id == b)
/-- The function of a block. -/
def State.blockFn (s : State) (b : Block) : Nat := ((s.grid? b.grid).map fun g => s.ctxFn g.ctx).getD 0
def State.modBlock (s : State) (b : Nat) (f : Block → Block) : State :=
  { s with blocks := modIf s.blocks (·.id == b) f }
def Block.group? (b : Block) (g : Nat) : Option Group := b.groups.find? (·.num == g)
def Block.modGroup (b : Block) (g : Nat) (f : Group → Group) : Block :=
  { b with groups := modIf b.groups (·.num == g) f }
def State.modGroup (s : State) (b g : Nat) (f : Group → Group) : State := s.modBlock b (·.modGroup g f)
def Block.ctl? (b : Block) (rank quad : Nat) : Option Ctl := b.ctls.find? fun c => c.rank == rank && c.quad == quad
def State.modCtl (s : State) (b rank quad : Nat) (f : Ctl → Ctl) : State :=
  s.modBlock b fun x => { x with ctls := modIf x.ctls (fun c => c.rank == rank && c.quad == quad) f }
def Block.pair? (b : Block) (rank quad : Nat) : Option Pair := b.pairs.find? fun p => p.rank == rank && p.quad == quad
def State.modPair (s : State) (b rank quad : Nat) (f : Pair → Pair) : State :=
  s.modBlock b fun x => { x with pairs := modIf x.pairs (fun p => p.rank == rank && p.quad == quad) f }

/-- The member rank of a group (R149). -/
def Block.rankOf (b : Block) (g : Nat) : Nat := g % b.cores.length
/-- The logical quadrant of a group (R149). -/
def Block.quadOf (b : Block) (g : Nat) : Nat := g / b.cores.length % 4
/-- The core of a member rank. -/
def Block.coreOf (b : Block) (rank : Nat) : Nat := b.cores.getD rank 0

/-- The threads at the lanes named, changed. -/
def mapLanes (lanes : List Nat) (f : Nat → Thread → Thread) : Nat → List Thread → List Thread
  | _, [] => []
  | i, t :: r => (if lanes.contains i then f i t else t) :: mapLanes lanes f (i + 1) r

def Group.modLanes (g : Group) (lanes : List Nat) (f : Nat → Thread → Thread) : Group :=
  { g with threads := mapLanes lanes f 0 g.threads }
def State.modLanes (s : State) (b g : Nat) (lanes : List Nat) (f : Nat → Thread → Thread) : State :=
  s.modGroup b g (·.modLanes lanes f)
def Group.thread? (g : Group) (lane : Nat) : Option Thread := g.threads[lane]?
def State.thread? (s : State) (t : ThreadRef) : Option Thread :=
  (s.block? t.block).bind fun b => (b.group? t.group).bind (·.thread? t.lane)

/-- Present(lane) of R7 and R155. -/
def Thread.present (t : Thread) : Bool := t.st == .running || t.st == .trapped
/-- The lanes of a group that are Present. -/
def Group.presentLanes (g : Group) : List Nat :=
  (List.range 32).filter fun i => ((g.thread? i).map Thread.present).getD false

/-- A profiling event counted (R370). -/
def State.countEvent (s : State) (id n : Nat) : State := { s with events := tabMod s.events id 0 (· + n) }

/-- An instant of the device's timeline, used once (R117). -/
def State.tick (s : State) : State := { s with seq := s.seq + 1 }

/-- The next free values of Config, used once. -/
def State.fresh1 (s : State) : State := { s with fresh := s.fresh + 1 }

-- The issuer.

/-- What an issuing agent is: its block and grid, member rank, logical quadrant and core, its group and lanes or its
control thread, its program counter and its uniform state. -/
structure Who where
  blk : Block
  grid : Grid
  rank : Nat
  quad : Nat
  core : Nat
  grp : Option Group
  ctl : Option Ctl
  lanes : List Nat
  pc : Nat
  uni : Uni

/-- The issuer `cur` names, none where no such agent stands. -/
def State.who (s : State) : Option Who :=
  match s.cur with
  | .none => none
  | .frag b g m =>
    (s.block? b).bind fun blk => (s.grid? blk.grid).bind fun gr => (blk.group? g).bind fun grp =>
      match lanesOf m with
      | [] => none
      | l :: ls =>
        (grp.thread? l).map fun t =>
          ⟨blk, gr, blk.rankOf g, blk.quadOf g, blk.coreOf (blk.rankOf g), some grp, none, l :: ls, t.pc, grp.uni⟩
  | .ctl b rank quad =>
    (s.block? b).bind fun blk => (s.grid? blk.grid).bind fun gr => (blk.ctl? rank quad).map fun c =>
      ⟨blk, gr, rank, quad, blk.coreOf rank, none, some c, [], c.pc, c.uni⟩

/-- The context an agent issues in. -/
def Who.ctx (w : Who) : Nat := w.grid.ctx
/-- The issuing core's die. -/
def Who.die (w : Who) : Nat := dieOf w.core
/-- The threads of the issuing fragment with their lanes. -/
def Who.threads (w : Who) : List (Nat × Thread) :=
  match w.grp with
  | none => []
  | some g => w.lanes.filterMap fun l => (g.thread? l).map fun t => (l, t)

/-- The uniform state of an issuer changed. -/
def State.modUni (s : State) (w : Who) (f : Uni → Uni) : State :=
  match w.grp, w.ctl with
  | some g, _ => s.modGroup w.blk.id g.num fun x => { x with uni := f x.uni }
  | none, some c => s.modCtl w.blk.id c.rank c.quad fun x => { x with uni := f x.uni }
  | none, none => s

/-- The program counter of every lane of the fragment, or of the control thread, set. -/
def State.setPc (s : State) (w : Who) (pc : Nat) : State :=
  match w.grp, w.ctl with
  | some g, _ => s.modLanes w.blk.id g.num w.lanes fun _ t => { t with pc := pc % 2 ^ 56 }
  | none, some c => s.modCtl w.blk.id c.rank c.quad fun x => { x with pc := pc % 2 ^ 56 }
  | none, none => s

/-- The wait of every lane of the fragment, or of the control thread, set. -/
def State.setWait (s : State) (w : Who) (x : Wait) : State :=
  match w.grp, w.ctl with
  | some g, _ => s.modLanes w.blk.id g.num w.lanes fun _ t => { t with wait := x }
  | none, some c => s.modCtl w.blk.id c.rank c.quad fun y => { y with wait := x }
  | none, none => s

-- Memory.

/-- The byte at a place; an unlisted place reads as zero (log 1). -/
def memGet : List Host.Cell → Nat → Byte
  | [], _ => 0
  | (a, b) :: r, k => if a == k then b else if k < a then 0 else memGet r k

/-- The memory with one byte written, in canonical form: addresses rising, no zero listed. -/
def memSet : List Host.Cell → Nat → Byte → List Host.Cell
  | [], k, v => if v == 0 then [] else [(k, v)]
  | (a, b) :: r, k, v =>
    if a == k then (if v == 0 then r else (k, v) :: r)
    else if k < a then (if v == 0 then (a, b) :: r else (k, v) :: (a, b) :: r)
    else (a, b) :: memSet r k v

/-- The canonical form: every address above the bound and rising, no entry equal to what an unlisted address reads. -/
def memWfFrom : Nat → List Host.Cell → Bool
  | _, [] => true
  | lo, (a, b) :: r => decide (lo ≤ a) && b != 0 && memWfFrom (a + 1) r

/-- The canonical form of a memory. -/
def Memory.wf (m : List Host.Cell) : Bool := memWfFrom 0 m

/-- n bytes from a place on. -/
def memRead (m : List Host.Cell) (k : Nat) : Nat → List Byte
  | 0 => []
  | n + 1 => memGet m k :: memRead m (k + 1) n

/-- Bytes written from a place on. -/
def memWrite (m : List Host.Cell) (k : Nat) : List Byte → List Host.Cell
  | [] => m
  | b :: bs => memWrite (memSet m k b) (k + 1) bs

def State.readMem (s : State) (k n : Nat) : List Byte := memRead s.mem k n

/-- A write clears the poison of every unit it covers whole (R79, R80). -/
def State.writeMem (s : State) (k : Nat) (bs : List Byte) : State :=
  { s with mem := memWrite s.mem k bs,
           poison := s.poison.filter fun p => !(decide (k ≤ p.1) && decide (p.1 + p.2 ≤ k + bs.length)) }

/-- Whether a read of n bytes meets a poisoned unit. -/
def State.poisoned (s : State) (k n : Nat) : Bool :=
  s.poison.any fun p => decide (p.1 < k + n) && decide (k < p.1 + p.2)

-- The places of storage in the one memory (see `State.mem`).

def hostPlace (a : Nat) : Nat := 2 ^ 52 + a % 2 ^ 52
def peerPlace (a : Nat) : Nat := 2 ^ 53 + a % 2 ^ 52
def mbxPlace (die off : Nat) : Nat := 2 ^ 54 + die * 2 ^ 22 + off % 2 ^ 22
/-- A byte of an AB: physical bank, bank row, byte of the word (R12, R18). -/
def abPlace (core bank row byte : Nat) : Nat := 2 ^ 55 + core * 2 ^ 21 + row * 512 + bank * 16 + byte
def wbPlace (core off : Nat) : Nat := 2 ^ 56 + core * 2 ^ 20 + off
/-- The first of the 5 bytes of a CB cell: physical bank, row, column (R12, R21). -/
def cbPlace (core bank row col : Nat) : Nat := 2 ^ 57 + ((core * 16 + bank) * 8192 + row * 128 + col) * 8

/-- Whether a physical address is HBM memory (R38). -/
def isHbm (pa : Nat) : Bool := decide (pa < 4 * 2 ^ 40) && decide (pa % 2 ^ 40 < 0x2400000000)
/-- The die whose HBM holds a physical address (R38). -/
def hbmDie (pa : Nat) : Nat := pa / 2 ^ 40
/-- The stack, through the device, that holds a physical address (R38). -/
def hbmStack (pa : Nat) : Nat := hbmDie pa * 3 + pa % 2 ^ 40 / 2 ^ 12 % 3

-- Traps.

/-- The code of a cause (R346). -/
def Cause.code : Cause → Nat
  | .illegalEncoding => 0x01 | .illegalOperand => 0x02 | .staleLatch => 0x03 | .chainViolation => 0x04
  | .alignment => 0x05 | .spaceFault => 0x06 | .accessClass => 0x07 | .leaseViolation => 0x08
  | .watchpoint => 0x09 | .trapInstruction => 0x0A | .matrixNan => 0x0B | .flagTrap => 0x0C
  | .formatPair => 0x0D | .versionOverflow => 0x0E | .engineFault => 0x0F | .engineReset => 0x10
  | .barrierMismatch => 0x11 | .timer => 0x12 | .waitCycle => 0x13 | .refillSite => 0x14
  | .accAlloc => 0x15 | .rflExit => 0x16

/-- The cause of a code, as an engine operation's record carries it (R256, R346). -/
def Cause.ofCode (n : Nat) : Cause :=
  match n with
  | 0x01 => .illegalEncoding | 0x02 => .illegalOperand | 0x03 => .staleLatch | 0x04 => .chainViolation
  | 0x05 => .alignment | 0x06 => .spaceFault | 0x07 => .accessClass | 0x08 => .leaseViolation
  | 0x09 => .watchpoint | 0x0A => .trapInstruction | 0x0B => .matrixNan | 0x0C => .flagTrap
  | 0x0D => .formatPair | 0x0E => .versionOverflow | 0x0F => .engineFault | 0x10 => .engineReset
  | 0x11 => .barrierMismatch | 0x12 => .timer | 0x13 => .waitCycle | 0x14 => .refillSite
  | 0x15 => .accAlloc | _ => .rflExit

/-- Whether the cause's row of R346 resumes at the refill site. -/
def Cause.endsItem : Cause → Bool
  | .leaseViolation => true
  | .versionOverflow => true
  | _ => false

/-- One lane's fault of an issue: cause, detail, what TADDR would hold, the resume point AT or NEXT, whether it was
raised at a join (R346). -/
structure LaneTrap where
  lane : Nat
  cause : Cause
  detail : Nat := 0
  addr : DWord
  resume : Nat
  join : Bool := false

/-- TITEM of a thread (R345). -/
def Thread.titem (t : Thread) : DWord :=
  match t.item with
  | some i => BitVec.ofNat 64 (i % 2 ^ 48)
  | none => BitVec.ofNat 64 (2 ^ 63)

/-- TCAUSE (R344). -/
def tcauseOf (c : Cause) (detail : Nat) (chain itemEnd join nest ctl : Bool) : Word :=
  BitVec.ofNat 32 (c.code + detail % 128 * 2 ^ 8 + (if chain then 2 ^ 15 else 0) + (if itemEnd then 2 ^ 16 else 0) +
    (if join then 2 ^ 17 else 0) + (if nest then 2 ^ 18 else 0) + (if ctl then 2 ^ 19 else 0))

/-- NEST of a trap record. -/
def TrapRec.nest (r : TrapRec) : Bool := bitOf r.tcause.toNat 18
/-- ITEMEND of a trap record. -/
def TrapRec.itemEnd (r : TrapRec) : Bool := bitOf r.tcause.toNat 16
/-- CAUSE of a trap record. -/
def TrapRec.cause (r : TrapRec) : Nat := r.tcause.toNat % 256

/-- A thread drained: it holds no item and never issues again (R155). -/
def Thread.drain (t : Thread) : Thread := { t with st := .drained, wait := .none, item := none, flagDue := none }

/-- The version tag of a thread freed without writing a byte (R86). -/
def State.discard (s : State) (t : ThreadRef) : State := { s with versions := s.versions.filter (·.tag != t) }

/-- Whether a thread runs a task: a versioned launch, an item held, not in handler code (R160, R347). -/
def Thread.inTask (t : Thread) (d : GridDesc) : Bool := d.vers && t.item.isSome && t.st != .trapped

/-- What one thread becomes when it traps (R343 to R349): drained at a second nested fault, otherwise at the
handler's first word with its record. -/
def Thread.takeTrap (t : Thread) (d : GridDesc) (f : LaneTrap) (addr : DWord) (mask : Word) (chain : Bool) : Thread :=
  let nest := t.st == .trapped
  if nest && t.trap.nest then t.drain
  else
    let itemEnd := t.inTask d || (f.cause.endsItem && !f.join)
    { t with
      pc := d.handler, st := .trapped, wait := .none, flagDue := none,
      trap := { tcause := tcauseOf f.cause f.detail chain itemEnd f.join nest false, taddr := addr,
                titem := t.titem, tlanes := mask, resume := f.resume % 2 ^ 56 } }

/-- Whether taking a trap drains the thread and counts DOUBLE_TRAP (R349). -/
def Thread.doubleTraps (t : Thread) : Bool := t.st == .trapped && t.trap.nest

/-- Taking a trap (R343): the faulting lanes of one issue of a group enter the handler together; TADDR is that of the
lowest faulting lane (R11), TLANES names them all; a task's version is discarded (R347). -/
def State.takeTraps (s : State) (b g : Nat) (chain : Bool) (fs : List LaneTrap) : State :=
  match fs with
  | [] => s
  | f0 :: _ =>
    match (s.block? b).bind fun blk => (s.grid? blk.grid).bind fun gr => (blk.group? g).map fun grp => (gr.desc, grp) with
    | none => s
    | some (d, grp) =>
      let low := fs.foldl (fun (a : LaneTrap) x => if x.lane < a.lane then x else a) f0
      let mask := maskOf (fs.map (·.lane))
      let dbl := (fs.filter fun f => ((grp.thread? f.lane).map Thread.doubleTraps).getD false).length
      let gone := fs.filter fun f => ((grp.thread? f.lane).map (·.inTask d)).getD false
      let s1 := gone.foldl (fun s f => s.discard ⟨b, g, f.lane⟩) s
      let s2 := s1.modLanes b g (fs.map (·.lane)) fun i t =>
        match fs.find? (·.lane == i) with
        | some f => t.takeTrap d f low.addr mask chain
        | none => t
      if dbl == 0 then s2 else s2.countEvent 0x0031 dbl

/-- A control thread starting to halt: it ends once its operations have completed (R254). -/
def Ctl.halt (c : Ctl) : Ctl := { c with st := .halting, wait := .halt }

/-- What a control thread becomes when it traps (R254, R345, R350). -/
def Ctl.takeTrap (c : Ctl) (d : GridDesc) (f : LaneTrap) : Ctl :=
  let nest := c.st == .trapped
  if nest && c.trap.nest then c.halt
  else
    { c with
      pc := d.handler, st := .trapped, wait := .none,
      trap := { tcause := tcauseOf f.cause f.detail false false f.join nest true, taddr := f.addr,
                titem := BitVec.ofNat 64 (2 ^ 63), tlanes := 0, resume := f.resume % 2 ^ 56 } }

/-- Taking a trap as a control thread. -/
def State.takeCtlTrap (s : State) (b rank quad : Nat) (f : LaneTrap) : State :=
  match (s.block? b).bind fun blk => (s.grid? blk.grid).bind fun gr => (blk.ctl? rank quad).map fun c => (gr.desc, c) with
  | none => s
  | some (d, c) =>
    let s1 := s.modCtl b rank quad fun x => x.takeTrap d f
    if c.st == .trapped && c.trap.nest then s1.countEvent 0x0031 1 else s1

/-- A fault of the whole issuer: every thread of the fragment, or the control thread (R166, R233). The resume point is
`resume`; inside a chain the caller gives the chain's head. -/
def State.faultAll (s : State) (w : Who) (c : Cause) (addr : DWord) (resume : Nat) (detail : Nat := 0)
    (join : Bool := false) (chain : Bool := false) : State :=
  match w.grp, w.ctl with
  | some g, _ =>
    s.takeTraps w.blk.id g.num chain (w.lanes.map fun l => ⟨l, c, detail, addr, resume, join⟩)
  | none, some ct => s.takeCtlTrap w.blk.id ct.rank ct.quad ⟨0, c, detail, addr, resume, join⟩
  | none, none => s

/-- The address of the issuing instruction as TADDR holds it. -/
def Who.addr (w : Who) : DWord := BitVec.ofNat 64 w.pc

/-- A fault at issue whose TADDR and resume point are the instruction's own (R346). -/
def State.faultHere (s : State) (w : Who) (c : Cause) : State := s.faultAll w c w.addr w.pc

/-- SYS.TRAPRET for one thread that is TRAPPED (R348): to the refill site when the trap nested or ended the item,
drained without one, else to the resume point; SkipWatch after a watchpoint. -/
def Thread.trapReturn (t : Thread) (d : GridDesc) : Thread :=
  let skip := t.skipWatch || t.trap.cause == Cause.code .watchpoint
  if t.trap.nest || t.trap.itemEnd then
    match d.refillSite with
    | some site => { t with pc := site, st := .running, skipWatch := skip }
    | none => t.drain
  else { t with pc := t.trap.resume, st := .running, skipWatch := skip }

/-- SYS.TRAPRET for a control thread that is TRAPPED (R350): with NEST set it halts. -/
def Ctl.trapReturn (c : Ctl) : Ctl :=
  if c.trap.nest then c.halt else { c with pc := c.trap.resume, st := .running }

end Sys2Proof.Machine
end

