-- ==== Sys2Proof/Machine/Numerics.lean ====
section
/-!
DEFINITION. Numbers: the formats of 04_data_formats.md (R92 to R96, R103), exact dyadic values, the one rounding
every conversion makes (R97), IEEE 754 arithmetic on binary32 and binary64 (R109, R204 to R207, R211), and the
correctly rounded reciprocals and roots (R209).
-/
namespace Sys2Proof.Machine

/-- The value of a float code: a NaN (signalling or not), an infinity, or a signed dyadic ± m × 2^e. -/
inductive FVal where
  | nan (signalling : Bool)
  | inf (neg : Bool)
  | fin (neg : Bool) (m : Nat) (e : Int)
deriving DecidableEq, Repr

/-- What the top codes of a float format stand for (R95). -/
inductive Specials where
  | ieee | nanOnly | none
deriving DecidableEq, Repr

/-- A float format (R95): exponent bits, fraction bits, bias, specials. -/
structure Fmt where
  eb : Nat
  mb : Nat
  bias : Int
  sp : Specials
deriving DecidableEq, Repr

def fmtE2M1 : Fmt := ⟨2, 1, 1, .none⟩
def fmtE2M3 : Fmt := ⟨2, 3, 1, .none⟩
def fmtE3M2 : Fmt := ⟨3, 2, 3, .none⟩
def fmtE3M4 : Fmt := ⟨3, 4, 3, .nanOnly⟩
def fmtE4M3 : Fmt := ⟨4, 3, 7, .nanOnly⟩
def fmtE5M2 : Fmt := ⟨5, 2, 15, .ieee⟩
def fmtE5M10 : Fmt := ⟨5, 10, 15, .ieee⟩
def fmtE8M7 : Fmt := ⟨8, 7, 127, .ieee⟩
def fmtF24 : Fmt := ⟨8, 15, 127, .ieee⟩
def fmtF32 : Fmt := ⟨8, 23, 127, .ieee⟩
def fmtF40 : Fmt := ⟨8, 31, 127, .ieee⟩
def fmtF64 : Fmt := ⟨11, 52, 1023, .ieee⟩

/-- Bits of a code of the format. -/
def Fmt.width (f : Fmt) : Nat := 1 + f.eb + f.mb

/-- The largest finite magnitude's code without its sign (R95). -/
def Fmt.maxMag (f : Fmt) : Nat :=
  match f.sp with
  | .ieee => (2 ^ f.eb - 1) * 2 ^ f.mb - 1
  | .nanOnly => 2 ^ (f.eb + f.mb) - 2
  | .none => 2 ^ (f.eb + f.mb) - 1

/-- The canonical NaN (R95); a format without NaN writes +0 in its place (R97). -/
def Fmt.canonNan (f : Fmt) : Nat :=
  match f.sp with
  | .ieee => (2 ^ f.eb - 1) * 2 ^ f.mb + 2 ^ (f.mb - 1)
  | .nanOnly => 2 ^ (f.eb + f.mb) - 1
  | .none => 0

/-- The code of an infinity of an IEEE-like format. -/
def Fmt.infCode (f : Fmt) (neg : Bool) : Nat :=
  (if neg then 2 ^ (f.eb + f.mb) else 0) + (2 ^ f.eb - 1) * 2 ^ f.mb

/-- The value of a code (R95). -/
def Fmt.value (f : Fmt) (code : Nat) : FVal :=
  let neg := bitOf code (f.eb + f.mb)
  let e := bitsOf code (f.eb + f.mb - 1) f.mb
  let m := code % 2 ^ f.mb
  let top := 2 ^ f.eb - 1
  if f.sp == .ieee && e == top then
    if m == 0 then .inf neg else .nan (!bitOf code (f.mb - 1))
  else if f.sp == .nanOnly && e == top && m == 2 ^ f.mb - 1 then .nan false
  else if e == 0 then .fin neg m (1 - f.bias - f.mb)
  else .fin neg (m + 2 ^ f.mb) ((e : Int) - f.bias - f.mb)

/-- Rounding modes (R97, R109). -/
inductive Rm where
  | rne | rtz | rup | rdn
  | sr (rb : Nat)
deriving DecidableEq, Repr

/-- The mode GCTL.FRM selects (R109). -/
def Rm.ofFrm (n : Nat) : Rm :=
  match n with
  | 0 => .rne
  | 1 => .rtz
  | 2 => .rup
  | _ => .rdn

/-- Whether the magnitude q + rem / 2^sh (and a little more when sticky) rounds up to q + 1 (R97). -/
def roundsUp (rm : Rm) (neg : Bool) (q rem sh : Nat) (sticky : Bool) : Bool :=
  match rm with
  | .rne =>
    if sh == 0 then false
    else 2 * rem > 2 ^ sh || (2 * rem == 2 ^ sh && (sticky || q % 2 == 1))
  | .rtz => false
  | .rup => !neg && (rem != 0 || sticky)
  | .rdn => neg && (rem != 0 || sticky)
  | .sr rb => rem * 2 ^ 16 / 2 ^ sh + rb ≥ 2 ^ 16

/-- m × 2^e rounded to a multiple of 2^q: the multiple, and whether anything was lost. -/
def roundAt (rm : Rm) (neg : Bool) (m : Nat) (e q : Int) (sticky : Bool) : Nat × Bool :=
  if q ≤ e then (m <<< (e - q).toNat + (if roundsUp rm neg 0 0 0 sticky then 1 else 0), sticky)
  else
    let sh := (q - e).toNat
    let k := m >>> sh
    let rem := m % 2 ^ sh
    (if roundsUp rm neg k rem sh sticky then k + 1 else k, rem != 0 || sticky)

/-- A rounding's outcome: the code, and what happened on the way. -/
structure Rounded where
  code : Nat
  inexact : Bool := false
  ovf : Bool := false
  tiny : Bool := false
  subnormal : Bool := false
deriving DecidableEq, Repr

/-- The overflow result of R97: infinity or the largest finite as the format and mode give. -/
def Fmt.overflowCode (f : Fmt) (rm : Rm) (neg : Bool) : Nat :=
  let s := if neg then 2 ^ (f.eb + f.mb) else 0
  match f.sp, rm with
  | .ieee, .rne => f.infCode neg
  | .ieee, .rup => if neg then s + f.maxMag else f.infCode neg
  | .ieee, .rdn => if neg then f.infCode neg else s + f.maxMag
  | _, _ => s + f.maxMag

/-- One rounding of the exact value ± m × 2^e (a little more in magnitude when sticky) into a format (R97): subnormals
kept, tininess after rounding (R109). -/
def Fmt.round (f : Fmt) (rm : Rm) (neg : Bool) (m : Nat) (e : Int) (sticky : Bool := false) : Rounded :=
  let s := if neg then 2 ^ (f.eb + f.mb) else 0
  if m == 0 then { code := s, inexact := sticky, tiny := sticky }
  else
    let emin : Int := 1 - f.bias
    let top := log2Dy m e
    let q := max (top - f.mb) (emin - f.mb)
    let (k, inex) := roundAt rm neg m e q sticky
    -- k × 2^q; k is at most 2^(mb + 1)
    let mag := if k < 2 ^ f.mb then k else ((q + f.mb + f.bias - 1).toNat) * 2 ^ f.mb + k
    let tiny :=
      if top ≥ emin then false
      else if top + 1 < emin then true
      else (roundAt rm neg m e (top - f.mb) sticky).1 < 2 ^ (f.mb + 1)
    if mag > f.maxMag then { code := f.overflowCode rm neg, inexact := true, ovf := true }
    else { code := s + mag, inexact := inex, tiny := tiny, subnormal := mag != 0 && mag < 2 ^ f.mb }

-- The GFLAGS bits (R111).
def flNV : Word := 1
def flDZ : Word := 2
def flOF : Word := 4
def flUF : Word := 8
def flNX : Word := 16
def flMNV : Word := 32
def flMOF : Word := 64
def flMSAT : Word := 128
def flFMT : Word := 256

/-- A flag when its condition holds. -/
def flagIf (b : Bool) (f : Word) : Word := if b then f else 0

/-- The IEEE flags of a rounding (R109): overflow, underflow (tiny and inexact), inexact. -/
def Rounded.flags (r : Rounded) : Word :=
  flagIf r.ovf flOF ||| flagIf (r.tiny && r.inexact) flUF ||| flagIf r.inexact flNX

/-- How an agent's float arithmetic stands: GCTL.FRM and GCTL.FTZ (R109, R199). -/
structure FCtl where
  rm : Rm
  ftz : Bool
deriving DecidableEq, Repr

/-- FRM and FTZ of GCTL (R110). -/
def FCtl.ofGctl (g : Word) : FCtl := ⟨Rm.ofFrm (bitsOf g.toNat 19 18), bitOf g.toNat 17⟩

/-- A result of lane arithmetic: the bits and the flags. -/
structure FRes where
  val : Nat
  flags : Word := 0
deriving DecidableEq, Repr

/-- The value of an operand as FTZ reads it: a subnormal input is a zero of its sign (R109). -/
def Fmt.input (f : Fmt) (ftz : Bool) (code : Nat) : FVal :=
  match f.value code with
  | .fin neg m e => if ftz && m < 2 ^ f.mb then .fin neg 0 e else .fin neg m e
  | v => v

/-- A rounded finite result with its flags, a subnormal one flushed under FTZ with UF and NX (R109). -/
def Fmt.finish (f : Fmt) (c : FCtl) (neg : Bool) (m : Nat) (e : Int) (sticky : Bool := false) : FRes :=
  let r := f.round c.rm neg m e sticky
  if c.ftz && r.subnormal then ⟨if neg then 2 ^ (f.eb + f.mb) else 0, flUF ||| flNX⟩
  else ⟨r.code, r.flags⟩

/-- The canonical NaN, NV when invalid. -/
def Fmt.nanRes (f : Fmt) (invalid : Bool) : FRes := ⟨f.canonNan, flagIf invalid flNV⟩

/-- Whether a value is a signalling NaN. -/
def FVal.isSNan : FVal → Bool
  | .nan s => s
  | _ => false

/-- Whether a value is a NaN. -/
def FVal.isNan : FVal → Bool
  | .nan _ => true
  | _ => false

/-- The sum of two dyadics as sign, magnitude and exponent; a zero sum takes the sign IEEE 754 gives (R204). -/
def addDy (rm : Rm) (n1 : Bool) (m1 : Nat) (e1 : Int) (n2 : Bool) (m2 : Nat) (e2 : Int) : Bool × Nat × Int :=
  let e := min e1 e2
  let a : Int := ((m1 <<< (e1 - e).toNat : Nat) : Int)
  let b : Int := ((m2 <<< (e2 - e).toNat : Nat) : Int)
  let s := (if n1 then -a else a) + (if n2 then -b else b)
  if s == 0 then
    (if m1 == 0 && m2 == 0 && n1 == n2 then n1 else rm == .rdn, 0, e)
  else (decide (s < 0), s.natAbs, e)

/-- IEEE addition of two values (R204). -/
def Fmt.addV (f : Fmt) (c : FCtl) (x y : FVal) : FRes :=
  match x, y with
  | .nan s, _ => f.nanRes (s || y.isSNan)
  | _, .nan s => f.nanRes s
  | .inf n1, .inf n2 => if n1 == n2 then ⟨f.infCode n1, 0⟩ else f.nanRes true
  | .inf n, _ => ⟨f.infCode n, 0⟩
  | _, .inf n => ⟨f.infCode n, 0⟩
  | .fin n1 m1 e1, .fin n2 m2 e2 =>
    let (n, m, e) := addDy c.rm n1 m1 e1 n2 m2 e2
    f.finish c n m e

/-- IEEE multiplication of two values. -/
def Fmt.mulV (f : Fmt) (c : FCtl) (x y : FVal) : FRes :=
  match x, y with
  | .nan s, _ => f.nanRes (s || y.isSNan)
  | _, .nan s => f.nanRes s
  | .inf n1, .inf n2 => ⟨f.infCode (n1 != n2), 0⟩
  | .inf n1, .fin n2 m _ => if m == 0 then f.nanRes true else ⟨f.infCode (n1 != n2), 0⟩
  | .fin n1 m _, .inf n2 => if m == 0 then f.nanRes true else ⟨f.infCode (n1 != n2), 0⟩
  | .fin n1 m1 e1, .fin n2 m2 e2 => f.finish c (n1 != n2) (m1 * m2) (e1 + e2)

/-- A value as an exact product factor pair: the product's value without rounding, none where it is ∞ × 0. -/
def mulExact (x y : FVal) : Option FVal :=
  match x, y with
  | .nan s, _ => some (.nan (s || y.isSNan))
  | _, .nan s => some (.nan s)
  | .inf n1, .inf n2 => some (.inf (n1 != n2))
  | .inf n1, .fin n2 m _ => if m == 0 then none else some (.inf (n1 != n2))
  | .fin n1 m _, .inf n2 => if m == 0 then none else some (.inf (n1 != n2))
  | .fin n1 m1 e1, .fin n2 m2 e2 => some (.fin (n1 != n2) (m1 * m2) (e1 + e2))

/-- Fused multiply-add; ∞ × 0 is invalid whatever the addend (R204). -/
def Fmt.fmaV (f : Fmt) (c : FCtl) (x y z : FVal) : FRes :=
  match mulExact x y with
  | none => f.nanRes true
  | some (.nan s) => f.nanRes (s || z.isSNan)
  | some p => f.addV c p z

def Fmt.add (f : Fmt) (c : FCtl) (a b : Nat) : FRes := f.addV c (f.input c.ftz a) (f.input c.ftz b)
def Fmt.mul (f : Fmt) (c : FCtl) (a b : Nat) : FRes := f.mulV c (f.input c.ftz a) (f.input c.ftz b)
def Fmt.fma (f : Fmt) (c : FCtl) (a b d : Nat) : FRes :=
  f.fmaV c (f.input c.ftz a) (f.input c.ftz b) (f.input c.ftz d)

/-- The order of two values that are not NaN: less, with −0 equal to +0. -/
def FVal.lt (x y : FVal) : Bool :=
  match x, y with
  | .nan _, _ => false
  | _, .nan _ => false
  | .inf n1, .inf n2 => n1 && !n2
  | .inf n1, .fin _ _ _ => n1
  | .fin _ _ _, .inf n2 => !n2
  | .fin n1 m1 e1, .fin n2 m2 e2 =>
    let e := min e1 e2
    let a : Int := ((m1 <<< (e1 - e).toNat : Nat) : Int)
    let b : Int := ((m2 <<< (e2 - e).toNat : Nat) : Int)
    decide ((if n1 then -a else a) < (if n2 then -b else b))

/-- The sign of a value that is not NaN. -/
def FVal.neg : FVal → Bool
  | .nan _ => false
  | .inf n => n
  | .fin n _ _ => n

/-- FMIN and FMAX (R205): the operand as read, −0 below +0, one NaN yields the other operand. -/
def Fmt.minMax (f : Fmt) (isMax : Bool) (c : FCtl) (a b : Nat) : FRes :=
  let x := f.input c.ftz a
  let y := f.input c.ftz b
  let rd (v : FVal) (code : Nat) : Nat :=
    match v with
    | .fin n 0 _ => if n then 2 ^ (f.eb + f.mb) else 0
    | _ => code
  let fl := flagIf (x.isSNan || y.isSNan) flNV
  if x.isNan && y.isNan then ⟨f.canonNan, fl⟩
  else if x.isNan then ⟨rd y b, fl⟩
  else if y.isNan then ⟨rd x a, fl⟩
  else
    let xLess := x.lt y || (!y.lt x && x.neg && !y.neg)
    ⟨if xLess != isMax then rd x a else rd y b, fl⟩

/-- A float condition of R171 with the flag rules of R207. -/
def Fmt.compare (f : Fmt) (c : FCtl) (cond a b : Nat) : Bool × Word :=
  let x := f.input c.ftz a
  let y := f.input c.ftz b
  let un := x.isNan || y.isNan
  let sn := x.isSNan || y.isSNan
  let eq := !un && !x.lt y && !y.lt x
  match cond with
  | 0 => (eq, flagIf sn flNV)
  | 1 => (!eq, flagIf sn flNV)
  | 2 => (x.lt y, flagIf un flNV)
  | 3 => (!un && (x.lt y || eq), flagIf un flNV)
  | 4 => (y.lt x, flagIf un flNV)
  | 5 => (!un && (y.lt x || eq), flagIf un flNV)
  | 6 => (un, flagIf sn flNV)
  | _ => (!un, flagIf sn flNV)

/-- The bits of q = a / b in at least `prec` significant bits, and whether a remainder is left. -/
def divBits (prec a b : Nat) : Nat × Int × Bool :=
  let k := prec + b.log2 + 1
  let n := a <<< k
  (n / b, -(k : Int), n % b != 0)

/-- A float's exact quotient rounded once (R209, R287): the magnitudes' quotient and the exponents' difference. -/
def Fmt.divDy (f : Fmt) (c : FCtl) (neg : Bool) (m1 : Nat) (e1 : Int) (m2 : Nat) (e2 : Int) : FRes :=
  let (q, k, st) := divBits (f.mb + 4) m1 m2
  f.finish c neg q (k + e1 - e2) st

/-- The root of a positive dyadic in at least `prec` bits: an even exponent is split off first. -/
def sqrtBits (prec m : Nat) (e : Int) : Nat × Int × Bool :=
  let k : Nat := 2 * prec + 2
  let odd := (e - k) % 2 != 0
  let n := if odd then m <<< (k + 1) else m <<< k
  let e' := if odd then e - k - 1 else e - k
  let r := isqrt n
  (r, e' / 2, r * r != n)

/-- The reciprocal root of a positive dyadic. -/
def rsqrtBits (prec m : Nat) (e : Int) : Nat × Int × Bool :=
  let odd := e % 2 != 0
  let m' := if odd then 2 * m else m
  let e' := if odd then e - 1 else e
  let k := 2 * prec + m'.log2 + 2
  let k2 := if k % 2 == 1 then k + 1 else k
  let n := 2 ^ k2 / m'
  let r := isqrt n
  (r, -((k2 / 2 : Nat) : Int) - e' / 2, r * r * m' != 2 ^ k2)

/-- Reciprocal (R209, R210). -/
def Fmt.rcp (f : Fmt) (c : FCtl) (a : Nat) : FRes :=
  let c := { c with rm := .rne }
  match f.input c.ftz a with
  | .nan s => f.nanRes s
  | .inf n => ⟨if n then 2 ^ (f.eb + f.mb) else 0, 0⟩
  | .fin n m e => if m == 0 then ⟨f.infCode n, flDZ⟩ else f.divDy c n 1 0 m e

/-- Square root, rounding under FRM (R209, R210). -/
def Fmt.sqrt (f : Fmt) (c : FCtl) (a : Nat) : FRes :=
  match f.input c.ftz a with
  | .nan s => f.nanRes s
  | .inf n => if n then f.nanRes true else ⟨f.infCode false, 0⟩
  | .fin n m e =>
    if m == 0 then ⟨if n then 2 ^ (f.eb + f.mb) else 0, 0⟩
    else if n then f.nanRes true
    else
      let (r, k, st) := sqrtBits (f.mb + 4) m e
      f.finish c false r k st

/-- Reciprocal square root (R209, R210). -/
def Fmt.rsq (f : Fmt) (c : FCtl) (a : Nat) : FRes :=
  let c := { c with rm := .rne }
  match f.input c.ftz a with
  | .nan s => f.nanRes s
  | .inf n => if n then f.nanRes true else ⟨0, 0⟩
  | .fin n m e =>
    if m == 0 then ⟨f.infCode n, flDZ⟩
    else if n then f.nanRes true
    else
      let (r, k, st) := rsqrtBits (f.mb + 4) m e
      f.finish c false r k st

/-- The integer nearest to ± m × 2^e under a mode, and whether it differs from the value. -/
def roundInt (rm : Rm) (neg : Bool) (m : Nat) (e : Int) : Int × Bool :=
  let (k, inex) := roundAt rm neg m e 0 false
  (if neg then -(k : Int) else k, inex)

/-- FFLOOR, FCEIL, FTRUNC, FRINT (R209): the integral value, of the sign of the input when it is zero. -/
def Fmt.integral (f : Fmt) (c : FCtl) (rm : Rm) (quiet : Bool) (a : Nat) : FRes :=
  match f.input c.ftz a with
  | .nan s => f.nanRes s
  | .inf n => ⟨f.infCode n, 0⟩
  | .fin n m e =>
    let (k, inex) := roundAt rm n m e 0 false
    ⟨(f.round .rne n k 0).code, flagIf (inex && !quiet) flNX⟩

/-- FABS, FNEG and their FP64 forms (R209): the sign cleared or inverted; a NaN is canonical (R210). -/
def Fmt.signOp (f : Fmt) (c : FCtl) (invert : Bool) (a : Nat) : FRes :=
  let sgn := 2 ^ (f.eb + f.mb)
  match f.input c.ftz a with
  | .nan s => f.nanRes s
  | .fin n 0 _ => ⟨if invert && !n then sgn else 0, 0⟩
  | v => ⟨a % sgn + (if invert && !v.neg then sgn else 0), 0⟩

/-- A float to an integer of the given width (R211): a NaN gives 0, a saturation (R97) with NV; a clamp sets OF and NX.
DEDUCED (log 7): R211 names NV for a NaN and R97 names its saturation, so both are raised. -/
def Fmt.toInt (f : Fmt) (c : FCtl) (width : Nat) (signed : Bool) (a : Nat) : FRes :=
  let lo : Int := if signed then -((2 ^ (width - 1) : Nat) : Int) else 0
  let hi : Int := if signed then ((2 ^ (width - 1) : Nat) : Int) - 1 else ((2 ^ width : Nat) : Int) - 1
  match f.input c.ftz a with
  | .nan _ => ⟨0, flNV ||| flOF ||| flNX⟩
  | .inf n => ⟨toBits width (if n then lo else hi), flOF ||| flNX⟩
  | .fin n m e =>
    let (k, inex) := roundInt c.rm n m e
    if k < lo then ⟨toBits width lo, flOF ||| flNX⟩
    else if k > hi then ⟨toBits width hi, flOF ||| flNX⟩
    else ⟨toBits width k, flagIf inex flNX⟩

/-- An integer to a float (R211). -/
def Fmt.ofInt (f : Fmt) (c : FCtl) (x : Int) : FRes := f.finish c (decide (x < 0)) x.natAbs 0

/-- A float of one format to another with infinities (R211). -/
def Fmt.toFloat (f t : Fmt) (c : FCtl) (a : Nat) : FRes :=
  match f.input c.ftz a with
  | .nan s => t.nanRes s
  | .inf n => ⟨t.infCode n, 0⟩
  | .fin n m e => t.finish c n m e

/-- DTSUM (R206): the binary64 sum to nearest even with subnormals kept, and its exact error. -/
def dtsum (a b : Nat) : Nat × Nat × Word :=
  let f := fmtF64
  let c : FCtl := ⟨.rne, false⟩
  match f.value a, f.value b with
  | .fin n1 m1 e1, .fin n2 m2 e2 =>
    let (n, m, e) := addDy .rne n1 m1 e1 n2 m2 e2
    let r := f.round .rne n m e
    if r.ovf then (r.code, 0, flOF ||| flNX)
    else
      match f.value r.code with
      | .fin ns ms es =>
        let (nx, mx, ex) := addDy .rne n m e (!ns) ms es
        let er := if mx == 0 then 0 else (f.round .rne nx mx ex).code
        (r.code, er, flagIf (mx != 0) flNX)
      | _ => (r.code, 0, 0)
  | x, y =>
    let s := f.addV c x y
    if x.isNan || y.isNan || s.val == f.canonNan then (f.canonNan, f.canonNan, s.flags)
    else (s.val, 0, 0)

-- Operand formats (R92).

/-- The format code without its block scale: 0x10 to 0x1F name the eight formats of R92. -/
def baseFmt (c : Nat) : Nat :=
  if c < 0x10 then c
  else match c % 8 with
    | 0 => 0x00 | 1 => 0x01 | 2 => 0x03 | 3 => 0x06 | 4 => 0x07 | 5 => 0x08 | 6 => 0x09 | _ => 0x0A

/-- Elements a block of the format holds: 32, 16, or 0 when it is not block-scaled (R92). -/
def blockLen (c : Nat) : Nat := if c < 0x10 then 0 else if c < 0x18 then 32 else 16

/-- Bits of an element (R92). -/
def fmtBits (c : Nat) : Nat :=
  match baseFmt c with
  | 0x00 => 2 | 0x01 => 4 | 0x02 => 4 | 0x03 => 8 | 0x04 => 8 | 0x05 => 16 | 0x06 => 4 | 0x07 => 6 | 0x08 => 6
  | 0x09 => 8 | 0x0A => 8 | 0x0B => 16 | 0x0C => 16 | 0x0D => 24 | 0x0E => 32 | _ => 8

/-- The float format of a code, none for T2 and the integers. -/
def floatFmt (c : Nat) : Option Fmt :=
  match baseFmt c with
  | 0x06 => some fmtE2M1 | 0x07 => some fmtE2M3 | 0x08 => some fmtE3M2 | 0x09 => some fmtE4M3
  | 0x0A => some fmtE5M2 | 0x0B => some fmtE5M10 | 0x0C => some fmtE8M7 | 0x0D => some fmtF24
  | 0x0E => some fmtF32 | 0x0F => some fmtE3M4 | _ => none

/-- Classes of operand formats (R92). -/
inductive FmtClass where
  | ternary | integer | float
deriving DecidableEq, Repr

/-- The class of a code; a block-scaled integer belongs to the float class. -/
def fmtClass (c : Nat) : FmtClass :=
  if baseFmt c == 0 then .ternary
  else if baseFmt c ≤ 5 && c < 0x10 then .integer
  else .float

/-- An element's value before any block scale, and whether it is the T2 code 0b10 (R94, R95). -/
def elemValue (c code : Nat) : FVal × Bool :=
  let i (x : Int) : FVal := .fin (decide (x < 0)) x.natAbs 0
  match baseFmt c with
  | 0x00 => (match code % 4 with
      | 1 => (.fin false 1 0, false) | 3 => (.fin true 1 0, false) | 2 => (.fin false 0 0, true)
      | _ => (.fin false 0 0, false))
  | 0x01 => (i (sext 4 code), false)
  | 0x02 => (i (code % 16 : Nat), false)
  | 0x03 => (i (sext 8 code), false)
  | 0x04 => (i (code % 256 : Nat), false)
  | 0x05 => (i (sext 16 code), false)
  | _ => ((match floatFmt c with | some f => f.value code | none => .fin false 0 0), false)

/-- An exact value converted once into an operand format (R97): code, whether it saturated, whether it overflowed to
infinity, was invalid, inexact, and tiny. -/
structure ConvRes where
  code : Nat
  sat : Bool := false
  ovf : Bool := false
  invalid : Bool := false
  inexact : Bool := false
  tiny : Bool := false
deriving DecidableEq, Repr

/-- The range of an integer format or T2 (R94). -/
def intRange (c : Nat) : Int × Int :=
  match baseFmt c with
  | 0x00 => (-1, 1) | 0x01 => (-8, 7) | 0x02 => (0, 15) | 0x03 => (-128, 127) | 0x04 => (0, 255)
  | _ => (-32768, 32767)

/-- Conversion into an operand format under the edge table of R97. -/
def convertTo (c : Nat) (rm : Rm) (v : FVal) (sticky : Bool := false) : ConvRes :=
  match floatFmt c with
  | some f =>
    match v with
    | .nan _ => { code := f.canonNan, sat := f.sp == .none, invalid := f.sp == .none }
    | .inf n =>
      if f.sp == .ieee then { code := f.infCode n }
      else { code := (if n then 2 ^ (f.eb + f.mb) else 0) + f.maxMag, sat := true }
    | .fin n m e =>
      let r := f.round rm n m e sticky
      { code := r.code, sat := r.ovf && f.sp != .ieee, ovf := r.ovf && f.sp == .ieee,
        inexact := r.inexact, tiny := r.tiny }
  | none =>
    let (lo, hi) := intRange c
    let put (x : Int) : Nat := toBits (fmtBits c) x
    match v with
    | .nan _ => { code := 0, sat := true, invalid := true }
    | .inf n => { code := put (if n then lo else hi), sat := true }
    | .fin n m e =>
      let (k, inex) := roundAt rm n m e 0 sticky
      let x : Int := if n then -(k : Int) else k
      if x < lo then { code := put lo, sat := true }
      else if x > hi then { code := put hi, sat := true }
      else { code := put x, inexact := inex }

/-- The lane flags of a conversion (R97, R211): a saturation sets OF and NX. -/
def ConvRes.laneFlags (r : ConvRes) (signalling : Bool) : Word :=
  flagIf (r.invalid || signalling) flNV ||| flagIf (r.sat || r.ovf) (flOF ||| flNX) |||
    flagIf (r.tiny && r.inexact) flUF ||| flagIf r.inexact flNX

end Sys2Proof.Machine
end

