-- ==== Sys2Proof/Machine/Transcend.lean ====
section
/-!
DEFINITION. FEXP2, FLOG2, FSIN, FCOS and FTANH (08_arithmetic_and_control_instructions.md R209, R210): the exact
mathematical value rounded once to nearest even. The value is enclosed between two dyadics in fixed point; when both
ends round to one code that is the result, otherwise the enclosure is made again with more bits.
DEDUCED (log 8): an enclosure of at most a few units in the last of its 160, 320 or 640 bits decides the rounding.
-/
namespace Sys2Proof.Machine

/-- Fixed point: the number of fraction bits. Values are natural numbers scaled by 2^P. -/
abbrev FixedBits := Nat

/-- a × b in fixed point, rounded down. -/
def fmulP (p : FixedBits) (a b : Nat) : Nat := (a * b) >>> p

/-- 1/(2k+1) weighted sum of odd powers of t, the series of atanh (sign +) or atan (sign alternating). -/
def oddSeries : Nat → FixedBits → Bool → Nat → Nat → Nat → Nat → Nat → Nat × Nat
  | 0, _, _, _, _, _, pos, neg => (pos, neg)
  | n + 1, p, alt, t2, pow, k, pos, neg =>
    let term := pow / (2 * k + 1)
    if term == 0 then (pos, neg)
    else
      let pow' := fmulP p pow t2
      if alt && k % 2 == 1 then oddSeries n p alt t2 pow' (k + 1) pos (neg + term)
      else oddSeries n p alt t2 pow' (k + 1) (pos + term) neg

/-- atanh(t) for 0 ≤ t < 1/2 in fixed point. -/
def atanhP (p : FixedBits) (t : Nat) : Nat :=
  let (a, _) := oddSeries (p + 2) p false (fmulP p t t) t 0 0 0
  a

/-- atan(1/q) in fixed point. -/
def atanInv (p : FixedBits) (q : Nat) : Nat :=
  let t := 2 ^ p / q
  let (a, b) := oddSeries (p + 2) p true (2 ^ p / (q * q)) t 0 0 0
  a - b

/-- π in fixed point, by Machin's formula. -/
def piP (p : FixedBits) : Nat :=
  let g := p + 16
  (4 * (4 * atanInv g 5 - atanInv g 239)) >>> 16

/-- ln 2 in fixed point: 2 atanh(1/3). -/
def ln2P (p : FixedBits) : Nat :=
  let g := p + 16
  (2 * atanhP g (2 ^ g / 3)) >>> 16

/-- Σ x^k / k! over the chosen parity, alternating when asked: exp (step 1), sin and cos (step 2). -/
def facSeries : Nat → FixedBits → Bool → Nat → Nat → Nat → Nat → Nat → Nat → Nat × Nat
  | 0, _, _, _, _, _, _, pos, neg => (pos, neg)
  | n + 1, p, alt, step, x, term, k, pos, neg =>
    if term == 0 then (pos, neg)
    else
      let j := k / step
      let t' := if step == 1 then fmulP p term x / (k + 1) else fmulP p term x / ((k + 1) * (k + 2))
      if alt && j % 2 == 1 then facSeries n p alt step x t' (k + step) pos (neg + term)
      else facSeries n p alt step x t' (k + step) (pos + term) neg

/-- exp(x) for 0 ≤ x < 1 in fixed point. -/
def expP (p : FixedBits) (x : Nat) : Nat := (facSeries (p + 2) p false 1 x (2 ^ p) 0 0 0).1

/-- sin(x) for 0 ≤ x < 1 in fixed point. -/
def sinP (p : FixedBits) (x : Nat) : Nat :=
  let (a, b) := facSeries (p + 2) p true 2 (fmulP p x x) x 1 0 0
  a - b

/-- cos(x) for 0 ≤ x < 1 in fixed point. -/
def cosP (p : FixedBits) (x : Nat) : Nat :=
  let (a, b) := facSeries (p + 2) p true 2 (fmulP p x x) (2 ^ p) 0 0 0
  a - b

/-- Two enclosure ends that round alike give the result. -/
def agree (f : Fmt) (neg : Bool) (lo hi : Nat) (e : Int) : Option Rounded :=
  let a := f.round .rne neg lo e true
  let b := f.round .rne neg hi e true
  if a == b then some a else none

/-- The result of a rounding as a lane result, flushed under FTZ (R209). -/
def roundedRes (f : Fmt) (c : FCtl) (neg : Bool) (r : Rounded) : FRes :=
  if c.ftz && r.subnormal then ⟨if neg then 2 ^ (f.eb + f.mb) else 0, flUF ||| flNX⟩ else ⟨r.code, r.flags⟩

/-- The first precision whose enclosure decides; the last one's lower end stands if none did. -/
def firstAgree (f : Fmt) (c : FCtl) (neg : Bool) (enc : FixedBits → Nat × Nat × Int) : FRes :=
  let try_ (p : FixedBits) : Option Rounded :=
    let (lo, hi, e) := enc p
    agree f neg lo hi e
  match try_ 160 with
  | some r => roundedRes f c neg r
  | none =>
    match try_ 320 with
    | some r => roundedRes f c neg r
    | none =>
      match try_ 640 with
      | some r => roundedRes f c neg r
      | none => roundedRes f c neg (f.round .rne neg (enc 640).1 (enc 640).2.2 true)

/-- The slack, in units of the last place, that covers the truncations of a series. -/
def slack (p : FixedBits) : Nat := 64 * p

/-- ±m × 2^e scaled to p fraction bits, rounded down. -/
def toFixed (p : FixedBits) (m : Nat) (e : Int) : Nat := shrInt m (-(e + p))

/-- FEXP2 (R209): exact for an integer input with a finite result. -/
def fexp2 (c : FCtl) (a : Nat) : FRes :=
  let f := fmtF32
  let c := { c with rm := .rne }
  match f.input c.ftz a with
  | .nan s => f.nanRes s
  | .inf n => if n then ⟨0, 0⟩ else ⟨f.infCode false, 0⟩
  | .fin n m e =>
    if m == 0 then ⟨0x3F800000, 0⟩
    else if log2Dy m e ≥ 9 then
      if n then roundedRes f c false (f.round .rne false 1 (-600) true) else roundedRes f c false (f.round .rne false 1 600 true)
    else
      let (k, inex) := roundAt .rtz n m e 0 false
      if !inex then f.finish c false 1 (if n then -(k : Int) else k)
      else
        firstAgree f c false fun p =>
          let g := p + 16
          let x := toFixed g m e
          -- 2^x = 2^ip × exp(fp ln 2), with the fraction taken upward for a negative x
          let ip : Int := if n then -((k : Int) + 1) else k
          let fp := if n then (k + 1) * 2 ^ g - x else x - k * 2 ^ g
          let y := expP g (fmulP g fp (ln2P g))
          (y - slack g, y + slack g, ip - g)

/-- FLOG2 (R209): exact for powers of two. -/
def flog2 (c : FCtl) (a : Nat) : FRes :=
  let f := fmtF32
  let c := { c with rm := .rne }
  match f.input c.ftz a with
  | .nan s => f.nanRes s
  | .inf n => if n then f.nanRes true else ⟨f.infCode false, 0⟩
  | .fin n m e =>
    if m == 0 then ⟨f.infCode true, flDZ⟩
    else if n then f.nanRes true
    else
      let k : Int := log2Dy m e
      if m == 2 ^ m.log2 then f.finish c (decide (k < 0)) k.natAbs 0
      else
        -- x = 2^k × y, 1 < y < 2; the logarithm is k + log2 y
        let enc (p : FixedBits) : Nat × Nat × Int :=
          let g := p + 16
          let y := (m <<< g) >>> m.log2
          let one := 2 ^ g
          let t := ((y - one) <<< g) / (y + one)
          let l := ((2 * atanhP g t) <<< g) / ln2P g
          let v : Int := k * ((2 ^ g : Nat) : Int) + l
          (v.natAbs - slack g, v.natAbs + slack g, -(g : Int))
        firstAgree f c (decide (k < 0)) enc

/-- x mod π/2 in fixed point and the quadrant, for a positive dyadic. -/
def reduceP (p : FixedBits) (m : Nat) (e : Int) : Nat × Nat :=
  let extra := if e > 0 then e.toNat + m.log2 + 8 else m.log2 + 8
  let g := p + extra
  let half := piP g >>> 1
  let x := toFixed g m e
  let q := x / half
  ((x - q * half) >>> extra, q % 4)

/-- FSIN and FCOS (R209, R210), with exact argument reduction. -/
def fsincos (isCos : Bool) (c : FCtl) (a : Nat) : FRes :=
  let f := fmtF32
  let c := { c with rm := .rne }
  match f.input c.ftz a with
  | .nan s => f.nanRes s
  | .inf _ => f.nanRes true
  | .fin n m e =>
    if m == 0 then (if isCos then ⟨0x3F800000, 0⟩ else ⟨if n then 2 ^ 31 else 0, 0⟩)
    else if log2Dy m e < -40 then
      if isCos then roundedRes f c false (f.round .rne false (2 ^ 64 - 1) (-64) true)
      else roundedRes f c n (f.round .rne n (m * 2 ^ 64 - 1) (e - 64) true)
    else
      let (_, q) := reduceP 160 m e
      let cosHere := isCos != (q % 2 == 1)
      let neg := if isCos then q == 1 || q == 2 else n != (q == 2 || q == 3)
      firstAgree f c neg fun p =>
        let g := p + 16
        let (r, _) := reduceP g m e
        -- r lies in [0, π/2); above 3/4 the complement is taken so that the series argument stays below 1
        let half := piP g >>> 1
        let big := r > 3 * 2 ^ (g - 2)
        let r' := if big then half - r else r
        let y := if cosHere != big then cosP g r' else sinP g r'
        (y - slack g, y + slack g, -(g : Int))

/-- FTANH (R209, R210). -/
def ftanh (c : FCtl) (a : Nat) : FRes :=
  let f := fmtF32
  let c := { c with rm := .rne }
  match f.input c.ftz a with
  | .nan s => f.nanRes s
  | .inf n => ⟨(if n then 2 ^ 31 else 0) + 0x3F800000, 0⟩
  | .fin n m e =>
    if m == 0 then ⟨if n then 2 ^ 31 else 0, 0⟩
    else if log2Dy m e ≥ 5 then roundedRes f c n (f.round .rne n (2 ^ 64 - 1) (-64) true)
    else if log2Dy m e < -40 then roundedRes f c n (f.round .rne n (m * 2 ^ 64 - 1) (e - 64) true)
    else
      firstAgree f c n fun p =>
        let g := p + 128
        -- e^(2x) = 2^k × exp(r), r below ln 2
        let x2 := 2 * toFixed g m e
        let l := ln2P g
        let k := x2 / l
        let y := expP g (x2 - k * l) <<< k
        let one := 2 ^ g
        let t := ((y - one) <<< g) / (y + one)
        (t - slack g * 2 ^ 64, t + slack g * 2 ^ 64, -(g : Int))

end Sys2Proof.Machine
end

