-- ==== Sys2Proof/Machine/Flags.lean ====
section
/-!
DEFINITION. Every flag computation outside the arithmetic itself: merging into GFLAGS (R111), the lanes that FLAG_TRAP
takes (R112, R220), and the integer and logical conditions of R171 and R172.
-/
namespace Sys2Proof.Machine

/-- All the flags a list of lanes raised. -/
def flagsOf (l : List (Nat × Word)) : Word := l.foldl (fun a x => a ||| x.2) 0

/-- TE of GCTL (R110). -/
def Uni.te (u : Uni) : Word := u.gctl &&& 0x1FF

/-- GFLAGS with flags merged: bits are only set (R111). -/
def Uni.merge (u : Uni) (f : Word) : Uni := { u with gflags := u.gflags ||| (f &&& 0x1FF) }

/-- The lanes that raised an enabled flag (R112): a flag that was set already still traps. -/
def trapLanes (u : Uni) (l : List (Nat × Word)) (lanes : List Nat) : List Nat :=
  lanes.filter fun i => l.any fun x => x.1 == i && (x.2 &&& u.te) != 0

/-- The lanes of a completed instruction or chain take FLAG_TRAP (R112): resume NEXT, TADDR the address given. -/
def State.flagTraps (s : State) (b g : Nat) (lanes : List Nat) (addr next : Nat) : State :=
  s.takeTraps b g false (lanes.map fun l => ⟨l, .flagTrap, 0, BitVec.ofNat 64 addr, next, false⟩)

/-- A uniform instruction's flags: merged, and FLAG_TRAP taken by every thread of the fragment or the control thread
(R220); resume NEXT. -/
def State.uniFlags (s : State) (w : Who) (f : Word) : State :=
  let s1 := s.modUni w (·.merge f)
  if (f &&& w.uni.te) == 0 then s1 else s1.faultAll w .flagTrap w.addr (w.pc + 4)

/-- An integer condition of R171. -/
def intCond (k : Nat) (n : Nat) (a b : Nat) : Bool :=
  match k with
  | 0 => a == b
  | 1 => a != b
  | 2 => decide (sext n a < sext n b)
  | 3 => decide (sext n a ≤ sext n b)
  | 4 => decide (sext n b < sext n a)
  | 5 => decide (sext n b ≤ sext n a)
  | 6 => decide (a < b)
  | _ => decide (a ≤ b)

/-- A predicate operation of R172. -/
def predOp (o : Nat) (x y : Bool) : Bool :=
  match o with
  | 0 => x && y
  | 1 => x || y
  | 2 => x != y
  | 3 => x && !y
  | 4 => x || !y
  | 5 => !x
  | 6 => true
  | _ => false

end Sys2Proof.Machine
end

