-- ==== Sys2Proof/Machine/Operands.lean ====
section
/-!
DEFINITION. Every operand form of per-lane and uniform instructions (R146, R169, R177, R181), the issue checks of R166,
guards (R185), latches and chains (R186 to R188), and how results are written.
-/
namespace Sys2Proof.Machine

-- Registers.

def Thread.vget (t : Thread) (r : Nat) : Word := t.v.getD r 0
/-- The 64-bit value of the pair that begins at r (R169). -/
def Thread.vpair (t : Thread) (r : Nat) : DWord := joinPair (t.vget r) (t.vget (r + 1))
def Thread.pget (t : Thread) (i : Nat) : Bool := i == 0 || bitOf t.p.toNat i
def Uni.sget (u : Uni) (r : Nat) : Word := u.s.getD r 0
def Uni.spair (u : Uni) (r : Nat) : DWord := joinPair (u.sget r) (u.sget (r + 1))
def Uni.cget (u : Uni) (i : Nat) : Bool := i == 0 || bitOf u.c.toNat i
/-- c(i) written; c0 is no destination (R185). -/
def Uni.cset (u : Uni) (i : Nat) (b : Bool) : Uni :=
  { u with c := if b then u.c ||| BitVec.ofNat 8 (2 ^ i) else u.c &&& ~~~(BitVec.ofNat 8 (2 ^ i)) }
/-- Consecutive uniform registers written. -/
def Uni.sset (u : Uni) (r : Nat) : List Word → Uni
  | [] => u
  | x :: xs => ({ u with s := u.s.set r x }).sset (r + 1) xs

/-- The value of a guard for a thread: 0 is none (R168). -/
def Thread.guard (t : Thread) (g : BitVec 3) : Bool := t.pget g.toNat

/-- The words a 64-bit value fills. -/
def pairWords (x : DWord) : List Word := [loWord x, hiWord x]

-- Issue checks.

/-- A vector register, pair or quad that may be named (R146, R169). -/
def vOk (d : GridDesc) (r words : Nat) : Bool := r % words == 0 && decide (r + words ≤ d.vCount)

/-- A 7-bit source that may be named at the given width (R146, R169). -/
def srcOk (d : GridDesc) (x words : Nat) : Bool :=
  if x < 0x40 then vOk d x words
  else if x < 0x44 then true
  else (x - 0x44) % words == 0 && decide (x - 0x44 + words ≤ d.uCount)

/-- A uniform register or pair that may be named: below the declared count for a group, below 64 for a control thread
(R146, R253). -/
def sOk (w : Who) (r words align : Nat) : Bool :=
  r % align == 0 && decide (r + words ≤ (if w.grp.isSome then w.grid.desc.uCount else 64))

/-- The chain the issuing fragment has in progress. -/
def Who.chain (w : Who) : Option Chain :=
  w.grp.bind fun g => g.chain.bind fun c => if c.lanes == maskOf w.lanes then some c else none

/-- The members a chain has issued. -/
def chainPos (c : Option Chain) : Nat :=
  match c with
  | some c => c.count
  | none => 0

/-- Whether a source is a latch no earlier member of the chain wrote (R187). -/
def staleSrc (c : Option Chain) (x : Nat) : Bool :=
  decide (0x40 ≤ x) && decide (x < 0x44) &&
    match c with
    | none => true
    | some c => (c.latches.getD (x - 0x40) []).all Option.isNone

/-- The checks of R166 after the encoding: chain rules, operands, latches. `bad` says that the word breaks a chain rule
of its own, `ok` that its operands are in range. -/
def issueFault (c : Option Chain) (h bad ok : Bool) (srcs : List Nat) : Option Cause :=
  if bad || (h && chainPos c == 7) then some .chainViolation
  else if !ok then some .illegalOperand
  else if srcs.any (staleSrc c) then some .staleLatch
  else none

-- Reading a source.

/-- The latch of a lane (R186). -/
def Chain.latch (c : Chain) (x lane : Nat) : DWord := ((c.latches.getD x []).getD lane none).getD 0

/-- The uniform state that a source reads: inside a chain the registers from before it (R186). -/
def Who.srcUni (w : Who) : Uni :=
  match w.chain with
  | some c => { w.uni with s := c.s }
  | none => w.uni

/-- A 32-bit source of a lane (R169, R198). -/
def readSrc32 (w : Who) (lane : Nat) (t : Thread) (x : Nat) : Word :=
  if x < 0x40 then t.vget x
  else if x < 0x44 then
    match w.chain with
    | some c => loWord (c.latch (x - 0x40) lane)
    | none => 0
  else w.srcUni.sget (x - 0x44)

/-- A 64-bit source of a lane. -/
def readSrc64 (w : Who) (lane : Nat) (t : Thread) (x : Nat) : DWord :=
  if x < 0x40 then t.vpair x
  else if x < 0x44 then
    match w.chain with
    | some c => c.latch (x - 0x40) lane
    | none => 0
  else w.srcUni.spair (x - 0x44)

/-- A source of a lane at a width of 1 or 2 words, as a number. -/
def readSrc (w : Who) (lane : Nat) (t : Thread) (x words : Nat) : Nat :=
  if words == 1 then (readSrc32 w lane t x).toNat else (readSrc64 w lane t x).toNat

/-- Whether reading a register at the given width meets a poisoned one (R80). -/
def State.vPoisoned (s : State) (t : ThreadRef) (r words : Nat) : Bool :=
  s.regPoison.any fun p =>
    match p with
    | .v u x => u == t && decide (r ≤ x) && decide (x < r + words)
    | _ => false

def State.pPoisoned (s : State) (t : ThreadRef) (i : Nat) : Bool :=
  i != 0 && s.regPoison.contains (.p t i)

/-- Whether reading uniform registers of the issuer meets a poisoned one (R80). -/
def State.sPoisoned (s : State) (w : Who) (r words : Nat) : Bool :=
  s.regPoison.any fun p =>
    match p, w.grp, w.ctl with
    | .s g x, some gr, _ => g == ⟨w.blk.id, gr.num⟩ && decide (r ≤ x) && decide (x < r + words)
    | .cs b k q x, none, some c =>
      b == w.blk.id && k == c.rank && q == c.quad && decide (r ≤ x) && decide (x < r + words)
    | _, _, _ => false

def State.cPoisoned (s : State) (w : Who) (i : Nat) : Bool :=
  i != 0 && s.regPoison.any fun p =>
    match p, w.grp, w.ctl with
    | .c g x, some gr, _ => g == ⟨w.blk.id, gr.num⟩ && x == i
    | .cc b k q x, none, some c => b == w.blk.id && k == c.rank && q == c.quad && x == i
    | _, _, _ => false

/-- Whether a 7-bit source of a lane meets a poisoned register. -/
def State.srcPoisoned (s : State) (w : Who) (t : ThreadRef) (x words : Nat) : Bool :=
  if x < 0x40 then s.vPoisoned t x words
  else if x < 0x44 then false
  else s.sPoisoned w (x - 0x44) words

-- Faults of a chain.

/-- The faults of a per-lane word's issue (R188, R343): inside a chain of two or more members nothing of the chain takes
effect, the faulting lanes resume AT its head and the others, whatever they waited for, stand at the head again at once. -/
def State.laneFaults (s : State) (w : Who) (g : Group) (h : Bool) (fs : List LaneTrap) : State :=
  match w.chain with
  | none => s.takeTraps w.blk.id g.num h fs
  | some c =>
    let s1 := s.modGroup w.blk.id g.num fun x => { x with chain := none }
    let bad := fs.map (·.lane)
    let s2 := s1.modLanes w.blk.id g.num (w.lanes.filter fun l => !bad.contains l) fun _ t => { t with pc := c.head, wait := .none }
    s2.takeTraps w.blk.id g.num true (fs.map fun f => { f with resume := if f.resume == w.pc then c.head else f.resume })

/-- A fault of every lane at the issue of a per-lane word (R166). -/
def State.laneFaultAll (s : State) (w : Who) (g : Group) (h : Bool) (c : Cause) (detail : Nat := 0) : State :=
  s.laneFaults w g h (w.lanes.map fun l => ⟨l, c, detail, w.addr, w.pc, false⟩)

-- Results.

/-- What one lane's result is: words from register d on, a predicate, its latch value, its flags. -/
structure LaneOut where
  words : List Word := []
  pred : Option Bool := none
  latch : Option DWord := none
  flags : Word := 0

/-- The effects of one issue over its lanes. -/
structure LaneEff where
  vw : List VWrite
  pw : List PWrite
  latch : List (Nat × DWord)
  flags : List (Nat × Word)

/-- The vector writes of a result from register d on. -/
def vwrites (lane d : Nat) : List Word → List VWrite
  | [] => []
  | x :: xs => ⟨lane, d, x⟩ :: vwrites lane (d + 1) xs

/-- A thread's vector registers after the writes that name its lane, in order. -/
def applyV (lane : Nat) : List VWrite → List Word → List Word
  | [], v => v
  | x :: xs, v => applyV lane xs (if x.lane == lane then v.set x.reg x.val else v)

/-- A thread's predicates after the writes that name its lane. -/
def applyP (lane : Nat) : List PWrite → BitVec 8 → BitVec 8
  | [], p => p
  | x :: xs, p =>
    applyP lane xs
      (if x.lane == lane then
        (if x.val then p ||| BitVec.ofNat 8 (2 ^ x.pred) else p &&& ~~~(BitVec.ofNat 8 (2 ^ x.pred)))
       else p)

/-- Poisoned registers that a write replaces are clean again (R80). -/
def cleanRegs (b g : Nat) (vw : List VWrite) (pw : List PWrite) (l : List PoisonReg) : List PoisonReg :=
  l.filter fun p =>
    match p with
    | .v t r => !(t.block == b && t.group == g && vw.any fun x => x.lane == t.lane && x.reg == r)
    | .p t r => !(t.block == b && t.group == g && pw.any fun x => x.lane == t.lane && x.pred == r)
    | _ => true

/-- Register and predicate writes of a group's lanes. -/
def State.applyWrites (s : State) (b g : Nat) (vw : List VWrite) (pw : List PWrite) : State :=
  { s with blocks := modIf s.blocks (·.id == b) fun x => x.modGroup g fun gr =>
             gr.modLanes (List.range 32) fun i t => { t with v := applyV i vw t.v, p := applyP i pw t.p },
           regPoison := cleanRegs b g vw pw s.regPoison }

/-- The latches after one member: b(j mod 4) receives the lanes' values (R186). -/
def putLatch (ls : List (List (Option DWord))) (j : Nat) (vals : List (Nat × DWord)) : List (List (Option DWord)) :=
  if vals.isEmpty then ls
  else ls.set (j % 4) ((List.range 32).map fun i => (vals.find? (·.1 == i)).map (·.2))

/-- A member with h = 1 (R186): its writes and flags wait for the chain's end, its latch is written, and the fragment
goes on at the next word. -/
def State.chainOn (s : State) (w : Who) (g : Group) (e : LaneEff) : State :=
  let c : Chain :=
    match w.chain with
    | some c => c
    | none => ⟨maskOf w.lanes, w.pc, 0, w.uni.s, List.replicate 4 (List.replicate 32 none), [], [], [], s.cycle, s.seq⟩
  let c' : Chain :=
    { c with count := c.count + 1, latches := putLatch c.latches c.count e.latch, vw := c.vw ++ e.vw,
             pw := c.pw ++ e.pw, flags := c.flags ++ e.flags }
  (s.modGroup w.blk.id g.num fun x => { x with chain := some c' }).setPc w (w.pc + 4)

/-- Uniform registers that an instruction issued before a group's chain in progress has written: the chain, which holds the
registers from before it, has them too (R186). -/
def State.chainSees (s : State) (b g d n : Nat) (before : Chain → Bool) : State :=
  s.modGroup b g fun x =>
    { x with chain := x.chain.map fun c =>
        if before c then { c with s := (List.range n).foldl (fun l i => l.set (d + i) (x.uni.sget (d + i))) c.s } else c }

/-- The address FLAG_TRAP names: the instruction's, or its chain's head (R346). -/
def Who.flagAddr (w : Who) : Nat :=
  match w.chain with
  | some c => c.head
  | none => w.pc

/-- The end of an instruction or a chain: all writes take effect together, the flags are merged, the fragment stands at
`next`, and the lanes that raised an enabled flag trap (R112, R186). -/
def State.laneEnd (s : State) (w : Who) (g : Group) (e : LaneEff) (next : Nat) : State :=
  let vw := (w.chain.map (·.vw)).getD [] ++ e.vw
  let pw := (w.chain.map (·.pw)).getD [] ++ e.pw
  let fl := (w.chain.map (·.flags)).getD [] ++ e.flags
  let s1 := s.applyWrites w.blk.id g.num vw pw
  let s2 := s1.modGroup w.blk.id g.num fun x => { x with chain := none, uni := x.uni.merge (flagsOf fl) }
  let s3 := s2.setPc w next
  s3.flagTraps w.blk.id g.num (trapLanes w.uni fl w.lanes) w.flagAddr next

/-- The completion of a chain at the issue of a last member that waits, parks or drains (R186): the earlier members'
writes and flags take effect; a FLAG_TRAP they raise is due before the lane's next instruction (log 9). -/
def State.chainDone (s : State) (w : Who) (g : Group) : State :=
  match w.chain with
  | none => s
  | some c =>
    let s1 := s.applyWrites w.blk.id g.num c.vw c.pw
    let s2 := s1.modGroup w.blk.id g.num fun x => { x with chain := none, uni := x.uni.merge (flagsOf c.flags) }
    s2.modLanes w.blk.id g.num (trapLanes w.uni c.flags w.lanes) fun _ t => { t with flagDue := some c.head }

/-- A per-lane instruction that computes (R198): guard, w and h, whether its format has an h bit to link with, whether it
may not be a chain's member, its sources with their widths, its vector destination (words 0 for none) or predicate
destination (0 for none), whether d is read too, and the value of a lane. -/
structure LaneSpec where
  g : BitVec 3
  guarded : Bool := true
  w : Bool := false
  h : Bool := false
  noChain : Bool := false
  srcs : List (Nat × Nat) := []
  d : Nat := 0
  dwords : Nat := 0
  pd : Nat := 0
  readsD : Bool := false
  preds : List Nat := []
  eval : Who → Nat → Thread → LaneOut

/-- The latch value of a lane whose guard is false (R185): what d held when the chain began. -/
def LaneSpec.keptLatch (x : LaneSpec) (t : Thread) : Option DWord :=
  if x.pd != 0 then some (if t.pget x.pd then 1 else 0)
  else if x.dwords == 0 then none
  else if x.dwords == 1 then some (joinPair (t.vget x.d) 0)
  else some (t.vpair x.d)

/-- The effects of the issue of a computing instruction over its lanes. -/
def LaneSpec.effects (x : LaneSpec) (w : Who) : LaneEff :=
  let rs := w.threads.map fun (l, t) =>
    if !x.guarded || t.guard x.g then (l, true, x.eval w l t)
    else (l, false, { latch := x.keptLatch t : LaneOut })
  { vw := if x.w then [] else rs.flatMap fun (l, _, o) => vwrites l x.d o.words,
    pw := if x.w then [] else rs.filterMap fun (l, _, o) => o.pred.map fun b => ⟨l, x.pd, b⟩,
    latch := rs.filterMap fun (l, _, o) => o.latch.map fun v => (l, v),
    flags := rs.filterMap fun (l, _, o) => if o.flags == 0 then none else some (l, o.flags) }

/-- The lanes whose reading of a register faults ENGINE_FAULT (R80). -/
def LaneSpec.poisoned (x : LaneSpec) (s : State) (w : Who) (g : Group) : List Nat :=
  if s.regPoison.isEmpty then []
  else
    (w.threads.filter fun (l, t) =>
      let r : ThreadRef := ⟨w.blk.id, g.num, l⟩
      s.pPoisoned r x.g.toNat ||
        ((!x.guarded || t.guard x.g) &&
          (x.srcs.any (fun (a, n) => s.srcPoisoned w r a n) || x.preds.any (s.pPoisoned r) ||
            (x.readsD && s.vPoisoned r x.d x.dwords)))).map (·.1)

/-- The issue of a computing per-lane instruction (R166, R185, R186, R198). -/
def LaneSpec.issue (x : LaneSpec) (s : State) (w : Who) (g : Group) : State :=
  let ok := x.srcs.all (fun (a, n) => srcOk w.grid.desc a n) && (x.dwords == 0 || vOk w.grid.desc x.d x.dwords)
  match issueFault w.chain x.h (x.noChain && w.chain.isSome) ok (x.srcs.map (·.1)) with
  | some c => s.laneFaultAll w g x.h c
  | none =>
    match x.poisoned s w g with
    | [] => if x.h then s.chainOn w g (x.effects w) else s.laneEnd w g (x.effects w) (w.pc + 4)
    | ls => s.laneFaults w g x.h (ls.map fun l => ⟨l, .engineFault, 0, w.addr, w.pc, false⟩)

/-- A per-lane word issued: a control thread that fetches one faults ILLEGAL_ENCODING (R165). -/
def perLane (s : State) (k : Who → Group → State) : Host.Outcome State Fault Refusal :=
  match s.who with
  | none => .fault .noIssuer
  | some w =>
    match w.grp with
    | none => .next (s.faultHere w .illegalEncoding)
    | some g => .next (k w g)

/-- The meaning of a computing per-lane instruction. -/
def LaneSpec.run (x : LaneSpec) (s : State) : Host.Outcome State Fault Refusal := perLane s (x.issue s)

/-- A uniform word issued (R145, R166, R187): after a member with h = 1 it faults as a member of the chain; then its
operands are checked; a false condition c leaves it without effect (R185). `k` gives the state and the next program
counter is the caller's. -/
def uniform (s : State) (c : BitVec 3) (ok : Who → Bool) (reads : List (Nat × Nat)) (k : Who → State) :
    Host.Outcome State Fault Refusal :=
  match s.who with
  | none => .fault .noIssuer
  | some w =>
    .next <|
      match w.chain, w.grp with
      | some _, some g => s.laneFaultAll w g true .chainViolation
      | _, _ =>
        if !ok w then s.faultHere w .illegalOperand
        else if s.cPoisoned w c.toNat then s.faultHere w .engineFault
        else if !w.uni.cget c.toNat then s.setPc w (w.pc + 4)
        else if reads.any fun (r, n) => s.sPoisoned w r n then s.faultHere w .engineFault
        else k w

/-- Uniform poison cleared by a write (R80). -/
def State.cleanUni (s : State) (w : Who) (r words : Nat) : State :=
  { s with regPoison := s.regPoison.filter fun p =>
      match p, w.grp, w.ctl with
      | .s g x, some gr, _ => !(g == ⟨w.blk.id, gr.num⟩ && decide (r ≤ x) && decide (x < r + words))
      | .cs b k q x, none, some c =>
        !(b == w.blk.id && k == c.rank && q == c.quad && decide (r ≤ x) && decide (x < r + words))
      | _, _, _ => true }

/-- Condition poison cleared by a write. -/
def State.cleanCond (s : State) (w : Who) (i : Nat) : State :=
  { s with regPoison := s.regPoison.filter fun p =>
      match p, w.grp, w.ctl with
      | .c g x, some gr, _ => !(g == ⟨w.blk.id, gr.num⟩ && x == i)
      | .cc b k q x, none, some c => !(b == w.blk.id && k == c.rank && q == c.quad && x == i)
      | _, _, _ => true }

/-- Uniform registers written and the issuer moved past the word, its flags merged (R219, R220). -/
def State.uniWrite (s : State) (w : Who) (d : Nat) (ws : List Word) (f : Word := 0) : State :=
  (((s.cleanUni w d ws.length).modUni w (·.sset d ws)).setPc w (w.pc + 4)).uniFlags w f

/-- A condition written and the issuer moved past the word, its flags merged. -/
def State.condWrite (s : State) (w : Who) (d : Nat) (b : Bool) (f : Word := 0) : State :=
  (((s.cleanCond w d).modUni w (·.cset d b)).setPc w (w.pc + 4)).uniFlags w f

end Sys2Proof.Machine
end

