-- ==== Sys2Proof/Machine/Translate.lean ====
section
/-!
DEFINITION. Translation of GLOBAL addresses (02_translation_and_leases.md R38 to R47), the translation caches, and the
lease check (R51, R56).
-/
namespace Sys2Proof.Machine

-- Page table entries (R41).

def pteV (e : DWord) : Bool := bitOf e.toNat 0
def pteLf (e : DWord) : Bool := bitOf e.toNat 1
def pteSpan (e : DWord) : Nat := bitsOf e.toNat 3 2
def pteRd (e : DWord) : Bool := bitOf e.toNat 4
def pteWr (e : DWord) : Bool := bitOf e.toNat 5
def pteEx (e : DWord) : Bool := bitOf e.toNat 6
def pteMg (e : DWord) : Bool := bitOf e.toNat 7
def pteMt (e : DWord) : Nat := bitsOf e.toNat 9 8
def ptePa (e : DWord) : Nat := bitsOf e.toNat 51 12 * 4096
def pteRmask (e : DWord) : Nat := bitsOf e.toNat 55 52

/-- log2 of the bytes an entry of a level maps without a span (R40). -/
def levelBits (level : Nat) : Nat := 12 + 11 * (level - 1)

/-- Bits of a leaf's page: the level's and two for each step of SPAN (R41, R43). -/
def leafBits (level : Nat) (e : DWord) : Nat := levelBits level + 2 * pteSpan e

/-- How a walk meets an entry (R42). -/
inductive PteKind where
  | absent | err | table | leaf
deriving DecidableEq, Repr

/-- The physical base of a leaf's page: bits below its size are zero (R43). -/
def leafBase (bits : Nat) (e : DWord) : Nat := ptePa e / 2 ^ bits * 2 ^ bits

/-- The table of R42. -/
def pteKind (level : Nat) (e : DWord) : PteKind :=
  if !pteV e then .absent
  else if (level == 4 && pteLf e) || (level == 1 && !pteLf e) then .err
  else if pteLf e && ((level == 3 && pteSpan e != 0) || (level == 2 && pteSpan e == 2)) then .err
  else if pteMt e == 3 || bitsOf e.toNat 59 56 != 0 then .err
  else if !pteLf e then
    if bitsOf e.toNat 13 12 != 0 || bitsOf e.toNat 11 2 != 0 || pteRmask e != 0 then .err else .table
  else if pteRmask e != 0 && (pteMt e != 0 || !bitOf (pteRmask e) (hbmDie (ptePa e))) then .err
  else if pteMt e == 0 && !isHbm (leafBase (leafBits level e) e) then .err
  else .leaf

/-- What a translation yields: a leaf with the first VA and the bits of its page, nothing present, or a walk error. -/
inductive Xlat where
  | ok (leaf : DWord) (va bits : Nat)
  | absent
  | err
deriving DecidableEq, Repr

/-- An 8-byte entry of a table in HBM. -/
def State.entryAt (s : State) (pa : Nat) : DWord := BitVec.ofNat 64 (ofBytes (s.readMem pa 8))

/-- The index of a VA at a level (R40). -/
def vaIndex (level va : Nat) : Nat := va / 2 ^ levelBits level % 2048

/-- The entries of the run of a span that holds a VA's entry (R43). -/
def State.runEntries (s : State) (table level va span : Nat) : List DWord :=
  let n := 4 ^ span
  let base := vaIndex level va / n * n
  (List.range n).map fun i => s.entryAt (table + 8 * (base + i))

/-- The greatest span of a leaf whose run holds a VA's entry, 0 where none has one: what is listed among the 64 entries about it
with bits of SPAN set. -/
def State.spanAt (s : State) (table level va : Nat) : Nat :=
  let base := table + 8 * (vaIndex level va / 64 * 64)
  (s.mem.filter fun c => decide (base ≤ c.1) && decide (c.1 < base + 512) && c.1 % 8 == 0 && c.2.toNat / 4 % 4 != 0).foldl
    (fun m c =>
      let e := s.entryAt c.1
      let spans := (c.1 - table) / 8 / 4 ^ pteSpan e == vaIndex level va / 4 ^ pteSpan e
      if pteKind level e == .leaf && spans then max m (pteSpan e) else m) 0

/-- The entry a walk uses at a table: that of the VA, or, where it lies in a run whose entries differ, one of them (R43), the
choice being a free value. -/
def State.walkEntry (s : State) (table level va : Nat) : DWord :=
  let e := s.entryAt (table + 8 * vaIndex level va)
  let span := s.spanAt table level va
  if span == 0 then e
  else
    let run := s.runEntries table level va span
    if run.all (· == e) then e
    else run.getD ((Config.freeDWord s.fresh).toNat % run.length) e

/-- The walk of R40, from a level's table down, with the table pointers it read; a cached table pointer stands for its
entry (R45). -/
def State.walkFrom (s : State) (ptrs : List PtrEntry) (ctx va : Nat) : Nat → Nat → Xlat × List PtrEntry
  | 0, _ => (.err, [])
  | l + 1, table =>
    let level := l + 1
    let key := va / 2 ^ levelBits level
    match ptrs.find? fun p => p.ctx == ctx && p.level == level && p.key == key with
    | some p => s.walkFrom ptrs ctx va l (ptePa p.entry)
    | none =>
      if !isHbm table then (.err, [])
      else
        let e := s.walkEntry table level va
        match pteKind level e with
        | .absent => (.absent, [])
        | .err => (.err, [])
        | .leaf => (.ok e (va / 2 ^ leafBits level e * 2 ^ leafBits level e) (leafBits level e), [])
        | .table =>
          let (r, ps) := s.walkFrom ptrs ctx va l (ptePa e)
          (r, ⟨ctx, level, key, e⟩ :: ps)

/-- The places of the entries that the same walk reads. -/
def State.walkPlaces (s : State) (ptrs : List PtrEntry) (ctx va : Nat) : Nat → Nat → List Nat
  | 0, _ => []
  | l + 1, table =>
    match ptrs.find? fun p => p.ctx == ctx && p.level == l + 1 && p.key == va / 2 ^ levelBits (l + 1) with
    | some p => s.walkPlaces ptrs ctx va l (ptePa p.entry)
    | none =>
      if !isHbm table then []
      else
        let e := s.walkEntry table (l + 1) va
        (table + 8 * vaIndex (l + 1) va) :: if pteKind (l + 1) e == .table then s.walkPlaces ptrs ctx va l (ptePa e) else []

/-- The root of a context (R39): none without a valid translation. -/
def rootTable (root : DWord) : Option Nat :=
  if bitOf root.toNat 0 && bitsOf root.toNat 63 52 == 0 && bitsOf root.toNat 13 1 == 0 then
    some (bitsOf root.toNat 51 14 * 2 ^ 14)
  else none

/-- A whole walk with a walker's table pointers. -/
def State.walk (s : State) (ptrs : List PtrEntry) (ctx va : Nat) : Xlat × List PtrEntry :=
  match rootTable (s.ctxDesc ctx).root with
  | none => (.err, [])
  | some t => s.walkFrom ptrs ctx va 4 t

-- Bursts (R62).

def State.sketch (s : State) (stack : Nat) : Sketch := tabGet s.sketches stack {}
def State.modSketch (s : State) (stack : Nat) (f : Sketch → Sketch) : State :=
  { s with sketches := tabMod s.sketches stack {} f }
/-- EN of SKCTL. -/
def Sketch.on (k : Sketch) : Bool := bitOf k.skctl.toNat 31

/-- The 64-byte bursts that n bytes of a place take, served for a context: while its controller counts, each waits to be
counted. -/
def State.served (s : State) (k n ctx : Nat) : State :=
  if s.sketches.isEmpty then s
  else
    ((List.range ((k + n - 1) / 64 + 1 - k / 64)).map fun i => (k / 64 + i) * 64).foldl (fun (s : State) a =>
      if isHbm a && (s.sketch (hbmStack a)).on then
        s.modSketch (hbmStack a) fun x => { x with waiting := x.waiting ++ [(a / 2 ^ 16, ctx % 4096)] }
      else s) s

/-- The bursts of a page walk. -/
def State.walkBursts (s : State) (ptrs : List PtrEntry) (ctx va : Nat) : State :=
  if s.sketches.isEmpty then s
  else
    match rootTable (s.ctxDesc ctx).root with
    | none => s
    | some t => (s.walkPlaces ptrs ctx va 4 t).foldl (fun (s : State) k => s.served k 8 ctx) s

/-- The home slice of a translation among the 48 cores of a die (R46). -/
def homeSlice (ctx va : Nat) : Nat :=
  let x := va / 2 ^ 23
  let y := (x % 2048) ^^^ (x / 2 ^ 11 % 2048) ^^^ (x / 2 ^ 22 % 2048) ^^^ (ctx % 2048) ^^^ (ctx / 2 ^ 11 % 2 * 2 ^ 10)
  y * 48 / 2 ^ 11

def tlbFind (l : List TlbEntry) (ctx va : Nat) : Option TlbEntry :=
  l.find? fun e => e.ctx == ctx && va / 2 ^ e.bits == e.va / 2 ^ e.bits

/-- A translation of a core (R45 to R47): its L1 TLB, then the home slice of its die, then a walk, each installing the
leaf; a failure installs nothing. -/
def State.translate (s : State) (core ctx va : Nat) : State × Xlat :=
  match tlbFind (s.coreHw core).tlb ctx va with
  | some e => (s, .ok e.leaf e.va e.bits)
  | none =>
    let home := dieOf core * 48 + homeSlice ctx va
    match tlbFind (s.coreHw home).slice ctx va with
    | some e => (s.modCoreHw core fun h => { h with tlb := (e :: h.tlb).take 256 }, .ok e.leaf e.va e.bits)
    | none =>
      let (r, ps) := s.walk (s.coreHw home).ptrs ctx va
      let s := s.walkBursts (s.coreHw home).ptrs ctx va
      match r with
      | .ok leaf v bits =>
        let e : TlbEntry := ⟨ctx, v, bits, leaf⟩
        let s1 := s.fresh1.modCoreHw home fun h =>
          { h with ptrs := (ps ++ h.ptrs).take 512, slice := (e :: h.slice).take 8192 }
        (s1.modCoreHw core fun h => { h with tlb := (e :: h.tlb).take 256 }, r)
      | _ => (s.fresh1, r)

/-- The physical address of a VA in a leaf's page (R43). -/
def leafPa (leaf : DWord) (bits va : Nat) : Nat := leafBase bits leaf + va % 2 ^ bits

/-- The copy of a physical address that a core of a die reads (R59, R60). -/
def copyPa (leaf : DWord) (die pa : Nat) : Nat :=
  if bitOf (pteRmask leaf) die then pa % 2 ^ 40 + die * 2 ^ 40 else pa

/-- Every copy of a physical address, the primary first (R60, R138). -/
def allCopies (leaf : DWord) (pa : Nat) : List Nat :=
  if pteRmask leaf == 0 then [pa]
  else pa :: ((List.range 4).filter fun d => bitOf (pteRmask leaf) d && d != hbmDie pa).map fun d => pa % 2 ^ 40 + d * 2 ^ 40

/-- The place a leaf's memory type puts a physical address at (R38, R41). -/
def mtPlace (mt pa : Nat) : Nat := if mt == 1 then hostPlace pa else if mt == 2 then peerPlace pa else pa

/-- The rights a lease check may need (R56). -/
inductive Right where
  | r | w | a | x
deriving DecidableEq, Repr

def LeaseRange.has (l : LeaseRange) (k : Right) : Bool :=
  match k with
  | .r => l.r
  | .w => l.w
  | .a => l.a
  | .x => l.x

/-- Whether every byte of [va, va + n) lies in ranges that carry the right: each step passes one whole range. -/
def leaseCovers (ls : List LeaseRange) (k : Right) : Nat → Nat → Nat → Bool
  | _, _, 0 => true
  | 0, _, _ => false
  | fuel + 1, va, n =>
    match ls.find? fun l => l.has k && decide (l.base ≤ va) && decide (va < l.base + l.len) with
    | none => false
    | some l => if va + n ≤ l.base + l.len then true else leaseCovers ls k fuel (l.base + l.len) (va + n - (l.base + l.len))

/-- CheckLease for a right (R56). -/
def Grid.leased (g : Grid) (k : Right) (va n : Nat) : Bool := leaseCovers g.leases k (g.leases.length + 1) va n

/-- Whether the RO hint of a load applies: R without W on every byte (R56, R75). -/
def Grid.roApplies (g : Grid) (va n : Nat) : Bool :=
  leaseCovers (g.leases.filter fun l => !l.w) .r (g.leases.length + 1) va n

/-- Whether a host translation has been invalidated under a lease (R376). -/
def State.hostAbsent (s : State) (a : Nat) : Bool := s.hostGone.any fun g => decide (g.1 ≤ a) && decide (a < g.1 + g.2)

end Sys2Proof.Machine
end

