-- ==== Sys2Proof/Machine/Caches.lean ====
section
/-!
DEFINITION. The caches of R68 to R70 and R75, R76 as sets of ways: replacement, the L2 of a cluster with the home's directory,
the LLC of a die beside its version lines (R81), a write performed at its home (R69), and what a miss brings in. The set of a
line in the L1, the instruction cache and the L2 is its number modulo the sets, and the spec's silences are filled as log 78
says.
-/
namespace Sys2Proof.Machine

-- Ways, most recently used first.

/-- The least recently used element that p names. -/
def lastWhere {α : Type} (p : α → Bool) (l : List α) : Option α := l.reverse.find? p

/-- The list with the first element that p names changed by f and made the most recently used. -/
def toFront {α : Type} (p : α → Bool) (f : α → α) (l : List α) : List α :=
  match l.find? p with
  | none => l
  | some x => f x :: l.eraseP p

/-- The list with its first element that p names changed. -/
def modFirst {α : Type} (p : α → Bool) (f : α → α) : List α → List α
  | [] => []
  | x :: r => if p x then f x :: r else x :: modFirst p f r

/-- The list with the least recently used element that p names changed. -/
def modLast {α : Type} (p : α → Bool) (f : α → α) (l : List α) : List α := (modFirst p f l.reverse).reverse

/-- Whether a set is at its limit of protected lines (R76). -/
def atLimit {α : Type} (lim : Nat) (set kept : α → Bool) (l : List α) : Bool := decide (lim ≤ (l.filter fun x => set x && kept x).length)

/-- The line of a set of n ways that a fill replaces (R76): none while a way is free, else the least recently used that is
plain. A KEEP fill into a set at its limit replaces the least recently used protected line that may leave. -/
def wayFor {α : Type} (n lim : Nat) (set plain kept goes : α → Bool) (keep : Bool) (l : List α) : Option α :=
  if keep && atLimit lim set kept l then lastWhere (fun x => set x && kept x && goes x) l
  else if (l.filter set).length < n then none
  else lastWhere (fun x => set x && plain x) l

-- The LLC.

/-- LLCPlace (R69): slice and set of a physical address within its die. -/
def llcPlace (p : Nat) : Nat × Nat :=
  let a := p % 2 ^ 40
  let t := (a / 2 ^ 7 % 16) ^^^ (a / 2 ^ 22 % 16)
  (16 * (a / 2 ^ 12 % 3) + t, a / 2 ^ 12 % 1024)

/-- The version lines that stand in the set of a place. -/
def State.versInSet (s : State) (k : Nat) : Nat :=
  (s.versions.filter fun v => !v.poisoned && v.die == hbmDie k && llcPlace (v.line * 128) == llcPlace k).length

def LlcLine.inSet (line : Nat) (x : LlcLine) : Bool := llcPlace (x.line * 128) == llcPlace (line * 128)

/-- Clean copies of a line gone from the L2s a vector names (R69). -/
def State.dropSharers (s : State) (line : Nat) (named : BitVec 16) : State :=
  { s with clusters := s.clusters.map fun c =>
      if bitOf named.toNat c.1 then (c.1, { c.2 with l2 := c.2.l2.filter fun x => x.line != line || x.dom.isSome }) else c }

/-- An LLC line leaves its set: the L2 copies that its vector names go with it, and what was written into it goes to its stack. -/
def State.llcEvict (s : State) (die : Nat) (v : Option LlcLine) : State :=
  match v with
  | none => s
  | some x =>
    let s1 := match x.wrote with
      | some c => s.served (x.line * 128) 128 c
      | none => s
    (s1.modDieHw die fun d => { d with llc := d.llc.filter fun y => y.line != x.line }).dropSharers x.line x.sharers

/-- A hit that protects a line: the least recently used of the others loses its protection where they are at the limit. -/
def keepHit {α : Type} (lim : Nat) (keep : Bool) (other : α → Bool) (f : α → α) (l : List α) : List α :=
  if keep && decide (lim ≤ (l.filter other).length) then modLast other f l else l

/-- A line used at its home's LLC (R69, R75, R76): a hit makes it the most recently used, a miss inserts it, as the least
recently used under STREAM; `sharer` is the cluster whose L2 takes a copy. A context's read that misses takes the line from
its stack; what it writes goes there when the line leaves (R62). -/
def State.llcUse (s : State) (ctx line : Nat) (wr : Bool) (keep : Option Nat) (stream : Bool) (sharer : Option Nat) : State :=
  if !isHbm (line * 128) then s
  else
    let die := hbmDie (line * 128)
    let named : BitVec 16 := match sharer with
      | some c => BitVec.ofNat 16 (2 ^ c)
      | none => 0
    let ls := (s.dieHw die).llc
    if ls.any (·.line == line) then
      s.modDieHw die fun d =>
        let use (x : LlcLine) : LlcLine :=
          { x with keep := keep.or x.keep, sharers := x.sharers ||| named, wrote := if wr then some ctx else x.wrote }
        let other (x : LlcLine) : Bool := x.inSet line && x.keep.isSome && x.line != line
        { d with llc := toFront (·.line == line) use (keepHit 8 keep.isSome other (fun x => { x with keep := none }) d.llc) }
    else
      let v := wayFor (16 - s.versInSet (line * 128)) 8 (LlcLine.inSet line) (fun x => x.keep.isNone) (fun x => x.keep.isSome)
        (fun _ => true) keep.isSome ls
      let x : LlcLine := { line := line, keep := keep, sharers := named, wrote := if wr then some ctx else none }
      ((if wr then s else s.served (line * 128) 128 ctx).llcEvict die v).modDieHw die fun d =>
        { d with llc := if stream then d.llc ++ [x] else x :: d.llc }

/-- A way for one more version line in the set of a place (R81): an ordinary line in the way goes first. -/
def State.versWay (s : State) (k : Nat) : State :=
  s.llcEvict (hbmDie k) (wayFor (16 - s.versInSet k) 8 (LlcLine.inSet (k / 128)) (fun x => x.keep.isNone)
    (fun x => x.keep.isSome) (fun _ => true) false (s.dieHw (hbmDie k)).llc)

/-- VSTAT (R81): the overflow count, and above it the live version lines of the die's LLC. -/
def State.vstat (s : State) (die : Nat) : DWord :=
  joinPair (s.dieHw die).overflows
    (BitVec.ofNat 32 (s.versions.filter fun v => !v.poisoned && v.die == die).length)

-- A write at its home.

/-- The clusters whose L2 may hold a line: those of the home's sharer vector; a host line has none, and the host link asks
all. -/
def State.sharers (s : State) (line : Nat) : BitVec 16 :=
  if isHbm (line * 128) then
    (((s.dieHw (hbmDie (line * 128))).llc.find? (·.line == line)).map (·.sharers)).getD 0
  else 0xFFFF

/-- The sharers of a line invalidated and the vector cleared (R69). -/
def State.unshare (s : State) (line : Nat) : State :=
  let s1 := s.dropSharers line (s.sharers line)
  { s1 with dies := s1.dies.map fun d =>
      (d.1, { d.2 with llc := modIf d.2.llc (fun x => x.line == line) fun x => { x with sharers := 0 } }) }

/-- A write performed at its home (R69). -/
def State.homeWrite (s : State) (k : Nat) (bs : List Byte) : State :=
  (List.range ((k + bs.length - 1) / 128 + 1 - k / 128)).foldl (fun (s : State) i => s.unshare (k / 128 + i)) (s.writeMem k bs)

/-- The copies of a whole range gone from the L2s, where many writes are performed at its homes at once. -/
def State.unshareAll (s : State) (k n : Nat) : State :=
  { s with clusters := s.clusters.map fun c =>
      (c.1, { c.2 with l2 := c.2.l2.filter fun x => x.dom.isSome || decide (x.line * 128 + 128 ≤ k) || decide (k + n ≤ x.line * 128) }) }

/-- What an engine, the host or a peer reads at its home: bursts of the lines that the LLC does not hold. -/
def State.homeServed (s : State) (k n ctx : Nat) : State :=
  if s.sketches.isEmpty || !isHbm k then s
  else
    ((List.range ((k + n - 1) / 64 + 1 - k / 64)).map fun i => (k / 64 + i) * 64).foldl (fun (s : State) a =>
      if (s.dieHw (hbmDie a)).llc.any fun x => x.line == a / 128 then s else s.served a 64 ctx) s

-- The L2.

def State.l2 (s : State) (cl : Nat) : List L2Line := (tabGet s.clusters cl {}).l2
def State.modCluster (s : State) (cl : Nat) (f : ClusterHw → ClusterHw) : State := { s with clusters := tabMod s.clusters cl {} f }
def L2Line.inSet (line : Nat) (x : L2Line) : Bool := x.line % 8192 == line % 8192

/-- The line of an L2 that gives way to another (R76): never a pending one; a set whose lines are all pending or protected gives
up a protected one. -/
def l2Victim (line : Nat) (keep : Bool) (l : List L2Line) : Option L2Line :=
  let set : L2Line → Bool := L2Line.inSet line
  (wayFor 16 8 set (fun y => y.keep.isNone && y.dom.isNone) (fun y => y.keep.isSome) (fun y => y.dom.isNone) keep l).orElse fun _ =>
    if (l.filter set).length < 16 then none else lastWhere (fun y => set y && y.dom.isNone) l

/-- A line put into an L2 (R75, R76): as the most or, where `last`, the least recently used. Where the set is at its limit of
protected lines and each of them is pending, the line comes unprotected (log 78). -/
def l2Insert (x : L2Line) (last : Bool) (l : List L2Line) : List L2Line :=
  let kept (y : L2Line) : Bool := x.keep.isSome && y.keep.isSome && y.inSet x.line
  let x' := if atLimit 8 (L2Line.inSet x.line) kept l && (l.all fun y => !(kept y && y.dom.isNone)) then { x with keep := none } else x
  let rest := match l2Victim x.line x'.keep.isSome l with
    | some v => l.erase v
    | none => l
  if last then rest ++ [x'] else x' :: rest

/-- A hit in an L2: the line is the most recently used, and protected where a KEEP access asks for it; then the least recently
used of eight others loses its protection. -/
def l2Hit (line : Nat) (keep : Option Nat) (l : List L2Line) : List L2Line :=
  let other (y : L2Line) : Bool := y.inSet line && y.keep.isSome && y.line != line
  toFront (fun y => y.line == line && y.dom.isNone) (fun y => { y with keep := keep.or y.keep })
    (keepHit 8 keep.isSome other (fun y => { y with keep := none }) l)

/-- A load that its L1 or instruction cache missed, at the L2 and the home's LLC (R70, R75, R335 L2MISS): each allocates, but
under STREAM the LLC alone, as least recently used. -/
def State.l2Load (s : State) (core ctx line : Nat) (keep : Option Nat) (stream : Bool) : State :=
  let cl := clusterOf core
  if (s.l2 cl).any fun x => x.line == line && x.dom.isNone then s.modCluster cl fun c => { c with l2 := l2Hit line keep c.l2 }
  else
    let s1 := (s.modCluster cl fun c => { c with misses := c.misses + 1 }).llcUse ctx line false keep stream
      (if stream then none else some cl)
    if stream then s1 else s1.modCluster cl fun c => { c with l2 := l2Insert { line := line, keep := keep } false c.l2 }

/-- The issuing cluster's L2 takes ownership of a host line before an atomic (R70): no other L2 keeps a copy. -/
def State.l2Own (s : State) (core line : Nat) : State :=
  let cl := clusterOf core
  (s.dropSharers line 0xFFFF).modCluster cl fun c => { c with l2 := l2Insert { line := line, owned := true } false c.l2 }

/-- Whether an L2 set takes one more pending line: it holds one of that domain and line, or fewer than 8 (R71). -/
def State.l2Takes (s : State) (cl line : Nat) (dom : Nat × Nat) : Bool :=
  (s.l2 cl).any (fun x => x.line == line && x.dom == some dom) ||
    decide (((s.l2 cl).filter fun x => x.inSet line && x.dom.isSome).length < 8)

/-- A pending line held in an L2 (R71). -/
def State.l2Pend (s : State) (cl line : Nat) (keep : Option Nat) (last : Bool) (dom : Nat × Nat) : State :=
  if (s.l2 cl).any fun x => x.line == line && x.dom == some dom then s
  else s.modCluster cl fun c => { c with l2 := l2Insert ⟨line, keep, last, false, some dom⟩ false c.l2 }

-- What a fill brings.

/-- The bytes of a line at its home, but those of poisoned sectors (R79). -/
def State.lineBytes (s : State) (line : Nat) : List (Option Byte) :=
  let bs := s.readMem (line * 128) 128
  if s.poison.isEmpty then bs.map some
  else (List.range 128).map fun i => if s.poisoned (line * 128 + i / 32 * 32) 32 then none else bs[i]?

/-- The bytes of a way from an offset on, where it holds all n of them. -/
def heldBytes (l : List (Option Byte)) (o n : Nat) : Option (List Byte) := ((l.drop o).take n).mapM id

-- The instruction cache.

def IcLine.is (x : IcLine) (ctx line : Nat) : Bool := x.ctx == ctx && x.line == line

/-- A line put into an instruction cache of 128 sets and 8 ways (R68, R76). -/
def icInsert (x : IcLine) (l : List IcLine) : List IcLine :=
  let rest := l.filter fun y => !y.is x.ctx x.line
  match wayFor 8 0 (fun (y : IcLine) => y.line % 128 == x.line % 128) (fun _ => true) (fun _ => false) (fun _ => false) false rest with
  | some v => x :: rest.filter fun y => !y.is v.ctx v.line
  | none => x :: rest

/-- A line filled into an instruction cache. -/
def State.icFill (s : State) (core ctx line : Nat) : State :=
  let s1 := s.l2Load core ctx line none false
  s1.modCoreHw core fun h => { h with ic := icInsert ⟨ctx, line, s1.lineBytes line⟩ h.ic }

end Sys2Proof.Machine
end

