-- ==== Sys2Proof/Machine/Domains.lean ====
section
/-!
DEFINITION. A domain's view of memory (03_caches_versions_mailbox.md R71 to R78, R81 to R87; 05_consistency.md R115 to R124,
R138): its pending bytes and the ways that hold them, the write queues, publication, phases, the L1 under R76, versions and
their commit, and class-G loads and stores.
-/
namespace Sys2Proof.Machine

/-- Where an access comes from: its block and grid, the member whose domain it belongs to, that member's core. -/
structure Site where
  blk : Block
  grid : Grid
  rank : Nat
  quad : Nat
  core : Nat

def Who.site (w : Who) : Site := ⟨w.blk, w.grid, w.rank, w.quad, w.core⟩
def Site.ctx (x : Site) : Nat := x.grid.ctx
def Site.die (x : Site) : Nat := dieOf x.core
/-- A site's domain (R115). -/
def Site.dom (x : Site) : Nat × Nat := (x.blk.id, x.rank)
/-- The number of quadrants of a core that the site's function owns (R14). -/
def State.ownQ (s : State) (x : Site) (core : Nat) : Nat := (s.ownedQuads core (s.ctxFn x.ctx)).length

/-- What an access does. -/
inductive Acc where
  | read | write | atomic
deriving DecidableEq, Repr

def Acc.reads : Acc → Bool
  | .write => false
  | _ => true
def Acc.writes : Acc → Bool
  | .read => false
  | _ => true

-- Pending bytes.

/-- The pending bytes of a domain (R71, R115). -/
def State.pend (s : State) (b rank : Nat) : List PendByte :=
  ((s.block? b).map fun x => x.doms.getD rank []).getD []
def State.modPend (s : State) (b rank : Nat) (f : List PendByte → List PendByte) : State :=
  s.modBlock b fun x => { x with doms := modAt x.doms rank f }

def pendGet (l : List PendByte) (k : Nat) : Option Byte := (l.find? (·.key == k)).map (·.val)

/-- A full write of a sector clears its poison (R79). -/
def pendClean (k n : Nat) (l : List PendByte) : List PendByte :=
  if l.any (·.bad) then
    l.map fun p => if decide (k ≤ p.key / 32 * 32) && decide (p.key / 32 * 32 + 32 ≤ k + n) then { p with bad := false } else p
  else l

/-- A store into a domain's view: the byte is pending, in place of an earlier pending one (R71, R138). -/
def pendPut (at_ : Nat) (copies : Nat → List Nat) : Nat → List Byte → List PendByte → List PendByte
  | _, [], l => l
  | k, b :: bs, l =>
    pendPut at_ copies (k + 1) bs
      (l.filter (·.key != k) ++ [⟨k, b, copies k, at_, l.any fun p => p.bad && p.key / 32 == k / 32⟩])

/-- The first run of a list of (place, byte): neighbouring places of one sector. -/
def runsOf : List (Nat × Byte) → List (Nat × List Byte)
  | [] => []
  | (k, v) :: r =>
    match runsOf r with
    | (k', vs) :: t => if k + 1 == k' && k % 32 != 31 then (k, v :: vs) :: t else (k, [v]) :: (k', vs) :: t
    | [] => [(k, [v])]

/-- The context of a block. -/
def State.blockCtx (s : State) (b : Nat) : Nat := (((s.block? b).bind fun x => s.grid? x.grid).map (·.ctx)).getD 0

-- Classes (R116).

/-- Class B. -/
def clsB : Nat := 0
/-- Class D. -/
def clsD : Nat := 1
/-- Class P. -/
def clsP : Nat := 2
/-- Class G. -/
def clsG : Nat := 3

/-- The class of a place. -/
def placeCls (key : Nat) : Nat :=
  if key < 2 ^ 53 then clsG else if key < 2 ^ 54 then clsP else if key < 2 ^ 54 + 2 ^ 24 then clsD else clsB

-- Peers (R379, R380).

/-- The port of an aperture address (R379). -/
def peerPort (k : Nat) : Nat := k % 2 ^ 52 / 2 ^ 48

/-- Whether a peer rejects an access (R380). -/
def State.peerDenied (s : State) (op : Acc) (k : Nat) : Bool :=
  let a := k % 2 ^ 52
  s.peerDeny.any fun d => decide (d.base ≤ a) && decide (a < d.base + d.len) &&
    (match op with
     | .read => d.read
     | .write => d.write
     | .atomic => d.atomic)

/-- A store that a peer or a port drops (R380): counted and logged. -/
def State.peerDrop (s : State) (fn k : Nat) : State :=
  s.modFn fn fun f => { f with peerRej := f.peerRej + 1, faultLog := f.faultLog ++ [(0x0380, k)] }

-- The write queues (R78).

/-- Every cell of an entry. -/
def HeldStore.all (e : HeldStore) : List (Nat × List Byte) := e.cells ++ e.copies.flatten

/-- Whether a waiting write writes a byte of [k, k + n). -/
def HeldStore.overlaps (e : HeldStore) (k n : Nat) : Bool := e.all.any fun c => decide (c.1 < k + n) && decide (k < c.1 + c.2.length)

/-- Whether an entry may not pass an earlier one: entries of one context to one location keep their order (R78), and
multicasts reach every copy in the order of their primaries (R138). -/
def HeldStore.behind (e f : HeldStore) : Bool :=
  (f.ctx == e.ctx || (f.begun && e.begun)) && e.all.any fun c => f.overlaps c.1 c.2.length

/-- Cells performed at their destinations at one instant; a peer, or a port that is down, may drop its own (R380). -/
def State.performCells (s : State) (fn : Nat) (cells : List (Nat × List Byte)) : State :=
  (cells.foldl (fun (s : State) c =>
    if placeCls c.1 == clsG then s.homeWrite c.1 c.2
    else if placeCls c.1 == clsP && (s.portsDown.contains (peerPort c.1) || s.peerDenied .write c.1) then s.peerDrop fn c.1
    else s.writeMem c.1 c.2) s).tick

/-- An entry performed whole. -/
def State.performStore (s : State) (e : HeldStore) : State :=
  e.copies.foldl (fun (s : State) c => s.performCells e.fn c) (s.performCells e.fn e.cells)

-- The ways of published bytes.

/-- Whether a way holds a line for accesses of a kind. -/
def L1Line.is (l : L1Line) (ctx line : Nat) (const priv : Bool) : Bool :=
  l.ctx == ctx && l.line == line && l.const == const && l.priv == priv

/-- The L1 ways of a core that hold the byte's line take its published value: lines keep their data as clean copies (R72). -/
def l1Put (k : Nat) (v : Byte) (ls : List L1Line) : List L1Line :=
  ls.map fun l => if l.line == k / 128 then { l with bytes := l.bytes.set (k % 128) (some v) } else l

/-- The bytes of cells at their places. -/
def cellBytesAt (cells : List (Nat × List Byte)) : List (Nat × Byte) :=
  cells.flatMap fun c => (List.range c.2.length).map fun i => (c.1 + i, c.2.getD i 0)

/-- The byte of a place that a domain has waiting in the queues, the latest of them. -/
def State.waitingByte (s : State) (dom : Nat × Nat) (k : Nat) : Option Byte :=
  (s.wq.stores.reverse.find? fun e => e.dom == some dom && e.overlaps k 1).bind fun e =>
    ((cellBytesAt e.all).find? (·.1 == k)).map (·.2)

/-- Whether a domain has unpublished bytes of a line: pending, or waiting in the queues. -/
def State.unpublished (s : State) (dom : Nat × Nat) (line : Nat) : Bool :=
  (s.pend dom.1 dom.2).any (fun p => p.key / 128 == line) ||
    s.wq.stores.any fun e => e.dom == some dom && e.overlaps (line * 128) 128

/-- A domain's way for a line in an L1, whose bytes are all published: a clean copy, in place of another of the line, and the
least recently used one after STREAM stores (R72, R75). -/
def l1Turn (dom : Nat × Nat) (line : Nat) (ways : List L1Line) : List L1Line :=
  let mine (l : L1Line) : Bool := l.line == line && l.dom == some dom
  match ways.find? mine with
  | none => ways
  | some w =>
    let rest := ways.filter fun l => !(l.is w.ctx line w.const w.priv && l.dom.isNone)
    let free (l : L1Line) : L1Line := { l with dom := none, last := false }
    if w.last then rest.filter (!mine ·) ++ (rest.filter mine).map free else rest.map fun l => if mine l then free l else l

/-- The copy that an L2 keeps of a published line (R72, R75): that of its pending line, or of a KEEP or STREAM store. -/
def l2Turn (dom : Nat × Nat) (line : Nat) (keep : Option Nat) (last : Bool) (ls : List L2Line) : List L2Line :=
  l2Insert { line := line, keep := keep } last (ls.filter fun x => !(x.line == line && (x.dom.isNone || x.dom == some dom)))

/-- The caches after bytes of a line have been published (R69, R72, R75): the home's LLC allocates it and names the L2 that
keeps a copy; ways that hold none of the domain's unpublished bytes any more are clean copies. -/
def State.lineOut (s : State) (dom : Nat × Nat) (core line : Nat) : State :=
  let cl := clusterOf core
  let way := (s.coreHw core).l1.find? fun l => l.line == line && l.dom == some dom
  let held := (s.l2 cl).find? fun x => x.line == line && x.dom == some dom
  let keep := (way.bind fun l => if l.keep then some l.ctx else none).or (held.bind (·.keep))
  let last := ((way.map (·.last)).getD false) || (held.map (·.last)).getD false
  let copy := held.isSome || keep.isSome || last
  let s1 := s.llcUse (s.blockCtx dom.1) line true keep last (if copy then some cl else none)
  if s.unpublished dom line then s1
  else
    let s2 := s1.modCoreHw core fun h => { h with l1 := l1Turn dom line h.l1 }
    if copy then s2.modCluster cl fun c => { c with l2 := l2Turn dom line keep last c.l2 } else s2

/-- The caches after the publication of a domain's bytes from a core. -/
def State.cleaned (s : State) (dom : Nat × Nat) (core : Nat) (cells : List (Nat × Byte)) : State :=
  let s1 := s.modCoreHw core fun h => { h with l1 := cells.foldl (fun ls c => l1Put c.1 c.2 ls) h.l1 }
  (cells.map fun c => c.1 / 128).eraseDups.foldl (fun (s : State) line => s.lineOut dom core line) s1

/-- The caches after cells of an entry have been performed. -/
def State.cleanEntry (s : State) (e : HeldStore) (cells : List (Nat × List Byte)) : State :=
  match e.dom with
  | none => s
  | some d =>
    match s.block? d.1 with
    | some b => s.cleaned d (b.coreOf d.2) (cellBytesAt cells)
    | none => s

/-- The entries of a list that p names, with those that they may not pass, and the others. -/
def dueStores (p : HeldStore → Bool) (l : List HeldStore) : List HeldStore × List HeldStore :=
  l.foldr (fun e r => if p e || r.1.any (·.behind e) then (e :: r.1, r.2) else (r.1, e :: r.2)) ([], [])

/-- The entries that p names performed, after those that they may not pass. -/
def State.settleStores (s : State) (p : HeldStore → Bool) : State :=
  if s.wq.stores.any p then
    let r := dueStores p s.wq.stores
    let s1 := r.1.foldl State.performStore { s with wq := { s.wq with stores := r.2 } }
    r.1.foldl (fun (s : State) e => s.cleanEntry e e.all) s1
  else s

/-- One entry, or the primary's part of it, performed ahead of others. -/
def State.performAt (s : State) (i : Nat) : State :=
  match s.wq.stores[i]? with
  | none => s
  | some e =>
    if (s.wq.stores.take i).any e.behind then s
    else
      let rest := s.wq.stores.eraseIdx i
      let left := match e.copies with
        | [] => rest
        | c :: cs => rest.takeWhile (·.begun) ++ { e with cells := c, copies := cs, begun := true } :: rest.dropWhile (·.begun)
      ({ s with wq := { s.wq with stores := left } }.performCells e.fn e.cells).cleanEntry e e.cells

/-- The entry that the queues, left to themselves, perform next: the first that may go of the context whose turn it is, the
contexts taking turns in the order of their numbers (R78). -/
def WriteQueues.turn (q : WriteQueues) : Option (Nat × HeldStore) :=
  let free := (List.range q.stores.length).filterMap fun i => (q.stores[i]?).bind fun e =>
    if (q.stores.take i).any e.behind then none else some (i, e)
  let ahead (e : HeldStore) : Nat := (e.ctx + 2 ^ 12 - q.next) % 2 ^ 12
  free.foldl (fun (m : Option (Nat × HeldStore)) x =>
    match m with
    | none => some x
    | some y => if ahead x.2 < ahead y.2 then some x else some y) none

/-- That entry performed. -/
def State.serveNext (s : State) : State :=
  match s.wq.turn with
  | none => s
  | some x => let s1 := s.performAt x.1; { s1 with wq := { s1.wq with next := (x.2.ctx + 1) % 2 ^ 12 } }

-- Publication (R120, R122, R138).

/-- The places a pending byte goes to, the primary first. -/
def PendByte.goes (p : PendByte) : List Nat := if p.copies.isEmpty then [p.key] else p.copies

/-- Pending bytes at their homes at once: a multicast's at the primary first, then at every other copy. -/
def State.publishBytes (s : State) (ps : List PendByte) : State :=
  let most := ps.foldl (fun m p => max m p.goes.length) 0
  let s1 := (List.range most).foldl (fun (s : State) i =>
    (runsOf (sortBy (fun a b => decide (a.1 ≤ b.1)) (ps.filterMap fun p => (p.goes[i]?).map fun k => (k, p.val)))).foldl
      (fun s r => s.homeWrite r.1 r.2) s) s
  if ps.any (·.bad) then
    { s1 with poison := s1.poison ++ ((ps.filter (·.bad)).flatMap fun p => p.goes.map fun k => (k / 32 * 32, 32)).eraseDups }
  else s1

/-- The 16-byte units of a publication as entries of the write queues (R122): what goes to one unit of one copy goes at one
instant, the primary's first (R134, R138). -/
def unitStores (ctx fn : Nat) (dom : Nat × Nat) (point : Bool) (ps : List PendByte) : List HeldStore :=
  (ps.map fun p => p.key / 16).eraseDups.map fun u =>
    let mine := ps.filter fun p => p.key / 16 == u
    let marked := mine.filter fun (p : PendByte) => !p.copies.isEmpty
    let units := ((marked.flatMap fun (p : PendByte) => p.copies.map (· / 16)) ++ [u]).eraseDups
    let stage (d : Nat) : List (Nat × List Byte) :=
      runsOf (sortBy (fun a b => decide (a.1 ≤ b.1))
        (mine.flatMap fun p => (p.goes.filter fun k => k / 16 == d).map fun k => (k, p.val)))
    { owner := .none, ctx := ctx, fn := fn, cls := clsG, cells := stage (units.headD u), dom := some dom,
      copies := (units.drop 1).map stage, point := point }

/-- The publication of the unpublished bytes of a domain at the places that p names. It is whole at once, or, where `wait` and the
queues hold writes, its units enter them; `point` marks those of a capacity close. -/
def State.publishAs (s : State) (wait point : Bool) (b rank core : Nat) (p : Nat → Bool) : State :=
  let dom := (b, rank)
  let s0 := s.settleStores fun e => e.dom == some dom && (cellBytesAt e.all).any fun c => p c.1
  let now := (s0.pend b rank).filter fun q => p q.key
  if now.isEmpty then s0
  else
    let ctx := s.blockCtx b
    let stuck := (now.filter fun q => q.bad || q.goes.any fun k => s.poisoned k 1).map fun q => q.key / 16
    let held (q : PendByte) : Bool := wait && s.wq.hold && !stuck.contains (q.key / 16)
    let soon := now.filter fun q => !held q
    let s1 := (s0.modPend b rank fun l => l.filter fun q => !p q.key).settleStores fun e =>
      e.ctx == ctx && soon.any fun q => q.goes.any fun k => e.overlaps k 1
    let s2 := (s1.publishBytes soon).cleaned dom core (soon.flatMap fun q => q.goes.map fun k => (k, q.val))
    let s3 := if now.all fun q => !held q then s2
      else { s2 with wq := { s2.wq with stores := s2.wq.stores ++ unitStores ctx (s.ctxFn ctx) dom point (now.filter held) } }
    s3.tick

def State.publish (s : State) (b rank core : Nat) (p : Nat → Bool) : State := s.publishAs false false b rank core p

/-- Publish(domain) of R7: every pending byte of a domain, and what is left of its earlier publications. -/
def State.publishAll (s : State) (b rank core : Nat) : State := s.publish b rank core fun _ => true

/-- A publication of a domain under way (R122): its units may wait in the queues. -/
def State.publishStart (s : State) (b rank core : Nat) : State := s.publishAs true false b rank core fun _ => true

/-- A capacity close of a domain that has pending bytes (R73); its units may wait, but the domain's threads go on only after
them. -/
def State.capacityClose (s : State) (wait : Bool) (b rank : Nat) : State :=
  match s.block? b with
  | none => s
  | some x =>
    if (s.pend b rank).isEmpty then s else (s.publishAs wait true b rank (x.coreOf rank) fun _ => true).countEvent 0x0010 1

/-- A capacity close of a domain is behind its threads before the next of their instructions (R73). -/
def State.passClose (s : State) (dom : Nat × Nat) : State := s.settleStores fun e => e.point && e.dom == some dom

-- The L1 (R68, R71, R75, R76).

/-- The ways of each set of a core's L1 that a function holds (R68). -/
def State.l1Ways (s : State) (core fn : Nat) : Nat := 4 * (s.ownedQuads core fn).length

def L1Line.inSet (fn line : Nat) (l : L1Line) : Bool := l.fn == fn && l.line % 128 == line % 128

/-- A pending line leaves an L1 (R71, R73, R76): to the L2, or, where its L2 set holds 8 pending lines, by a capacity close. -/
def State.l1Spill (s : State) (core : Nat) (v : L1Line) : State :=
  match v.dom with
  | none => s
  | some dom =>
    let cl := clusterOf core
    if s.l2Takes cl v.line dom then
      (s.l2Pend cl v.line (if v.keep then some v.ctx else none) v.last dom).modCoreHw core fun h =>
        { h with l1 := h.l1.filter fun l => !(l.is v.ctx v.line v.const v.priv && l.dom == v.dom) }
    else
      (s.capacityClose false dom.1 dom.2).modCoreHw core fun h =>
        { h with l1 := h.l1.filter fun l => !(l.is v.ctx v.line v.const v.priv && l.dom.isNone) }

/-- A way made free for a line of a function in an L1 (R76): a plain line's, or the least recently used pending one's; a KEEP fill
into a set at its limit takes a protected one's, pending or not. -/
def State.l1Room (s : State) (core fn line : Nat) (keep : Bool) : State :=
  let n := s.l1Ways core fn
  let set := L1Line.inSet fn line
  let ls := (s.coreHw core).l1
  let pending := if (ls.filter set).length < n then none else lastWhere (fun l => set l && l.dom.isSome) ls
  match (wayFor n (n / 2) set (fun l => !l.keep && l.dom.isNone) (fun l => l.keep) (fun _ => true) keep ls).orElse fun _ => pending with
  | some v => if v.dom.isSome then s.l1Spill core v else s.modCoreHw core fun h => { h with l1 := h.l1.erase v }
  | none => s

/-- A way of an L1 used again: it becomes the most recently used, and may be protected within the limit of its set. -/
def State.l1Hit (s : State) (core fn line : Nat) (here : L1Line → Bool) (keep : Bool) (f : L1Line → L1Line) : State :=
  let n := s.l1Ways core fn
  let off (l : L1Line) : L1Line := { l with keep := false }
  s.modCoreHw core fun h =>
    let grow := keep && !(h.l1.any fun l => here l && l.keep)
    { h with l1 := toFront here f (keepHit (n / 2) grow (fun l => l.inSet fn line && l.keep) off h.l1) }

/-- A line's clean bytes put into an L1, into the domain's own way for the line or a free one (R71, R75). -/
def State.l1Fill (s : State) (core ctx line : Nat) (m : LoadMarks) (me : Nat × Nat) : State :=
  let fn := s.ctxFn ctx
  let here (l : L1Line) : Bool := l.is ctx line m.const m.priv && (l.dom.isNone || l.dom == some me)
  let s0 := s.l2Load core ctx line (if m.keep then some ctx else none) m.stream
  if m.stream then s0
  else if (s0.coreHw core).l1.any here then
    let bs := s0.lineBytes line
    s0.l1Hit core fn line here m.keep fun l => { l with bytes := bs, ro := l.ro || m.ro, keep := l.keep || m.keep }
  else
    let s1 := s0.l1Room core fn line m.keep
    let bs := s1.lineBytes line
    s1.modCoreHw core fun h =>
      { h with l1 := { ctx := ctx, fn := fn, line := line, bytes := bs, ro := m.ro, const := m.const, priv := m.priv,
                       keep := m.keep } :: h.l1 }

/-- The way that a domain's store to a line takes (R71): its own, else a clean one of the line, else a free one; nothing is
read. -/
def State.l1Store (s : State) (core ctx line : Nat) (priv keep last : Bool) (me : Nat × Nat) : State :=
  let fn := s.ctxFn ctx
  let ls := (s.coreHw core).l1
  let own (l : L1Line) : Bool := l.is ctx line false priv && l.dom == some me
  let clean (l : L1Line) : Bool := l.is ctx line false priv && l.dom.isNone
  let mark (l : L1Line) : L1Line := { l with dom := some me, keep := l.keep || keep, last := last }
  if ls.any own then s.l1Hit core fn line own keep mark
  else if ls.any clean then s.l1Hit core fn line clean keep mark
  else
    (s.l1Room core fn line keep).modCoreHw core fun h =>
      { h with l1 := { ctx := ctx, fn := fn, line := line, bytes := List.replicate 128 none, priv := priv, keep := keep,
                       last := last, dom := some me } :: h.l1 }

/-- Clean bytes gone from the ways that p names: a way without pending bytes is free, one with them keeps them alone. -/
def dropClean (p : L1Line → Bool) (ls : List L1Line) : List L1Line :=
  (ls.filter fun l => !(p l && l.dom.isNone)).map fun l => if p l then { l with bytes := List.replicate 128 none } else l
def State.dropClean (s : State) (core : Nat) (p : L1Line → Bool) : State :=
  s.modCoreHw core fun h => { h with l1 := Machine.dropClean p h.l1 }

/-- PHASE.OPEN's invalidation in a core's L1 (R72, R121): the context's lines but RO, CONST and PRIV ones. Of a line with pending
bytes only these are left, which R121 asks of what was clean there. -/
def State.openPhase (s : State) (core ctx : Nat) : State :=
  s.dropClean core fun l => l.ctx == ctx && !(l.ro || l.const || l.priv)

/-- The open at a block's placement or restore (R25, R121): the PRIV lines of its context are made current too. -/
def State.openBlock (s : State) (core ctx : Nat) : State := s.dropClean core fun l => l.ctx == ctx && !(l.ro || l.const)

/-- The lines a join or an atomic invalidates in a core's L1 (R74, R132). -/
def State.dropLines (s : State) (core : Nat) (p : Nat → Bool) : State := s.dropClean core fun l => p l.line

/-- The ways that held a block's pending bytes, which are gone. -/
def State.dropDoms (s : State) (b : Nat) : State :=
  let its (d : Option (Nat × Nat)) : Bool := (d.map (·.1)) == some b
  { s with cores := s.cores.map (fun c => (c.1, { c.2 with l1 := c.2.l1.filter fun l => !its l.dom })),
           clusters := s.clusters.map fun c => (c.1, { c.2 with l2 := c.2.l2.filter fun x => !its x.dom }) }

/-- A context's protection of the lines of a page released (R76). -/
def State.unprotect (s : State) (ctx key bits : Nat) : State :=
  let hits (line : Nat) : Bool := decide (key ≤ line * 128) && decide (line * 128 < key + 2 ^ bits)
  let off (k : Option Nat) (line : Nat) : Option Nat := if k == some ctx && hits line then none else k
  let core (h : CoreHw) : CoreHw := { h with l1 := modIf h.l1 (fun l => l.ctx == ctx && hits l.line) fun l => { l with keep := false } }
  let cluster (h : ClusterHw) : ClusterHw := { h with l2 := h.l2.map fun x => { x with keep := off x.keep x.line } }
  let die (h : DieHw) : DieHw := { h with llc := h.llc.map fun x => { x with keep := off x.keep x.line } }
  { s with cores := s.cores.map fun c => (c.1, core c.2), clusters := s.clusters.map fun c => (c.1, cluster c.2),
           dies := s.dies.map fun d => (d.1, die d.2) }

/-- Whether a way of another domain of the core holds pending bytes of a line (R71). -/
def State.otherPend (s : State) (core : Nat) (me : Nat × Nat) (line : Nat) : Bool :=
  (s.coreHw core).l1.any fun l => l.line == line && l.dom.isSome && l.dom != some me

-- Versions (R81 to R87).

/-- The bytes of a thread's version over a line's place, where it holds them (R83). -/
def State.versByte (s : State) (tag : Option ThreadRef) (k : Nat) : Option Byte :=
  match tag with
  | none => none
  | some t =>
    (s.versions.find? fun v => v.tag == t && v.line == k / 128 && v.bytes.any (·.1 == k)).bind fun v =>
      (v.bytes.find? (·.1 == k)).map (·.2)

/-- Whether an uncorrectable error struck a thread's version, which was discarded (R79): the task has still to fault. -/
def State.versLost (s : State) (t : ThreadRef) : Bool := s.versions.any fun v => v.tag == t && v.poisoned

/-- Whether a task's store at a place can be held: its version line exists, or a version way is free (R82, R87). -/
def State.versRoom (s : State) (t : ThreadRef) (k : Nat) : Bool :=
  (s.versions.any fun v => v.tag == t && v.line == k / 128) ||
    decide (s.versInSet k < bitsOf (s.dieHw (hbmDie k)).vsctl.toNat 2 0)

/-- A task's store into its version line at one copy (R82). -/
def State.versPut (s : State) (ctx : Nat) (t : ThreadRef) (k : Nat) (bs : List Byte) : State :=
  let put (old : List (Nat × Byte)) : List (Nat × Byte) :=
    (List.range bs.length).foldl (fun o i => tabSet o (k + i) (bs.getD i 0)) old
  if s.versions.any fun v => v.tag == t && v.line == k / 128 then
    { s with versions :=
        modIf s.versions (fun v => v.tag == t && v.line == k / 128) (fun v => { v with bytes := put v.bytes }) }
  else
    let s1 := s.versWay k
    { s1 with versions := s1.versions ++ [⟨ctx, t, hbmDie k, k / 128, put [], false⟩] }

/-- Version bytes published by a task's domain (R85, R139): written at their homes, after what its context has waiting there, and
current in the domain's view. -/
def State.commitCells (s : State) (t : ThreadRef) (ctx : Nat) (cells : List (Nat × Byte)) : State :=
  let s0 := s.settleStores fun e => e.ctx == ctx && cells.any fun c => e.overlaps c.1 1
  let s1 := (runsOf cells).foldl (fun (s : State) r => (s.homeWrite r.1 r.2).llcUse ctx (r.1 / 128) true none false none) s0
  let s2 := match s1.block? t.block with
    | some b =>
      s1.modCoreHw (b.coreOf (b.rankOf t.group)) fun h =>
        { h with l1 := cells.foldl (fun (l : List L1Line) (x : Nat × Byte) => l1Put x.1 x.2 l) h.l1 }
    | none => s1
  s2.tick

/-- The commit of a version (R85): every masked byte written at its home, the lines freed. -/
def State.commit (s : State) (t : ThreadRef) : State :=
  (s.discard t).commitCells t (s.blockCtx t.block) ((s.versions.filter (·.tag == t)).flatMap (·.bytes))

/-- One 16-byte unit of a commit in progress published ahead of the others (R122, R139). -/
def State.commitUnit (s : State) (t : ThreadRef) (unit : Nat) : State :=
  let going := match (s.thread? t).map (·.wait) with
    | some (.commit _) => !s.versLost t
    | _ => false
  if !going then s
  else
    let here (v : VersLine) : Bool := v.tag == t && v.line == unit / 8
    let cells := (s.versions.filter here).flatMap fun v => v.bytes.filter fun b => b.1 / 16 == unit
    let cut (v : VersLine) : VersLine := { v with bytes := v.bytes.filter fun b => b.1 / 16 != unit }
    { s with versions := (modIf s.versions here cut).filter fun v => !(here v && v.bytes.isEmpty) }.commitCells t
      (s.blockCtx t.block) cells

-- Class-G loads and stores.

/-- A class-G load of n bytes in a domain's view (R71, R83, R121): the task's version, the domain's unpublished bytes, the
core's clean bytes, or the home, which fills a line unless another domain's pending bytes or the hint forbid it. The flag says
that a poisoned sector was read (R79). -/
def State.readG (s : State) (x : Site) (tag : Option ThreadRef) (m : LoadMarks) (k n : Nat) :
    State × List Byte × Bool :=
  let line := k / 128
  let me := x.dom
  let own := s.pend x.blk.id x.rank
  let held (i : Nat) : Option Byte :=
    ((s.versByte tag (k + i)).orElse fun _ => pendGet own (k + i)).orElse fun _ => s.waitingByte me (k + i)
  let need := (List.range n).filter fun i => (held i).isNone
  let other := s.otherPend x.core me line
  let ways (l : L1Line) : Bool := l.is x.ctx line m.const m.priv && (l.dom.isNone || l.dom == some me)
  let full (l : L1Line) : Bool := ways l && need.all fun i => ((l.bytes.getD ((k + i) % 128) none)).isSome
  let hit := if other then none else (s.coreHw x.core).l1.find? full
  let home := s.readMem k n
  let out := (List.range n).map fun i =>
    match held i with
    | some v => v
    | none => ((hit.bind fun l => l.bytes.getD ((k + i) % 128) none).orElse fun _ => home[i]?).getD 0
  let bad := (!need.isEmpty && hit.isNone && s.poisoned k n) ||
    own.any fun p => p.bad && decide (k ≤ p.key) && decide (p.key < k + n) && (s.versByte tag p.key).isNone
  let s1 :=
    if other then (s.dropClean x.core fun l => l.line == line).l2Load x.core x.ctx line (if m.keep then some x.ctx else none) m.stream
    else if hit.isSome then
      s.l1Hit x.core (s.ctxFn x.ctx) line full m.keep fun l => { l with ro := l.ro || m.ro, keep := l.keep || m.keep }
    else if need.isEmpty then s
    else s.l1Fill x.core x.ctx line m me
  (s1.tick, out, bad)

/-- A plain class-G store: pending in the domain and in a way of the core (R71, R75); a multicast carries its copies (R138). -/
def State.writeG (s : State) (x : Site) (copies : List Nat) (m : LoadMarks) (k : Nat) (bs : List Byte) : State :=
  let s1 := s.l1Store x.core x.ctx (k / 128) m.priv m.keep m.stream x.dom
  (s1.modPend x.blk.id x.rank fun l =>
    pendPut s.seq (fun j => copies.map (· + (j - k))) k bs (pendClean k bs.length l)).tick

/-- A line of class G brought into a core's L1 ahead of its loads (R121). -/
def State.fetchL1 (s : State) (core ctx line : Nat) : State :=
  let k := line * 128
  if 2 ^ 53 ≤ k || 192 ≤ core || s.poisoned k 128 || (s.coreHw core).l1.any fun l => l.line == line then s
  else (s.l1Fill core ctx line {} (s.nextId, 0)).tick

end Sys2Proof.Machine
end

