-- ==== Sys2Proof/Machine/Access.lean ====
section
/-!
DEFINITION. Access to memory: the address spaces and the checks of R8 to R30 and R89, where a byte lies, region granules
under an access (R31 to R35), and reads, writes and atomics of each class (R121 to R126, R234 to R236).
-/
namespace Sys2Proof.Machine

/-- The engine classes of R15. -/
inductive Eng where
  | lsu | ctl | ce | mxs | mxa | mxc | rfl | map
deriving DecidableEq, Repr

-- Fields of a pointer (R8).
def ptrSpace (p : DWord) : Nat := bitsOf p.toNat 63 60
def ptrRank (p : DWord) : Nat := bitsOf p.toNat 59 56
def ptrOff (p : DWord) : Nat := bitsOf p.toNat 55 0
def ptrMode (p : DWord) : Nat := bitsOf p.toNat 31 28

/-- A pointer with a displacement added to its offset, which wraps (R201, R229). -/
def ptrAdd (p : DWord) (d : Int) : DWord :=
  BitVec.ofNat 64 (p.toNat / 2 ^ 56 * 2 ^ 56 + toBits 56 ((ptrOff p : Int) + d))

/-- A pointer from its fields. -/
def mkPtr (space rank off : Nat) : DWord := BitVec.ofNat 64 (space * 2 ^ 60 + rank * 2 ^ 56 + off % 2 ^ 56)

-- Bank permutation (R18, R19).

/-- The ModeTable: the operation (0 none, 1 XOR, 2 ADD, 3 REV), W and s. -/
def modeTable (mode : Nat) : Nat × Nat × Nat :=
  match mode with
  | 1 => (1, 3, 0) | 2 => (1, 3, 1) | 3 => (1, 3, 3) | 4 => (2, 3, 0)
  | 5 => (1, 4, 0) | 6 => (1, 4, 1) | 7 => (1, 4, 2) | 8 => (2, 4, 0)
  | 9 => (1, 5, 0) | 10 => (1, 5, 1) | 11 => (1, 5, 2) | 12 => (1, 5, 3)
  | 13 => (2, 5, 0) | 14 => (2, 5, 1) | 15 => (3, 5, 0)
  | _ => (0, 0, 0)

/-- PermuteBank (R18). -/
def permuteBank (n row mode : Nat) : Nat :=
  let (op, w, sh) := modeTable mode
  let m := 2 ^ w
  let lo := n % m
  let hi := n - lo
  match op with
  | 0 => n
  | 1 => hi + (lo ^^^ (row / 2 ^ sh % m))
  | 2 => hi + (lo + row / 2 ^ sh) % m
  | _ => hi + (lo ^^^ reverseBits 5 row)

/-- A mode an owner of nb AB banks may use (R19). -/
def modeOk (nb mode : Nat) : Bool :=
  match (modeTable mode).2.1 with
  | 4 => nb % 16 == 0
  | 5 => nb == 32
  | _ => true

/-- The place of an AB address of an owner's quadrants under a mode (R14, R18): the owner's banks are those of its
quadrants, eight each, in ascending order (R372). -/
def abKey (owned : List Nat) (core a mode : Nat) : Nat :=
  let nb := 8 * owned.length
  let w := a / 16
  let n' := permuteBank (w % nb) (w / nb) mode
  abPlace core (owned.getD (n' / 8) 0 * 8 + n' % 8) (w / nb) (a % 16)

/-- The place of a WB address: the owner's quadrants hold 256 KiB each, in ascending order (R14). -/
def wbKey (owned : List Nat) (core a : Nat) : Nat := wbPlace core (owned.getD (a / 2 ^ 18) 0 * 2 ^ 18 + a % 2 ^ 18)

/-- The physical CB bank of an owner's logical bank (R14). -/
def physBank (owned : List Nat) (k : Nat) : Nat := owned.getD (k / 4) 0 * 4 + k % 4

/-- The place of a CB container (R21). -/
def cbKey (owned : List Nat) (core a : Nat) : Nat :=
  cbPlace core (physBank owned (a / 0x10000)) (a % 0x10000 / 0x400) (a % 0x400 / 8)

/-- The member, and the member-local AB address, of a CLS offset (R29). -/
def clsHome (b : Block) (x : Nat) : Nat × Nat :=
  let m := b.cores.length
  (x / 128 % m, b.cbase + 128 * (x / 128 / m) + x % 128)

/-- The AB size of an owner of q quadrants (R14). -/
def abSize (q : Nat) : Nat := q * 2 ^ 19

/-- The AB limit of a grid's blocks where the owner holds q quadrants (R30). -/
def GridDesc.abLimit (d : GridDesc) (q : Nat) : Nat := if d.ablim == 0 then abSize q / 2 else d.ablim * 2 ^ 16

/-- The contributions that resident blocks of the site's function hold on a core (R28, R30): base and length. -/
def State.contribs (s : State) (fn core : Nat) : List (Nat × Nat) :=
  s.blocks.filterMap fun b =>
    if b.cores.contains core && b.pre != .swapped then
      (s.grid? b.grid).bind fun g =>
        if g.desc.c != 0 && s.ctxFn g.ctx == fn then some (b.cbase, g.desc.c * 2 ^ 16) else none
    else none

/-- The C of a block (R28). -/
def Site.clsSize (x : Site) : Nat := x.blk.cores.length * (x.grid.desc.c * 2 ^ 16)

/-- The table of R15: whether a class may read, and write, a space. -/
def permitted (e : Eng) (sp : Nat) : Bool × Bool :=
  match e, sp with
  | .lsu, 7 => (true, false)
  | .lsu, _ => (true, true)
  | .ctl, 2 => (true, false)
  | .ctl, 3 => (true, false)
  | .ctl, 6 => (false, false)
  | .ctl, 7 => (true, false)
  | .ctl, _ => (true, true)
  | .ce, 3 => (true, false)
  | .ce, 6 => (false, false)
  | .ce, 7 => (true, false)
  | .ce, _ => (true, true)
  | .mxs, 2 => (true, false)
  | .mxs, _ => (false, false)
  | .mxa, 1 => (true, false)
  | .mxa, 4 => (true, false)
  | .mxa, _ => (false, false)
  | .mxc, 1 => (false, true)
  | .mxc, 3 => (true, true)
  | .mxc, 4 => (false, true)
  | .mxc, _ => (false, false)
  | .rfl, sp => (sp ≤ 4, sp ≤ 4)
  | .map, 0 => (true, true)
  | .map, 1 => (true, true)
  | .map, 4 => (true, true)
  | .map, _ => (false, false)

/-- Classes that reach every member's buffers (R16). -/
def Eng.anyMember : Eng → Bool
  | .lsu => true
  | .ctl => true
  | .ce => true
  | _ => false

/-- Whether a mode is permitted in an AB of a member or, for CLS, in that of every member (R19): a byte's bank is chosen
among the banks that the owner holds where the byte lies (log 79). -/
def State.modeFits (s : State) (x : Site) (sp rk mode : Nat) : Bool :=
  let fits (r : Nat) : Bool := modeOk (8 * s.ownQ x (x.blk.coreOf r)) mode
  mode == 0 || (sp == 1 && fits rk) || (sp == 4 && (List.range x.blk.cores.length).all fits)

/-- The quadrants whose buffers bound an access to a member: the issuing core's owner's, or the target's where it holds fewer
(R9, R14; log 79). -/
def State.reachQ (s : State) (x : Site) (rk : Nat) : Nat := min (s.ownQ x x.core) (s.ownQ x (x.blk.coreOf rk))

/-- RankIllegal, MustBeZeroSet and AddressBeyondLimit of R9, R13, R14 and the mode rule of R19: the faults SPACE_FAULT. -/
def State.spaceFault (s : State) (x : Site) (p : DWord) : Bool :=
  let rk := ptrRank p
  let off := ptrOff p
  let m := x.blk.cores.length
  match ptrSpace p with
  | 0 => rk != 0
  | 1 =>
    decide (m ≤ rk) || off / 2 ^ 32 != 0 || bitsOf off 27 21 != 0 || decide (abSize (s.reachQ x rk) ≤ off % 2 ^ 21) ||
      !s.modeFits x 1 rk (ptrMode p)
  | 2 => decide (m ≤ rk) || off / 2 ^ 20 != 0 || decide (s.reachQ x rk * 2 ^ 18 ≤ off)
  | 3 => decide (m ≤ rk) || off / 2 ^ 20 != 0 || decide (s.reachQ x rk * 2 ^ 18 ≤ off)
  | 4 =>
    rk != 0 || off / 2 ^ 32 != 0 || bitsOf off 27 24 != 0 || decide (x.clsSize ≤ off % 2 ^ 24) ||
      !s.modeFits x 4 0 (ptrMode p)
  | 5 => decide (4 ≤ rk) || off / 2 ^ 22 != 0
  | 6 => rk != 0 || off / 2 ^ 16 != 0 || x.blk.priv.isNone
  | 7 => rk != 0 || off / 2 ^ 17 != 0 || decide (0x11000 ≤ off)
  | _ => true

/-- A valid grant entry that names a context (R89). -/
def grantNames (ctx : Nat) (e : DWord) : Bool :=
  let base := bitsOf e.toNat 9 0
  let size := bitsOf e.toNat 20 10
  bitOf e.toNat 63 && size != 0 && decide (512 ≤ base) && decide (base + size ≤ 1023) && bitsOf e.toNat 56 45 == ctx

/-- A valid entry of a die's grant table that names a context with the rights an access needs (R89). -/
def grantHas (ctx : Nat) (op : Acc) (e : DWord) : Bool :=
  grantNames ctx e &&
    (match op with
     | .read => bitOf e.toNat 57
     | .write => bitOf e.toNat 58
     | .atomic => bitOf e.toNat 59)

/-- Whether grants of a die that have some property cover [off, off + n) (R89). -/
def grantsCover (has : DWord → Bool) (t : List (Nat × DWord)) : Nat → Nat → Nat → Bool
  | _, _, 0 => true
  | 0, _, _ => false
  | fuel + 1, off, n =>
    match t.find? fun e => has e.2 && decide (bitsOf e.2.toNat 9 0 * 4096 ≤ off) &&
        decide (off < (bitsOf e.2.toNat 9 0 + bitsOf e.2.toNat 20 10) * 4096) with
    | none => false
    | some e =>
      let last := (bitsOf e.2.toNat 9 0 + bitsOf e.2.toNat 20 10) * 4096
      if off + n ≤ last then true else grantsCover has t fuel last (off + n - last)

def State.granted (s : State) (ctx die : Nat) (op : Acc) (off n : Nat) : Bool :=
  grantsCover (grantHas ctx op) (s.dieHw die).mbxg 65 off n

/-- The region of a block that holds a local address, and the granule (R31). -/
def regionAt (b : Block) (space rank off : Nat) : Option (Nat × Nat) :=
  match indexWhere b.regions fun r =>
      r.space == space && (space == 4 || r.rank == rank) && decide (r.base ≤ off) && decide (off < r.base + r.len) with
  | none => none
  | some i => (b.regions[i]?).map fun r => (i, (off - r.base) / 128)

/-- The region granule of an access. -/
def regionOf (b : Block) (p : DWord) : Option (Nat × Nat) :=
  match ptrSpace p with
  | 1 => regionAt b 1 (ptrRank p) (ptrOff p % 2 ^ 21)
  | 4 => regionAt b 4 0 (ptrOff p % 2 ^ 24)
  | _ => none

def Block.granule? (b : Block) (r g : Nat) : Option Granule := (b.regions[r]?).bind fun x => x.grans[g]?
def Block.modGranule (b : Block) (r g : Nat) (f : Granule → Granule) : Block :=
  { b with regions := modAt b.regions r fun x => { x with grans := modAt x.grans g f } }
def State.modGranule (s : State) (b r g : Nat) (f : Granule → Granule) : State := s.modBlock b (·.modGranule r g f)

/-- Whether an access would store to an RO region (R33), which faults ACCESS_CLASS once the granule is filled. -/
def roStore (b : Block) (op : Acc) (p : DWord) : Bool :=
  op.writes &&
    match regionOf b p with
    | none => false
    | some (r, _) => ((b.regions[r]?).map fun x => x.mode == 2).getD false

/-- The last ACCESS_CLASS checks of R10: contributions, the AB limit, CB allocation, mailbox grants. Where the descriptor
leaves the limit to S, it is the issuing core's, as in R9 (log 79). -/
def State.classFault (s : State) (x : Site) (op : Acc) (p : DWord) (n : Nat) : Bool :=
  let off := ptrOff p
  let rk := ptrRank p
  match ptrSpace p with
  | 1 =>
    let a := off % 2 ^ 21
    ((s.contribs (s.ctxFn x.ctx) (x.blk.coreOf rk)).any fun c => decide (c.1 ≤ a) && decide (a < c.1 + c.2)) ||
      decide (x.grid.desc.abLimit (s.ownQ x x.core) ≤ a)
  | 3 => !x.blk.cb.contains (rk, off / 0x10000)
  | 5 => !s.granted x.ctx rk op off n
  | _ => false

/-- The right CheckLease looks for (R56). -/
def Acc.right : Acc → Right
  | .read => .r
  | .write => .w
  | .atomic => .a

/-- CheckAccess (R10) as a read or as a write of an access that needs the right of `op`: the first failing check, none when the
access passes. -/
def State.checkAs (s : State) (x : Site) (e : Eng) (write : Bool) (op : Acc) (p : DWord) (n : Nat) : Option Cause :=
  let sp := ptrSpace p
  let (pr, pw) := permitted e sp
  if s.spaceFault x p then some .spaceFault
  else if (if write then !pw else !pr) then some .accessClass
  else if !e.anyMember && (sp == 1 || sp == 2 || sp == 3) && ptrRank p != x.rank then some .accessClass
  else if s.classFault x op p n then some .accessClass
  else if (sp == 3 && decide (n < 8)) || ptrOff p % 16 % n != 0 then some .alignment
  else if sp == 0 && !x.grid.leased op.right (ptrOff p) n then some .leaseViolation
  else none

/-- The checks of an access: an atomic's are those of a read and then those of a write (R235), also for a 4-byte SATOM on CB,
of which R236 says otherwise (DESIGN CHOICE, log 102). -/
def State.checkAccess (s : State) (x : Site) (e : Eng) (op : Acc) (p : DWord) (n : Nat) : Option Cause :=
  match op with
  | .read => s.checkAs x e false op p n
  | .write => s.checkAs x e true op p n
  | .atomic => (s.checkAs x e false op p n).orElse fun _ => s.checkAs x e true op p n

-- Places.

/-- A thread's PRIV window within its block's backing (R25): 64 KiB each, in group and lane order (log 10). -/
def privVa (x : Site) (g lane off : Nat) : Nat := x.blk.priv.getD 0 + (g * 32 + lane) * 2 ^ 16 + off

/-- The place of a GLOBAL or PRIV address that passed its checks; LEASE_VIOLATION where translation fails (R57, R376). -/
def State.globPlace (s : State) (x : Site) (va : Nat) (priv : Bool) : State × Except Cause Place :=
  let (s1, t) := s.translate x.core x.ctx va
  match t with
  | .ok leaf _ bits =>
    let pa := leafPa leaf bits va
    match pteMt leaf with
    | 0 => (s1, .ok (.glob (copyPa leaf x.die pa) (if pteRmask leaf == 0 then [] else allCopies leaf pa) 0 priv))
    | 1 => if s1.hostAbsent pa then (s1, .error .leaseViolation) else (s1, .ok (.glob (hostPlace pa) [] 1 priv))
    | _ => (s1, .ok (.peer (peerPlace pa)))
  | _ => (s1, .error .leaseViolation)

/-- The place of an access whose checks passed. `lane` is the group and lane a PRIV access belongs to. -/
def State.place (s : State) (x : Site) (lane : Nat × Nat) (p : DWord) : State × Except Cause Place :=
  let off := ptrOff p
  let fn := s.ctxFn x.ctx
  match ptrSpace p with
  | 0 => s.globPlace x off false
  | 1 =>
    let c := x.blk.coreOf (ptrRank p)
    (s, .ok (.buf (abKey (s.ownedQuads c fn) c (off % 2 ^ 21) (ptrMode p))))
  | 2 =>
    let c := x.blk.coreOf (ptrRank p)
    (s, .ok (.buf (wbKey (s.ownedQuads c fn) c (off % 2 ^ 20))))
  | 3 =>
    let c := x.blk.coreOf (ptrRank p)
    (s, .ok (.cell (cbKey (s.ownedQuads c fn) c (off % 2 ^ 20))))
  | 4 =>
    let (o, a) := clsHome x.blk (off % 2 ^ 24)
    let c := x.blk.coreOf o
    (s, .ok (.buf (abKey (s.ownedQuads c fn) c a (ptrMode p))))
  | 5 => (s, .ok (.buf (mbxPlace (ptrRank p) off)))
  | 6 => s.globPlace x (privVa x lane.1 lane.2 (off % 2 ^ 16)) true
  | _ => (s, .ok (.konst off))

-- Region granules under an access.

/-- What touching a granule does (R33): nothing to wait for, or a fill to wait for. -/
def State.touch (s : State) (x : Site) (p : DWord) : State × Option (Nat × Nat) :=
  match (s.block? x.blk.id).bind fun b => (regionOf b p).bind fun rg => (b.granule? rg.1 rg.2).map fun g => (rg, g) with
  | none => (s, none)
  | some ((r, g), gr) =>
    match gr.st with
    | .invalid => (s.modGranule x.blk.id r g fun y => { y with st := .filling }, some (r, g))
    | .filling => (s, some (r, g))
    | _ => (s, none)

/-- The dirty masks a store of a member adds to a granule of a WB region (R33). -/
def State.dirty (s : State) (x : Site) (p : DWord) (n : Nat) : State :=
  match (s.block? x.blk.id).bind fun b => (regionOf b p).bind fun rg => (b.regions[rg.1]?).map fun r => (rg, r) with
  | none => s
  | some ((r, g), reg) =>
    if reg.mode != 1 then s
    else
      let off := if reg.space == 1 then ptrOff p % 2 ^ 21 else ptrOff p % 2 ^ 24
      let lo := (off - reg.base) % 128
      s.modGranule x.blk.id r g fun y =>
        { y with st := if y.st == .clean then .dirty else y.st,
                 mask := y.mask ||| BitVec.ofNat 128 ((2 ^ n - 1) * 2 ^ lo),
                 dirtier := y.dirtier ||| BitVec.ofNat 12 (2 ^ x.rank) }

/-- What reading a place gives: the bytes, or the fault it takes. -/
inductive Got where
  | ok (bs : List Byte)
  | bad (c : Cause)

/-- A CB container as 8 bytes: the cell's 40 bits, zeros above (R21). -/
def State.readCell (s : State) (k : Nat) : List Byte := s.readMem k 5 ++ [0, 0, 0]

/-- The byte at a CONST offset, none beyond what the grid declares, which reads as zero (R26, R314). -/
def constVa (g : Grid) (off : Nat) : Option Nat :=
  if off < 0x10000 then (if g.desc.constPtr == 0 then none else some (g.desc.constPtr % 2 ^ 56 + off))
  else if off - 0x10000 < g.desc.argLen then some (g.desc.argPtr % 2 ^ 56 + (off - 0x10000)) else none

/-- What keeps an access from a peer (R380): its port is down, or the peer rejects it. -/
def State.peerFault (s : State) (op : Acc) (k : Nat) : Option Cause :=
  if s.portsDown.contains (peerPort k) then some .engineFault
  else if s.peerDenied op k then some .accessClass
  else none

/-- n bytes of a peer (R126, R380). -/
def State.peerRead (s : State) (k n : Nat) : Except Cause (List Byte) :=
  match s.peerFault .read k with
  | some c => .error c
  | none => .ok (s.readMem k n)

/-- n CONST bytes from an offset on (R26); those of a PEER page are the peer's, uncached (R70). -/
def State.readConst (s : State) (x : Site) : Nat → Nat → State × Except Cause (List Byte)
  | _, 0 => (s, .ok [])
  | off, n + 1 =>
    match s.readConst x off n with
    | (s1, .error c) => (s1, .error c)
    | (s1, .ok bs) =>
      match constVa x.grid (off + n) with
      | none => (s1, .ok (bs ++ [0]))
      | some va =>
        match s1.globPlace x va false with
        | (s2, .ok (.glob k _ _ _)) =>
          match s2.readG x none { const := true } k 1 with
          | (s3, b, bad) => if bad then (s3, .error .engineFault) else (s3, .ok (bs ++ b))
        | (s2, .ok (.peer k)) =>
          match s2.peerRead k 1 with
          | .ok b => (s2.tick, .ok (bs ++ b))
          | .error c => (s2, .error c)
        | (s2, .ok _) => (s2, .error .leaseViolation)
        | (s2, .error c) => (s2, .error c)

/-- A read of n bytes at a place in a domain's view (R121, R125, R126, R83). -/
def State.readPlace (s : State) (x : Site) (tag : Option ThreadRef) (m : LoadMarks) (p : Place) (n : Nat) :
    State × Got :=
  match p with
  | .buf k => if s.poisoned k n then (s, .bad .engineFault) else (s.tick, .ok (s.readMem k n))
  | .cell k =>
    if s.poisoned k 5 || (n == 16 && s.poisoned (k + 8) 5) then (s, .bad .engineFault)
    else (s.tick, .ok (if n == 16 then s.readCell k ++ s.readCell (k + 8) else s.readCell k))
  | .glob k _ mt priv =>
    let m' : LoadMarks := { m with priv := priv }
    let (s1, bs, bad) := s.readG x (if mt == 0 && !priv then tag else none) m' k n
    if bad then (s, .bad .engineFault) else (s1, .ok bs)
  | .peer k =>
    match s.peerRead k n with
    | .ok bs => (s.tick, .ok bs)
    | .error c => (s, .bad c)
  | .konst off =>
    match s.readConst x off n with
    | (s1, .ok bs) => (s1, .ok bs)
    | (s1, .error c) => (s1, .bad c)

/-- What becomes of a store. -/
inductive Put where
  | ok
  | bad (c : Cause)

/-- A store at a place (R82, R120, R125, R126): performed, pending, or held in the task's version. -/
def State.writePlace (s : State) (x : Site) (tag : Option ThreadRef) (mcst : Bool) (m : LoadMarks) (p : Place) (bs : List Byte) :
    State × Put :=
  match p with
  | .buf k => ((s.writeMem k bs).tick, .ok)
  | .cell k =>
    let s1 := s.writeMem k (bs.take 5)
    ((if bs.length == 16 then s1.writeMem (k + 8) ((bs.drop 8).take 5) else s1).tick, .ok)
  | .glob k copies mt priv =>
    match (if priv then none else tag) with
    | some t =>
      let ks := if mcst && !copies.isEmpty then copies else [k]
      if mt != 0 then (s, .bad .versionOverflow)
      else if ks.all (s.versRoom t) then ((ks.foldl (fun s k => s.versPut x.ctx t k bs) s).tick, .ok)
      else (s, .bad .versionOverflow)
    | none => (s.writeG x (if mcst then copies else []) { m with priv := priv } k bs, .ok)
  | .peer k =>
    match tag with
    | some _ => (s, .bad .versionOverflow)
    | none =>
      if s.portsDown.contains (peerPort k) || s.peerDenied .write k then (s.peerDrop (s.ctxFn x.ctx) k, .ok)
      else ((s.writeMem k bs).tick, .ok)
  | .konst _ => (s, .bad .accessClass)

-- Atomics.

/-- The value an atomic writes, none where CAS writes nothing (R234). -/
def atomValue (f width old data swap : Nat) : Option Nat :=
  let bits := 8 * width
  match f with
  | 0 => some ((old + data) % 2 ^ bits)
  | 1 => some (if sext bits old ≤ sext bits data then old else data)
  | 2 => some (if sext bits old ≤ sext bits data then data else old)
  | 3 => some (old &&& data)
  | 4 => some (old ||| data)
  | 5 => some (old ^^^ data)
  | 6 => some data
  | _ => if old == data then some swap else none

/-- The 16-byte unit of a place. -/
def unitOf (k : Nat) : Nat := k / 16

/-- An atomic at a place: the old value (R235, R236). For class G the domain's pending bytes in the unit are written
first, then what its context has waiting there, the issuing core's line is dropped (R74), and a host line belongs to the
issuing cluster's L2 (R70). -/
def State.atomPlace (s : State) (x : Site) (p : Place) (f width data swap : Nat) : State × Except Cause Nat :=
  match p with
  | .cell k =>
    if s.poisoned k 5 then (s, .error .engineFault)
    else
      let old := toBits 64 (sext 40 (ofBytes (s.readMem k 5)))
      match atomValue f 8 old data swap with
      | some v => ((s.writeMem k (toBytes 5 v)).tick, .ok old)
      | none => (s.tick, .ok old)
  | .buf k =>
    if s.poisoned k width then (s, .error .engineFault)
    else
      let old := ofBytes (s.readMem k width)
      match atomValue f width old data swap with
      | some v => ((s.writeMem k (toBytes width v)).tick, .ok old)
      | none => (s.tick, .ok old)
  | .glob k _ _ _ =>
    let s0 := s.publish x.blk.id x.rank x.core fun j => unitOf j == unitOf k
    let s1 := s0.settleStores fun e => e.ctx == x.ctx && e.overlaps k width
    if s1.poisoned k width then (s1, .error .engineFault)
    else
      let old := ofBytes (s1.readMem k width)
      let s2 := match atomValue f width old data swap with
        | some v => s1.homeWrite k (toBytes width v)
        | none => s1
      let s3 := if isHbm k then s2.llcUse x.ctx (k / 128) true none false none else s2.l2Own x.core (k / 128)
      ((s3.dropLines x.core (· == k / 128)).tick, .ok old)
  | .peer k =>
    match s.peerFault .atomic k with
    | some c => (s, .error c)
    | none =>
      let old := ofBytes (s.readMem k width)
      match atomValue f width old data swap with
      | some v => ((s.writeMem k (toBytes width v)).tick, .ok old)
      | none => (s.tick, .ok old)
  | .konst _ => (s, .error .accessClass)

-- Engine accesses, at the home (R121, R130).

/-- CONST bytes at their home (R26, R121). -/
def State.homeConst (s : State) (x : Site) : Nat → Nat → State × Got
  | _, 0 => (s, .ok [])
  | off, n + 1 =>
    match s.homeConst x off n with
    | (s1, .bad c) => (s1, .bad c)
    | (s1, .ok bs) =>
      match constVa x.grid (off + n) with
      | none => (s1, .ok (bs ++ [0]))
      | some va =>
        match s1.globPlace x va false with
        | (s2, .ok (.glob k _ _ _)) => if s2.poisoned k 1 then (s2, .bad .engineFault) else (s2, .ok (bs ++ s2.readMem k 1))
        | (s2, .ok (.peer k)) =>
          match s2.peerRead k 1 with
          | .ok b => (s2, .ok (bs ++ b))
          | .error c => (s2, .bad c)
        | (s2, .ok _) => (s2, .bad .leaseViolation)
        | (s2, .error c) => (s2, .bad c)

/-- An engine's read of n bytes at a place, at its home, after the fork flush of the issuing domain (R130). -/
def State.engRead (s : State) (x : Site) (p : Place) (n : Nat) : State × Got :=
  match p with
  | .glob k _ _ _ =>
    let s1 := s.settleStores fun e => e.dom == some x.dom
    if s1.poisoned k n then (s1, .bad .engineFault) else ((s1.homeServed k n x.ctx).tick, .ok (s1.readMem k n))
  | _ => s.readPlace x none {} p n

/-- An engine's write at a place, at its home: published at its instant, never pending (R130). -/
def State.engWrite (s : State) (x : Site) (p : Place) (bs : List Byte) : State × Put :=
  match p with
  | .glob k _ _ _ =>
    let s1 := s.settleStores fun e => e.ctx == x.ctx && e.overlaps k bs.length
    (((s1.homeWrite k bs).llcUse x.ctx (k / 128) true none false none).tick, .ok)
  | .peer k =>
    match s.peerFault .write k with
    | some c => (s, .bad c)
    | none => ((s.writeMem k bs).tick, .ok)
  | _ => s.writePlace x none false {} p bs

end Sys2Proof.Machine
end

