-- ==== Sys2Proof/Machine/Order.lean ====
section
/-!
DEFINITION. The order of one thread's accesses (05_consistency.md R118, R119, R125 to R130, R132; 03_caches_versions_mailbox.md
R78): stores that wait in the write queues, loads whose bytes were read ahead of their turn, loads and atomics that take effect
after their turn, accesses whose thread has gone on with foretold bytes, and what the ordering events require of them. Nothing
waits, is read ahead, foretold or late unless the agenda has it so (log 76).
-/
namespace Sys2Proof.Machine

-- Whose access.

/-- Whether two agents share a thread. -/
def agentsMeet (a b : Agent) : Bool :=
  match a, b with
  | .frag x g m, .frag y h n => x == y && g == h && (m &&& n) != 0
  | .ctl x r q, .ctl y t u => x == y && r == t && q == u
  | _, _ => false

/-- Whether two agents share their uniform state. -/
def sameUni (a b : Agent) : Bool :=
  match a, b with
  | .frag x g _, .frag y h _ => x == y && g == h
  | .ctl x r q, .ctl y t u => x == y && r == t && q == u
  | _, _ => false

/-- Whether an agent's threads belong to a block. -/
def agentInBlock (a : Agent) (b : Nat) : Bool :=
  match a with
  | .frag x _ _ => x == b
  | .ctl x _ _ => x == b
  | .none => false

/-- The agent that an issuer is. -/
def Who.agent (w : Who) : Agent :=
  match w.grp, w.ctl with
  | some g, _ => .frag w.blk.id g.num (maskOf w.lanes)
  | none, some c => .ctl w.blk.id c.rank c.quad
  | none, none => .none

/-- An agent without the threads it shares with another; none where nothing is left. -/
def agentLess (a b : Agent) : Option Agent :=
  match a, b with
  | .frag x g m, .frag y h n =>
    if x == y && g == h then (if m &&& ~~~n == 0 then none else some (.frag x g (m &&& ~~~n))) else some a
  | _, _ => if agentsMeet a b then none else some a

/-- Some lanes of the issuing fragment. -/
def Who.laneAgent (w : Who) (g : Group) (ls : List Nat) : Agent := .frag w.blk.id g.num (maskOf ls)

-- Places.

/-- Where an access of class B, D or P takes effect; none for class G and K. -/
def Place.queued : Place → Option Nat
  | .buf k => some k
  | .cell k => some k
  | .peer k => some k
  | .glob _ _ _ _ => none
  | .konst _ => none

/-- Where an access takes effect; none for class K. -/
def Place.key : Place → Option Nat
  | .buf k => some k
  | .cell k => some k
  | .peer k => some k
  | .glob k _ _ _ => some k
  | .konst _ => none

-- Late accesses.

/-- Whether a late access names a byte of [k, k + n). -/
def LateAcc.overlaps (l : LateAcc) (k n : Nat) : Bool :=
  match l.place.key with
  | some j => decide (j < k + n) && decide (k < j + l.n)
  | none => false

/-- Whether a late access may not pass an earlier one: of one thread, or of one instruction, to one location (R118). -/
def LateAcc.behind (l f : LateAcc) : Bool :=
  (agentsMeet l.owner f.owner || (sameUni l.owner f.owner && l.issue == f.issue)) &&
    match l.place.key with
    | some k => f.overlaps k l.n
    | none => false

/-- The class of a late access (R116). -/
def LateAcc.cls (l : LateAcc) : Nat := (l.place.key.map placeCls).getD clsG

/-- Whether a fence that orders the classes `cs` names a late access: every atomic lies in the scopes DEV and SYS (R127). -/
def LateAcc.within (l : LateAcc) (cs : Nat → Bool) : Bool :=
  cs l.cls ||
    match l.kind with
    | .atom _ _ _ => cs clsD
    | .load _ _ _ => false
    | .store _ _ _ => false

/-- Whether a late access has registers still to write. -/
def LateAcc.writes (l : LateAcc) : Bool :=
  l.told.isNone &&
    match l.kind with
    | .store _ _ _ => false
    | _ => true

/-- The site of a late access, while its block stands. -/
def State.lateSite (s : State) (l : LateAcc) : Option Site :=
  (s.block? l.block).bind fun b => (s.grid? b.grid).map fun g => ⟨b, g, l.rank, l.quad, b.coreOf l.rank⟩

/-- The words that n loaded bytes fill (R228): bytes and halves are extended. -/
def loadWords (n : Nat) (signed : Bool) (bs : List Byte) : List Word :=
  if n < 4 then [BitVec.ofNat 32 (if signed then toBits 32 (sext (8 * n) (ofBytes bs)) else ofBytes bs)]
  else (List.range (n / 4)).map fun i => BitVec.ofNat 32 (ofBytes ((bs.drop (4 * i)).take 4))

/-- The words that an atomic's old value fills. -/
def oldWords (n old : Nat) : List Word := if n == 8 then pairWords (BitVec.ofNat 64 old) else [BitVec.ofNat 32 old]

/-- The dirty masks an atomic adds (R33): none where a CAS wrote nothing. -/
def State.atomDirty (s : State) (x : Site) (p : DWord) (n f old data : Nat) : State :=
  if f == 7 && old != data then s else s.dirty x p n

/-- A late access's result in its destination registers. -/
def State.putLate (s : State) (l : LateAcc) (ws : List Word) : State :=
  match l.owner with
  | .frag b g m =>
    if l.uni then
      match ({ s with cur := l.owner } : State).who with
      | some w =>
        ((s.cleanUni w l.d ws.length).modUni w (·.sset l.d ws)).chainSees b g l.d ws.length fun c => decide (l.issue < c.cycle)
      | none => s
    else (lanesOf m).foldl (fun (s : State) i => s.applyWrites b g (vwrites i l.d ws) []) s
  | .ctl _ _ _ =>
    match ({ s with cur := l.owner } : State).who with
    | some w => (s.cleanUni w l.d ws.length).modUni w (·.sset l.d ws)
    | none => s
  | .none => s

/-- The fault that a late access meets only when it takes effect: it is its threads' at the instruction at which they stand. -/
def State.lateFault (s : State) (l : LateAcc) (c : Cause) : State :=
  match ({ s with cur := l.owner } : State).who with
  | some w => s.faultAll w c l.ptr w.pc
  | none => s

/-- The agenda has named no execution of R117. -/
def State.noExecution (s : State) : State := { s with wq := { s.wq with void := true } }

/-- What a late access comes to: its words in its registers, or, where its thread went on with foretold bytes, the test of
these. -/
def State.endLate (s : State) (l : LateAcc) (bs : List Byte) (ws : List Word) : State :=
  match l.told with
  | none => s.putLate l ws
  | some e => if e == bs then s else s.noExecution

/-- A late access that finds a fault. -/
def State.badLate (s : State) (l : LateAcc) (c : Cause) : State :=
  if l.told.isSome then s.noExecution else s.lateFault l c

/-- A late access takes effect. -/
def State.performLate (s : State) (l : LateAcc) : State :=
  match s.lateSite l with
  | none => s
  | some x =>
    match l.kind with
    | .load m tag signed =>
      match s.readPlace x tag m l.place l.n with
      | (s1, .ok bs) => s1.endLate l bs (loadWords l.n signed bs)
      | (s1, .bad c) => s1.badLate l c
    | .atom f data swap =>
      match s.atomPlace x l.place f l.n data swap with
      | (s1, .ok old) => (s1.atomDirty x l.ptr l.n f old data).endLate l (toBytes l.n old) (oldWords l.n old)
      | (s1, .error c) => s1.badLate l c
    | .store m mcst bs =>
      match s.writePlace x none mcst m l.place bs with
      | (s1, .ok) => s1
      | (s1, .bad c) => s1.badLate l c

/-- The late accesses of a list that p names, with those that they may not pass, and the others. -/
def dueLate (p : LateAcc → Bool) (ls : List LateAcc) : List LateAcc × List LateAcc :=
  ls.foldr (fun l r => if p l || r.1.any (·.behind l) then (l :: r.1, r.2) else (r.1, l :: r.2)) ([], [])

/-- The late accesses that p names take effect. -/
def State.settleLate (s : State) (p : LateAcc → Bool) : State :=
  if s.wq.late.any p then
    let r := dueLate p s.wq.late
    r.1.foldl State.performLate { s with wq := { s.wq with late := r.2 } }
  else s

/-- One late access takes effect ahead of others. -/
def State.lateAt (s : State) (i : Nat) : State :=
  match s.wq.late[i]? with
  | none => s
  | some l =>
    if (s.wq.late.take i).any l.behind then s
    else { s with wq := { s.wq with late := s.wq.late.eraseIdx i } }.performLate l

/-- The threads' own late accesses to a location take effect: what follows them in program order names it again (R118). -/
def State.lateFirst (s : State) (a : Agent) (k n : Nat) : State := s.settleLate fun l => agentsMeet l.owner a && l.overlaps k n

-- Loads read ahead.

/-- The loads read ahead that p names forgotten. -/
def State.forgetLoads (s : State) (p : EarlyLoad → Bool) : State :=
  if s.wq.loads.any p then { s with wq := { s.wq with loads := s.wq.loads.filter fun l => !p l } } else s

/-- Whether a load read ahead is one of an agent's, of a byte of [k, k + n). -/
def EarlyLoad.clash (l : EarlyLoad) (a : Agent) (k n : Nat) : Bool :=
  agentsMeet l.owner a && decide (l.key < k + n) && decide (k < l.key + l.bytes.length)

-- Accesses.

/-- The bytes a load of `a` takes: those read ahead for it, or those that stand there. Neither its threads' own waiting stores
to the location nor their later loads of it, of `later`, may come after (R118). -/
def State.readBy (s : State) (x : Site) (a later : Agent) (plain : Bool) (tag : Option ThreadRef) (m : LoadMarks)
    (p : Place) (n : Nat) : State × Got :=
  match p.queued with
  | none =>
    match p.key with
    | some k => (s.lateFirst a k n).readPlace x tag m p n
    | none => s.readPlace x tag m p n
  | some k =>
    let s1 := (s.lateFirst a k n).settleStores fun e => agentsMeet e.owner a && e.overlaps k n
    match s1.wq.loads.find? fun l => plain && !l.told && l.owner == a && l.key == k && l.bytes.length == n with
    | some l => (s1.forgetLoads (·.clash later k n), .ok l.bytes)
    | none =>
      let (s2, g) := s1.readPlace x tag m p n
      (s2.forgetLoads (·.clash later k n), g)

/-- Whether a load or atomic is to take effect late: the agenda has it so, it is no chain's, and no byte of CONST. -/
def State.mayLate (s : State) (w : Who) (p : Place) : Bool := s.wq.slow && w.chain.isNone && p.key.isSome

/-- A late access of an issuer: the agent whose it is, its pointer, place, width and destination. -/
def Who.lateAcc (w : Who) (a : Agent) (uni : Bool) (now : Nat) (ptr : DWord) (p : Place) (n d : Nat) (k : LateKind)
    (told : Option (List Byte) := none) : LateAcc :=
  ⟨a, uni, now, w.pc, w.blk.id, w.rank, w.quad, ptr, p, n, d, k, told⟩

/-- An access that takes effect late, after its threads' own earlier accesses to the location and after no load of it, of `later`,
that was read ahead. -/
def State.addLate (s : State) (later : Agent) (l : LateAcc) : State :=
  match l.place.key with
  | none => s
  | some k =>
    let s1 := ((s.lateFirst l.owner k l.n).settleStores fun e => agentsMeet e.owner l.owner && e.overlaps k l.n).forgetLoads
      (·.clash later k l.n)
    { s1 with wq := { s1.wq with late := s1.wq.late ++ [l] } }

/-- The bytes foretold of an agent's access to a place, which is in no region: it goes on with them, and takes effect later. -/
def State.foretold (s : State) (a : Agent) (plain : Bool) (p : Place) (n : Nat) : Option (List Byte) :=
  if !plain then none
  else
    p.key.bind fun k => (s.wq.loads.find? fun l => l.told && l.owner == a && l.key == k && l.bytes.length == n).map (·.bytes)

/-- Whether a store is to take its local instant late (R118): of class G, and of no version. -/
def State.storeLate (s : State) (tag : Option ThreadRef) (p : Place) : Bool :=
  s.wq.slow &&
    match p with
    | .glob _ _ _ priv => priv || tag.isNone
    | _ => false

/-- The bytes a store writes, at their places: a container's cells (R21), or the bytes as they are. -/
def Place.stored (p : Place) (k : Nat) (bs : List Byte) : List (Nat × List Byte) :=
  match p with
  | .cell _ => (k, bs.take 5) :: (if bs.length == 16 then [(k + 8, (bs.drop 8).take 5)] else [])
  | _ => [(k, bs)]

/-- A store of `a`: it waits in the queues where the agenda holds stores, else it is performed, after those of its context to
the location (R78). One that its task may not make does not wait. -/
def State.writeBy (s : State) (x : Site) (a : Agent) (tag : Option ThreadRef) (mcst : Bool) (m : LoadMarks) (p : Place)
    (bs : List Byte) : State × Put :=
  match p.queued with
  | none =>
    match p.key with
    | some k => (s.lateFirst a k bs.length).writePlace x tag mcst m p bs
    | none => s.writePlace x tag mcst m p bs
  | some k =>
    let s1 := (s.lateFirst a k bs.length).forgetLoads (·.clash a k bs.length)
    if s1.wq.hold && (tag.isNone || placeCls k != clsP) then
      let e : HeldStore := { owner := a, ctx := x.ctx, fn := s.ctxFn x.ctx, cls := placeCls k, cells := p.stored k bs }
      ({ s1 with wq := { s1.wq with stores := s1.wq.stores ++ [e] } }, .ok)
    else (s1.settleStores fun e => e.ctx == x.ctx && e.overlaps k bs.length).writePlace x tag mcst m p bs

/-- A store of an issuer's agent, now or late. -/
def State.storeBy (s : State) (w : Who) (a : Agent) (uni : Bool) (tag : Option ThreadRef) (mcst : Bool) (m : LoadMarks) (ptr : DWord)
    (p : Place) (bs : List Byte) : State × Put :=
  if s.storeLate tag p then (s.addLate a (w.lateAcc a uni s.cycle ptr p bs.length 0 (.store m mcst bs)), .ok)
  else s.writeBy w.site a tag mcst m p bs

/-- An atomic of `a` at its home, after what its context has waiting for the location. -/
def State.atomBy (s : State) (x : Site) (a : Agent) (p : Place) (f width data swap : Nat) : State × Except Cause Nat :=
  match p.queued with
  | none =>
    match p.key with
    | some k => (s.lateFirst a k width).atomPlace x p f width data swap
    | none => s.atomPlace x p f width data swap
  | some k =>
    (((s.lateFirst a k width).forgetLoads (·.clash a k width)).settleStores fun e =>
      e.ctx == x.ctx && e.overlaps k width).atomPlace x p f width data swap

/-- An engine's write, after what its context has waiting for the location (R78, R130). -/
def State.engPut (s : State) (x : Site) (p : Place) (bs : List Byte) : State × Put :=
  match p.queued with
  | none => s.engWrite x p bs
  | some k => (s.settleStores fun e => e.ctx == x.ctx && e.overlaps k bs.length).engWrite x p bs

/-- Whether an access lies in no region (R31). -/
def Site.plain (x : Site) (p : DWord) : Bool := (regionOf x.blk p).isNone

-- Ordering events (R119).

/-- The accesses of an agent of some classes made: what follows every earlier access of them. -/
def State.settleOwn (s : State) (a : Agent) (cs : Nat → Bool) : State :=
  (s.settleStores fun e => agentsMeet e.owner a && cs e.cls).settleLate fun l => agentsMeet l.owner a && l.within cs

/-- No load of an agent of some classes read ahead any more: what precedes every later access of them. -/
def State.forgetOwn (s : State) (a : Agent) (cs : Nat → Bool) : State :=
  s.forgetLoads fun l => agentsMeet l.owner a && cs (placeCls l.key)

/-- An event that orders an agent's accesses of some classes before it and after it. -/
def State.orderOwn (s : State) (a : Agent) (cs : Nat → Bool) : State := (s.settleOwn a cs).forgetOwn a cs

/-- Every class. -/
def allCls (_ : Nat) : Bool := true
/-- What a fence of scope BLK orders (R127). -/
def blkCls (c : Nat) : Bool := c == clsB
/-- What a fence of scope DEV orders. -/
def devCls (c : Nat) : Bool := c == clsB || c == clsD
/-- What a fence of scope SYS orders. -/
def sysCls (c : Nat) : Bool := c != clsG

/-- Whether a waiting write is a block's: its threads' store, or a publication of one of its domains. -/
def HeldStore.ofBlock (e : HeldStore) (b : Nat) : Bool := agentInBlock e.owner b || (e.dom.map (·.1)) == some b

/-- A block's accesses made, where its storage changes hands. -/
def State.orderBlock (s : State) (b : Nat) : State :=
  ((s.settleStores (·.ofBlock b)).settleLate (·.block == b)).forgetLoads (fun e => agentInBlock e.owner b)

/-- The accesses that name a place made, where the place changes hands: a granule's capture, a region's or a bank's release (R33,
R36, R271). -/
def State.orderPlaces (s : State) (p : Nat → Bool) : State :=
  (s.settleStores fun e => (cellBytesAt e.all).any fun c => p c.1).settleLate fun l =>
    (l.place.key.map fun k => (List.range l.n).any fun i => p (k + i)).getD false

/-- What a block has waiting dropped. -/
def State.dropWaiting (s : State) (b : Nat) : State :=
  { s with wq := { s.wq with
      stores := s.wq.stores.filter fun e => !e.ofBlock b,
      loads := s.wq.loads.filter fun l => !agentInBlock l.owner b,
      late := s.wq.late.filter fun l => l.block != b,
      opens := s.wq.opens.filter fun a => !agentInBlock a b } }

-- The PHASE.OPEN of an acquiring atomic.

/-- Whether an agent has accesses that have still to take effect. -/
def State.owes (s : State) (a : Agent) : Bool :=
  (s.wq.stores.any fun e => agentsMeet e.owner a) || s.wq.late.any fun l => agentsMeet l.owner a

/-- The PHASE.OPEN placed just after an acquiring atomic (R119): it follows every earlier access of the thread, as the atomic
itself need not, so it waits for those that have still to take effect, at the latest until the thread issues again. -/
def State.openAfter (s : State) (a : Agent) (core ctx : Nat) : State :=
  if s.owes a then { s with wq := { s.wq with opens := s.wq.opens ++ [a] } } else (s.forgetOwn a allCls).openPhase core ctx

/-- The opens that an issuer's threads have still to come to. -/
def State.openDue (s : State) (w : Who) : State :=
  if s.wq.opens.any fun o => agentsMeet o w.agent then
    let s1 := (s.orderOwn w.agent allCls).openPhase w.core w.ctx
    { s1 with wq := { s1.wq with opens := s1.wq.opens.filterMap fun o => agentLess o w.agent } }
  else s

/-- The accesses that used a context's translations have reached their homes (R49): its waiting stores are performed, its late
accesses made and its resident blocks' pending bytes published (log 77). -/
def State.drainXlat (s : State) (p : Nat → Bool) : State :=
  let s1 := (s.settleLate fun l => p (s.blockCtx l.block)).settleStores fun e => p e.ctx
  s1.blocks.foldl (fun (s : State) b =>
    if b.pre != .swapped && ((s.grid? b.grid).map fun g => p g.ctx).getD false then
      (List.range b.cores.length).foldl (fun (s : State) r => s.publishAll b.id r (b.coreOf r)) s
    else s) s1

/-- The accesses that used a range of host memory performed there (R376), pending bytes of resident blocks among them (log 77). -/
def State.drainHost (s : State) (base len : Nat) : State :=
  let k := hostPlace base
  let hits (j : Nat) : Bool := decide (k ≤ j) && decide (j < k + len)
  let s1 := (s.settleLate (·.overlaps k len)).settleStores (·.overlaps k len)
  s1.blocks.foldl (fun (s : State) b =>
    if b.pre == .swapped then s
    else
      (List.range b.cores.length).foldl (fun (s : State) r =>
        if (s.pend b.id r).any fun p => p.goes.any hits then s.publishAll b.id r (b.coreOf r) else s) s) s1

/-- Every late access made: what they might meet is about to change. -/
def State.settleAllLate (s : State) : State := s.settleLate fun _ => true

-- Motions.

/-- The bytes a load would take now. -/
def State.bytesAhead (s : State) (key n : Nat) : List Byte :=
  if key < 2 ^ 57 then s.readMem key n else if n == 16 then s.readCell key ++ s.readCell (key + 8) else s.readCell key

/-- Whether a place of class B, D or P may be read ahead: no poison, no waiting access of the thread's own, no peer that
refuses. -/
def State.mayAhead (s : State) (a : Agent) (key n : Nat) : Bool :=
  decide (2 ^ 53 ≤ key) && [1, 2, 4, 8, 16].contains n && (State.who { s with cur := a }).isSome && !s.poisoned key n &&
    !(s.wq.stores.any fun e => agentsMeet e.owner a && e.overlaps key n) &&
    !(s.wq.late.any fun l => agentsMeet l.owner a && l.overlaps key n) &&
    !(placeCls key == clsP && (s.portsDown.contains (peerPort key) || s.peerDenied .read key))

/-- Bytes read ahead for a load that an agent is to make (R118). -/
def State.readAhead (s : State) (a : Agent) (key n : Nat) : State :=
  if s.mayAhead a key n then { s with wq := { s.wq with loads := s.wq.loads ++ [⟨a, key, s.bytesAhead key n, false⟩] } } else s

/-- What an agent's access to a place will find, foretold (R118): its thread goes on with these bytes, and the access takes effect
later. -/
def State.foretell (s : State) (a : Agent) (key : Nat) (bs : List Byte) : State :=
  if [1, 2, 4, 8, 16].contains bs.length && (State.who { s with cur := a }).isSome then
    { s with wq := { s.wq with loads := s.wq.loads ++ [⟨a, key, bs, true⟩] } }
  else s

/-- A start of a publication by a close that a thread of the domain waits for (R122). -/
def State.closeStart (s : State) (b rank : Nat) : State :=
  match s.block? b with
  | none => s
  | some x =>
    if x.groups.any fun g => x.rankOf g.num == rank && g.threads.any (·.wait == .close) then
      s.publishStart b rank (x.coreOf rank)
    else s

/-- A peer writes its own memory, behind this device's aperture (R126). -/
def State.peerWrite (s : State) (a : Nat) (bs : List Byte) : State :=
  if a + bs.length ≤ 2 ^ 52 then (s.writeMem (peerPlace a) bs).tick else s

end Sys2Proof.Machine
end

