-- ==== Sys2Proof/Machine/Join.lean ====
section
/-!
DEFINITION. Joins of engine operations (R132, R248, R257, R114) and WAITC.
-/
namespace Sys2Proof.Machine

/-- TADDR of MATRIX_NAN (R114); its quadrant is the owner's logical one, as an event record's (DESIGN CHOICE, log 106). -/
def nanAddr (n : NanRec) (tag quad : Nat) : DWord :=
  BitVec.ofNat 64 (n.row % 2 ^ 16 + n.col % 128 * 2 ^ 16 + (if n.generated then 2 ^ 23 else 0) +
    n.row / 2 ^ 16 % 128 * 2 ^ 24 + tag % 512 * 2 ^ 32 + quad % 4 * 2 ^ 41)

/-- The fault of a join of completions, in completion order (R257). `fresh` are those whose flags the agent had not
merged before. -/
def joinFault (js fresh : List DoneOp) (te : Word) (here : DWord) : Option (Cause × DWord) :=
  match js.find? (·.status == 4) with
  | some _ => some (.engineReset, 0)
  | none =>
    match js.find? (·.status == 2) with
    | some d => some (Cause.ofCode d.cause, d.addr)
    | none =>
      match js.findSome? fun d => if d.status == 1 then d.nan.map fun n => (d, n) else none with
      | some (d, n) => some (.matrixNan, nanAddr n d.tag d.quad)
      | none => if fresh.any fun d => d.status == 0 && (d.flags &&& te) != 0 then some (.flagTrap, here) else none

/-- Whether a place's line lies in a write footprint (R132). -/
def inFoot (fs : List (Nat × Nat)) (line : Nat) : Bool :=
  fs.any fun f => decide (f.1 / 128 ≤ line) && decide (line ≤ f.2 / 128)

/-- The completions a join observes: those named, and every record of a walk among them (R276). -/
def joined (log : List DoneOp) (sel : DoneOp → Bool) : List DoneOp :=
  let kids := (log.filter sel).flatMap (·.kids)
  log.filter fun d => sel d || kids.contains d.id

/-- A join, which precedes every later event of the thread (R119), by an issuer of the completions of its pair that `sel` names
(R132, R248, R257): flags merged once, the footprints opened, grants of TRYALLOC entering the push-order view (R259), and the
fault if there is one; the issuer goes on at the next instruction. -/
def State.join (s : State) (w : Who) (sel : DoneOp → Bool) : State :=
  match (s.block? w.blk.id).bind fun b => b.pair? w.rank w.quad with
  | none => s
  | some p =>
    let js := joined p.log sel
    let fresh := js.filter fun d => !w.uni.joined.contains d.id
    let next := (w.pc + 4) % 2 ^ 56
    let s1 := (s.forgetOwn w.agent allCls).modUni w fun u => { u.merge (fresh.foldl (fun a d => a ||| d.flags) 0) with
      joined := u.joined ++ fresh.map (·.id) }
    let foot := js.flatMap (·.foot)
    let s2 := if foot.isEmpty then s1 else s1.dropLines w.core (inFoot foot)
    let s3 := s2.modPair w.blk.id w.rank w.quad fun q =>
      { q with unjoined := q.unjoined.filter fun x => !(js.any fun d => d.id == x.1) }
    let s4 := (s3.setPc w next).setWait w .none
    match joinFault js fresh w.uni.te w.addr with
    | none => s4
    | some (c, a) => s4.faultAll w c a next 0 true

/-- The signed distance of two counter values (R248). -/
def counterReached (k value : Word) : Bool := decide (0 ≤ (k - value).toInt)

/-- Whether WAITC on counter k with a value is satisfied for the issuer's pair. -/
def State.waitcDone (s : State) (w : Who) (k : Nat) (value : Word) : Bool :=
  match (s.block? w.blk.id).bind fun b => b.pair? w.rank w.quad with
  | some p => counterReached (p.k.getD k 0) value
  | none => false

/-- The join that a satisfied WAITC makes: the completions counted on k up to the value. -/
def State.waitcJoin (s : State) (w : Who) (k : Nat) (value : Word) : State :=
  s.join w fun d => d.counter == k && counterReached value (BitVec.ofNat 32 d.count)

/-- WAITC issued: the join at once where it is satisfied, else the wait. -/
def State.waitc (s : State) (w : Who) (k : Nat) (value : Word) : State :=
  if s.waitcDone w k value then s.waitcJoin w k value else s.setWait w (.waitc k value)

end Sys2Proof.Machine
end

