-- ==== Sys2Proof/Machine/Engine.lean ====
section
/-!
DEFINITION. Engine operations in common (06_execution_model.md R150 to R153; 10_control_thread_and_engine_instructions.md
R255 to R261): operand blocks, permits, the push with its fork, completion with its counter and event record, and the
decision and event queues.
-/
namespace Sys2Proof.Machine

-- Permits.

/-- The permits of a queue (R152). -/
def EngQ.permits : EngQ → Nat
  | .copy => 128
  | .matrix => 48
  | .acc => 32
  | .region => 16
  | .launch => 16
  | .rfl => 8
  | .loop => 8

/-- The code of a kind of operation in event records (R256). -/
def EngQ.kindCode : EngQ → Nat
  | .copy => 1
  | .matrix => 2
  | .loop => 3
  | .region => 4
  | .rfl => 5
  | .acc => 6
  | .launch => 7

def EngOp.isCpmx (o : EngOp) : Bool :=
  match o.kind with
  | .cpmx _ _ => true
  | _ => false

/-- Whether an operation holds a permit of a queue: a CPMX holds a copy permit until its copy completes. -/
def EngOp.holds (o : EngOp) (q : EngQ) : Bool := o.queue == q || (q == .copy && o.isCpmx && !o.copied)

/-- The operations in flight of a pair, in push order. -/
def State.pairOps (s : State) (b rank quad : Nat) : List EngOp :=
  s.ops.filter fun o => o.block == b && o.rank == rank && o.quad == quad

/-- The permits of a queue that a pair has taken. -/
def State.permitsTaken (s : State) (b rank quad : Nat) (q : EngQ) : Nat := ((s.pairOps b rank quad).filter (·.holds q)).length

/-- Whether a pair has a permit free in a queue. -/
def State.permitFree (s : State) (b rank quad : Nat) (q : EngQ) : Bool := decide (s.permitsTaken b rank quad q < q.permits)

/-- Whether an operation finds its permits: a CPMX needs both at once. -/
def State.opPermit (s : State) (o : EngOp) : Bool :=
  s.permitFree o.block o.rank o.quad o.queue && (!o.isCpmx || s.permitFree o.block o.rank o.quad .copy)

-- Pushes that stall (R152, R163).

/-- Whether a stalled push waits for a permit of a queue. A walk that stalls notes its record's queue after its command's
address. -/
def EngOp.waitsFor (y : EngOp) (q : EngQ) : Bool :=
  match y.kind, y.aux with
  | .walk _ _, [_, c] => c == q.kindCode
  | _, _ => y.holds q

/-- The pushes of a pair that stall. -/
def State.stalls (s : State) (b rank quad : Nat) : List EngOp :=
  let of (w : Wait) : Option EngOp :=
    match w with
    | .permit y => if y.rank == rank && y.quad == quad then some y else Option.none
    | _ => Option.none
  (match s.block? b with
   | some x => (x.groups.flatMap fun g => g.threads.filterMap fun t => of t.wait) ++ x.ctls.filterMap fun c => of c.wait
   | none => []) ++ (s.pairOps b rank quad).filter fun o => o.queue == .loop && o.arrival != 0

/-- How many pushes of a pair have waited for a permit of a queue since before an arrival; a fragment's push waits in all its
lanes. -/
def State.waitingBefore (s : State) (b rank quad : Nat) (q : EngQ) (arrival : Nat) : Nat :=
  (((s.stalls b rank quad).filter fun y => decide (y.arrival < arrival) && y.waitsFor q).map (·.arrival)).eraseDups.length

/-- Whether the permits that a push needs are due to it: in each of its queues one is free beside one for every push that has
waited longer there, so that a CPMX, which takes two, is passed by none (R163; log 86). -/
def State.permitDue (s : State) (o : EngOp) (arrival : Nat) : Bool :=
  s.opPermit o && (if o.isCpmx then [o.queue, EngQ.copy] else [o.queue]).all fun q =>
    let n := s.waitingBefore o.block o.rank o.quad q arrival
    n == 0 || decide (s.permitsTaken o.block o.rank o.quad q + n < q.permits)

-- The push.

/-- An operation as an issuer makes it. -/
def Who.op (w : Who) (q : EngQ) (tag : Nat) (k : OpKind) : EngOp :=
  { id := 0, block := w.blk.id, rank := w.rank, quad := w.quad, group := w.grp.map (·.num), queue := q, tag := tag,
    walk := none, quiet := false, mxnan := bitOf w.uni.gctl.toNat 23, kind := k, started := false, prog := 0,
    prog2 := 0, copied := false, stop := false, flags := 0, nan := none, words := [], fault := none, kids := [],
    foot := [], waitGran := none, aux := [] }

/-- What a push leaves in its pair's push-order view of the refinement controller (R291, R292). -/
def Pair.noted (p : Pair) (k : OpKind) (id : Nat) : Pair :=
  match k with
  | .rflSetup _ m => { p with bindView := true, bindMask := m }
  | .rflRun _ => { p with lastRun := some id }
  | _ => p

/-- The fork and the entry into the queue (R130, R255): the domain's pending bytes are published before anything the
operation reads. -/
def State.push (s : State) (o : EngOp) (core : Nat) : State :=
  let s1 := (s.publishStart o.block o.rank core).modPair o.block o.rank o.quad fun p => p.noted o.kind s.nextId
  { s1 with ops := s1.ops ++ [{ o with id := s1.nextId }], nextId := s1.nextId + 1 }.tick

/-- What a fork follows (R119): every earlier access of the issuing thread. -/
def State.forkAfter (s : State) (w : Who) : State := s.settleOwn w.agent allCls

/-- A command that passed its checks: pushed where it finds its permits, else its issuer stalls with what it read. -/
def State.pushCmd (s : State) (w : Who) (o : EngOp) : State :=
  if s.permitDue o s.seq then ((s.forkAfter w).push o w.core).setPc w (w.pc + 4)
  else (s.setWait w (.permit { o with arrival := s.seq })).tick

/-- n uniform registers from e on, as an operand block. -/
def Who.block (w : Who) (e n : Nat) : Block32 := (List.range n).map fun i => w.uni.sget (e + i)

def blkWord (b : Block32) (i : Nat) : Nat := (b.getD i 0).toNat
def blkPtr (b : Block32) (i : Nat) : DWord := joinPair (b.getD i 0) (b.getD (i + 1) 0)

/-- An engine command (R255): its blocks with their lengths, and its own checks and push. -/
def engineCmd (s : State) (blocks : List (Nat × Nat)) (k : Who → State) : Host.Outcome State Fault Refusal :=
  uniform s 0 (fun w => blocks.all fun (e, n) => sOk w e n 1) blocks k

/-- The lanes that an agent names and that all stand at one wait. -/
def Who.standsAt (w : Who) (x : Wait) : Bool := w.threads.all fun t => t.2.wait == x && t.2.pc == w.pc

/-- The wait an agent stands at: that of the first lane it names, or the control thread's. -/
def Who.wait (w : Who) : Wait :=
  match w.ctl, w.threads with
  | some c, _ => c.wait
  | none, (_, t) :: _ => t.wait
  | none, [] => .none

/-- The agents of the pair that a completion wakes from one wait: they issue their instruction again. -/
def State.wakePair (s : State) (b rank quad : Nat) (x : Wait) : State :=
  s.modCtl b rank quad fun c => if c.wait == x then { c with wait := .none } else c

/-- STALLED_PUSH_RESUME (R152): the push that an agent stalled on, once it finds its permits. -/
def execStalledPushResume (a : Agent) (s : State) : Host.Outcome State Fault Refusal :=
  .next <|
    match { s with cur := a }.who with
    | none => s
    | some w =>
      match w.wait with
      | .permit o =>
        if w.standsAt (.permit o) && s.permitDue o o.arrival then
          (((s.forkAfter w).push { o with arrival := 0 } w.core).setPc w (w.pc + 4)).setWait w .none
        else s
      | _ => s

-- Completion.

/-- Words 2 to 6 of a record (R256). -/
def recordWords (status cause : Nat) (addr : DWord) (progress : Nat) (ws : List Word) : List Word :=
  if status == 2 then [BitVec.ofNat 32 (cause % 256), loWord addr, hiWord addr, BitVec.ofNat 32 progress, 0]
  else (ws ++ List.replicate 5 0).take 5

/-- An event record (R256). -/
def eventRecord (kind quad tag status : Nat) (gen : Bool) (seq : Word) (mid : List Word) (flags : Word) : List Word :=
  [BitVec.ofNat 32 (kind + status * 2 ^ 8 + tag % 512 * 2 ^ 16 + quad % 4 * 2 ^ 25 + (if gen then 2 ^ 27 else 0)), seq] ++
    mid ++ [flags &&& 0x1FF]

/-- A record posted (R153): a full queue drops its oldest first; EVQDROP saturates. -/
def Pair.post (p : Pair) (id : Nat) (r : List Word) : Pair :=
  let full := decide (256 ≤ p.evq.length)
  { p with
    evq := (if full then p.evq.drop 1 else p.evq) ++ [(id, r)],
    evqdrop := if full && p.evqdrop != 0xFFFFFFFF then p.evqdrop + 1 else p.evqdrop,
    seq := p.seq + 1 }

/-- Words 2 to 6 of an operation's record; a walk that stopped at a check gives its index in word 4 (R276). -/
def EngOp.mid (o : EngOp) (status cause : Nat) (addr : DWord) (progress : Nat) : List Word :=
  let ws := recordWords status cause addr progress o.words
  match o.kind with
  | .walk _ _ => if status == 2 then ws.set 2 (BitVec.ofNat 32 progress) else ws
  | _ => ws

/-- The flags a join of the operation merges by itself: a walk's are those of the records it pushed (R276). -/
def EngOp.ownFlags (o : EngOp) : Word :=
  match o.kind with
  | .walk _ _ => 0
  | _ => o.flags

/-- The completion of an operation in its pair (R130, R256, R258): the counter, the record, the log of joins. -/
def Pair.completed (p : Pair) (o : EngOp) (status cause : Nat) (addr : DWord) (progress granted : Nat) : Pair :=
  let j := o.tag / 32
  let n := p.k.getD j 0 + 1
  let p1 : Pair :=
    { p with
      k := p.k.set j n,
      log := p.log ++ [⟨o.id, j, n.toNat, o.tag, o.quad, status, cause, addr, o.ownFlags, o.nan, o.foot, o.kids, granted⟩],
      unjoined := if granted == 0 then p.unjoined else p.unjoined ++ [(o.id, granted)] }
  if o.quiet then p1
  else
    p1.post o.id (eventRecord o.queue.kindCode o.quad o.tag status o.walk.isSome p1.seq
      (o.mid status cause addr progress) o.flags)

/-- An operation completed with a status: it leaves its engine and returns its permits; EVQ.WAIT may find its record. -/
def State.finish (s : State) (o : EngOp) (status cause : Nat) (addr : DWord) (progress : Nat := 0)
    (granted : Nat := 0) : State :=
  let s1 := { s with ops := s.ops.filter (·.id != o.id) }
  ((s1.modPair o.block o.rank o.quad fun p => p.completed o status cause addr progress granted).wakePair
    o.block o.rank o.quad .evq).tick

/-- The status an operation that ran to its end has (R256). -/
def EngOp.status (o : EngOp) : Nat :=
  if o.fault.isSome then 2 else if o.stop then 3 else if o.nan.isSome then 1 else 0

/-- An operation completed as its fault, NaN record or stop says. -/
def State.finishOp (s : State) (o : EngOp) (progress : Nat := 0) (granted : Nat := 0) : State :=
  let f := o.fault.getD (0, 0)
  s.finish o o.status f.1 f.2 progress granted

def State.op? (s : State) (id : Nat) : Option EngOp := s.ops.find? (·.id == id)
def State.modOp (s : State) (id : Nat) (f : EngOp → EngOp) : State := { s with ops := modIf s.ops (·.id == id) f }

/-- The block and grid an operation runs for. -/
def State.opSite (s : State) (o : EngOp) : Option Site :=
  (s.block? o.block).bind fun b => (s.grid? b.grid).map fun g => ⟨b, g, o.rank, o.quad, b.coreOf o.rank⟩

/-- Whether an operation is one that a swap-out completes first, or stands between the points where it may be cut (R281). -/
def EngOp.finishes (o : EngOp) : Bool :=
  match o.kind with
  | .launch _ _ _ => true
  | .signal _ _ _ => true
  | .rgnMap _ => true
  | .tryAlloc _ => true
  | .swap => true
  | .grouped _ =>
    o.started && o.prog2 != 0 && o.fault.isNone && decide (o.prog < o.aux.getD 2 0 + o.aux.getD 0 0)
  | .tile b => o.started && o.fault.isNone && decide (o.prog < o.prog2 * blkWord b 7)
  | _ => !o.rowOut.isEmpty && o.fault.isNone

/-- Whether a swap-out completes an operation first: of itself, or as a region operation before a MAP, which follows it in push
order (R274, R281; log 20). -/
def State.mustFinish (s : State) (o : EngOp) : Bool :=
  o.finishes || (o.queue == .region && (s.pairOps o.block o.rank o.quad).any fun y =>
    decide (o.id < y.id) && match y.kind with
      | .rgnMap _ => true
      | _ => false)

/-- Whether an operation may move: its block stands on its cores (R281, R353), at the hard grade only what a swap-out lets
finish, and no fill holds it back. -/
def State.opLive (s : State) (o : EngOp) : Bool :=
  ((s.block? o.block).map fun b =>
    b.pre != .swapped && (b.pre != .hard || s.mustFinish o)).getD false && o.waitGran.isNone

-- The decision queue.

/-- The group of a pair whose fragment has waited longest in DQ.POP: its number, lanes, and destination. -/
def Block.oldestPop (b : Block) (rank quad : Nat) : Option (Nat × List Nat × Nat) :=
  let waits := b.groups.flatMap fun g =>
    if b.rankOf g.num == rank && b.quadOf g.num == quad then
      (List.range 32).filterMap fun l => (g.thread? l).bind fun t =>
        match t.wait with
        | .dqPop k d => some (k, g.num, d)
        | _ => none
    else []
  match waits with
  | [] => none
  | x :: r =>
    let m := r.foldl (fun a y => if y.1 < a.1 then y else a) x
    (b.group? m.2.1).map fun g =>
      (m.2.1, (List.range 32).filter fun l => ((g.thread? l).map fun t => t.wait == .dqPop m.1 m.2.2).getD false, m.2.2)

/-- An entry given to the fragment that waits longest, as a pop (R260). -/
def State.servePop (s : State) (b g : Nat) (lanes : List Nat) (d : Nat) (v : DWord) : State :=
  match { s with cur := .frag b g (maskOf lanes) }.who with
  | some w => (s.uniWrite w d (pairWords v)).setWait w .none
  | none => s

/-- DQ.PUSH (R151, R260): a control thread's; the longest-waiting pop takes the entry, else it is queued. -/
def execDqPush (x : Ua) (s : State) : Host.Outcome State Fault Refusal :=
  uniform s x.c (fun w => w.ctl.isSome && sOk w x.a.toNat 2 2) [(x.a.toNat, 2)] fun w =>
    let v := w.uni.spair x.a.toNat
    match w.blk.oldestPop w.rank w.quad with
    | some (g, ls, d) => ((s.setPc w (w.pc + 4)).servePop w.blk.id g ls d v).tick
    | none =>
      if ((w.blk.pair? w.rank w.quad).map fun p => decide (64 ≤ p.dq.length)).getD false then s.setWait w .dqPush
      else ((s.modPair w.blk.id w.rank w.quad fun p => { p with dq := p.dq ++ [v] }).setPc w (w.pc + 4)).tick

/-- The oldest entry of the issuer's decision queue removed; a stalled push issues again. -/
def State.popDq (s : State) (w : Who) : Option (State × DWord) :=
  match (w.blk.pair? w.rank w.quad).map (·.dq) with
  | some (v :: r) =>
    some (((s.modPair w.blk.id w.rank w.quad fun p => { p with dq := r }).wakePair w.blk.id w.rank w.quad .dqPush).tick, v)
  | _ => none

/-- DQ.POP (R151, R260): a fragment's; it stalls on an empty queue. -/
def execDqPop (x : Ud) (s : State) : Host.Outcome State Fault Refusal :=
  uniform s x.c (fun w => w.grp.isSome && sOk w x.d.toNat 2 2) [] fun w =>
    match s.popDq w with
    | some (s1, v) => s1.uniWrite w x.d.toNat (pairWords v)
    | none => (s.setWait w (.dqPop s.seq x.d.toNat)).tick

/-- DQ.POLL (R151, R260). -/
def execDqPoll (x : UPoll) (s : State) : Host.Outcome State Fault Refusal :=
  uniform s x.c (fun w => w.grp.isSome && sOk w x.d.toNat 2 2) [] fun w =>
    match s.popDq w with
    | some (s1, v) => (s1.uniWrite w x.d.toNat (pairWords v)).condWrite w x.b.toNat true
    | none => s.condWrite w x.b.toNat false

-- The event queue.

/-- The oldest record removed into eight registers: a join of its operation (R257, R261). -/
def State.takeEvent (s : State) (w : Who) (d id : Nat) (r : List Word) (cond : Option Nat) : State :=
  let s1 := s.modPair w.blk.id w.rank w.quad fun p => { p with evq := p.evq.drop 1 }
  let s2 := s1.uniWrite w d r
  let s3 := match cond with
    | some c => s2.condWrite w c true
    | none => s2
  s3.join w fun x => x.id == id

/-- EVQ.WAIT (R151, R261). -/
def execEvqWait (x : Ud) (s : State) : Host.Outcome State Fault Refusal :=
  uniform s x.c (fun w => w.ctl.isSome && sOk w x.d.toNat 8 8) [] fun w =>
    match (w.blk.pair? w.rank w.quad).map (·.evq) with
    | some ((id, r) :: _) => s.takeEvent w x.d.toNat id r none
    | _ => s.setWait w .evq

/-- EVQ.POLL. -/
def execEvqPoll (x : UPoll) (s : State) : Host.Outcome State Fault Refusal :=
  uniform s x.c (fun w => w.ctl.isSome && sOk w x.d.toNat 8 8) [] fun w =>
    match (w.blk.pair? w.rank w.quad).map (·.evq) with
    | some ((id, r) :: _) => s.takeEvent w x.d.toNat id r (some x.b.toNat)
    | _ => s.condWrite w x.b.toNat false

end Sys2Proof.Machine
end

