-- ==== Sys2Proof/Machine/Copy.lean ====
section
/-!
DEFINITION. The copy engine (10_control_thread_and_engine_instructions.md R262 to R264; R23, R56, R130, R131): issue
checks, movement by sectors, completion.
-/
namespace Sys2Proof.Machine

/-- The forms' fn codes (R263). -/
def cpGather : Nat := 5
def cpScatter : Nat := 6
def cpFill : Nat := 7

/-- The spaces a form's source and destination may name (R263). -/
def formSrc (fn sp : Nat) : Bool :=
  match fn with
  | 0 => [0, 5, 7].contains sp
  | 1 => [1, 4, 3].contains sp
  | 2 => [0, 7].contains sp
  | 3 => [1, 4, 2, 3].contains sp
  | 4 => [0, 5, 7].contains sp
  | _ => (permitted .ce sp).1 && decide (sp < 8)
def formDst (fn sp : Nat) : Bool :=
  match fn with
  | 0 => [1, 4].contains sp
  | 1 => [0, 5].contains sp
  | 2 => sp == 2
  | 3 => [1, 4, 2].contains sp
  | 4 => [0, 5].contains sp
  | _ => (permitted .ce sp).2 && decide (sp < 8)

/-- A copy's operands from its source part and destination part (R262). -/
def copyDesc (fn : Nat) (b : Block32) (si di : Nat) : CopyDesc :=
  ⟨fn, blkPtr b si, blkWord b (si + 2), blkPtr b (si + 4), blkPtr b di, blkWord b (di + 2), blkWord b (di + 3),
    blkWord b (di + 4)⟩

/-- The limits and forms of R262 and R263, which fault ILLEGAL_OPERAND (log 16). -/
def copyLimits (c : CopyDesc) (reserved : Nat) : Bool :=
  let indexed := c.fn == cpGather || c.fn == cpScatter
  reserved == 0 && decide (1 ≤ c.len) && decide (c.len ≤ 65536) && decide (1 ≤ c.cnt) && decide (c.cnt ≤ 1048575) &&
    (decide (c.cnt ≤ 1) || c.fn == cpScatter || decide (c.len ≤ c.dstr)) &&
    (if indexed then [0, 1, 4].contains (ptrSpace c.ipt) && c.ipt.toNat % 4 == 0 else c.ipt == 0) &&
    (if c.fn == cpFill then c.sstr == 0 else formSrc c.fn (ptrSpace c.src)) && formDst c.fn (ptrSpace c.dst)

/-- The access size by which a footprint's ends are checked: a CB container, else a byte. -/
def endSize (p : DWord) : Nat := if ptrSpace p == 3 then 8 else 1

/-- The first and last address of a footprint of n bytes checked for an engine class (R23). -/
def State.checkSpan (s : State) (x : Site) (e : Eng) (op : Acc) (p : DWord) (n : Nat) : Option (Cause × DWord) :=
  let k := endSize p
  match s.checkAccess x e op p k with
  | some c => some (c, p)
  | none =>
    let q := ptrAdd p ((n : Int) - k)
    if n ≤ k then none else (s.checkAccess x e op q k).map fun c => (c, q)

/-- The first of some checks that fails. -/
def firstFault : List (Option (Cause × DWord)) → Option (Cause × DWord)
  | [] => none
  | some f :: _ => some f
  | none :: r => firstFault r

/-- The bytes from the first to the last of a side's rows. -/
def spanLen (len cnt str : Nat) : Nat := (cnt - 1) * str + len

/-- Whether a CB source starts each row on a container (R264). -/
def cbAligned (c : CopyDesc) : Bool :=
  c.fn == cpFill || ptrSpace c.src != 3 ||
    (ptrOff c.src % 8 == 0 && c.len % 8 == 0 && (decide (c.cnt ≤ 1) || c.sstr % 8 == 0))

/-- The checks a copy makes at issue (R263, R264), in an order that the rules leave open (DESIGN CHOICE, log 103); `here` is the
instruction's address. -/
def State.copyFault (s : State) (x : Site) (c : CopyDesc) (reserved : Nat) (here : DWord) : Option (Cause × DWord) :=
  if !copyLimits c reserved then some (.illegalOperand, here)
  else
    firstFault
      [ if c.fn == cpFill || c.fn == cpGather then none else s.checkSpan x .ce .read c.src (spanLen c.len c.cnt c.sstr),
        if cbAligned c then none else some (.alignment, c.src),
        if c.fn == cpScatter then none else s.checkSpan x .ce .write c.dst (spanLen c.len c.cnt c.dstr),
        if c.fn == cpGather || c.fn == cpScatter then s.checkSpan x .ce .read c.ipt (4 * c.cnt) else none ]

-- Movement.

/-- What a piece of an engine's access gives: bytes, a fill to wait for, or a fault. -/
inductive Moved where
  | ok (bs : List Byte)
  | wait (r g : Nat) (p : DWord)
  | bad (c : Cause) (p : DWord)

/-- The pieces of n bytes at a pointer that do not cross a 16-byte unit: pointer and length; at most k pieces. -/
def pieces : Nat → DWord → Nat → List (DWord × Nat)
  | 0, _, _ => []
  | _, _, 0 => []
  | k + 1, p, n =>
    let m := min n (16 - ptrOff p % 16)
    (p, m) :: pieces k (ptrAdd p m) (n - m)

/-- The bytes of CB containers from an offset within a container on (R21). -/
def cellBytes (s : State) (k off n : Nat) : Got :=
  if s.poisoned k 5 || (decide (8 < off + n) && s.poisoned (k + 8) 5) then .bad .engineFault
  else .ok (((s.readCell k ++ s.readCell (k + 8)).drop off).take n)

/-- One piece read by an engine class at its home, checked again as it is moved (R56, R130). -/
def State.pieceRead (s : State) (x : Site) (e : Eng) (p : DWord) (n : Nat) : State × Moved :=
  let a := if ptrSpace p == 3 then ptrAdd p (-((ptrOff p % 8 : Nat) : Int)) else p
  match s.checkAccess x e .read a (endSize p) with
  | some c => (s, .bad c p)
  | none =>
    match s.touch x p with
    | (s1, some rg) => (s1, .wait rg.1 rg.2 p)
    | (s1, none) =>
      match s1.place x (0, 0) a with
      | (s2, .error c) => (s2, .bad c p)
      | (s2, .ok pl) =>
        match (match pl with
          | .konst off => s2.homeConst x off n
          | .cell k => (s2, cellBytes s2 k (ptrOff p % 8) n)
          | _ => s2.engRead x pl n) with
        | (s3, .ok bs) => (s3, .ok bs)
        | (s3, .bad c) => (s3, .bad c p)

/-- One piece written by an engine class; to an RO region it faults (R33). -/
def State.pieceWrite (s : State) (x : Site) (e : Eng) (p : DWord) (bs : List Byte) : State × Moved :=
  match s.checkAccess x e .write p (endSize p) with
  | some c => (s, .bad c p)
  | none =>
    match s.touch x p with
    | (s1, some rg) => (s1, .wait rg.1 rg.2 p)
    | (s1, none) =>
      match (if roStore x.blk .write p then (s1, .error .accessClass) else s1.place x (0, 0) p) with
      | (s2, .error c) => (s2, .bad c p)
      | (s2, .ok pl) =>
        match (s2.dirty x p bs.length).engPut x pl bs with
        | (s3, .ok) => (s3, .ok bs)
        | (s3, .bad c) => (s3, .bad c p)

/-- n bytes read at a pointer, piece by piece. -/
def State.spanRead (s : State) (x : Site) (e : Eng) : List (DWord × Nat) → State × Moved
  | [] => (s, .ok [])
  | (p, n) :: r =>
    match s.pieceRead x e p n with
    | (s1, .ok bs) =>
      match s1.spanRead x e r with
      | (s2, .ok bs') => (s2, .ok (bs ++ bs'))
      | o => o
    | o => o

/-- Bytes written at a pointer, piece by piece. -/
def State.spanWrite (s : State) (x : Site) (e : Eng) (bs : List Byte) : List (DWord × Nat) → State × Moved
  | [] => (s, .ok [])
  | (p, n) :: r =>
    match s.pieceWrite x e p (bs.take n) with
    | (s1, .ok _) => s1.spanWrite x e (bs.drop n) r
    | o => o

def State.engReadAt (s : State) (x : Site) (e : Eng) (p : DWord) (n : Nat) : State × Moved :=
  s.spanRead x e (pieces (n + 1) p n)
def State.engWriteAt (s : State) (x : Site) (e : Eng) (p : DWord) (bs : List Byte) : State × Moved :=
  s.spanWrite x e bs (pieces (bs.length + 1) p bs.length)

/-- The entry of the index list for element r (R264). -/
def State.copyIdx (s : State) (x : Site) (c : CopyDesc) (r : Nat) : State × Moved :=
  s.engReadAt x .ce (ptrAdd c.ipt (4 * r)) 4

/-- One run of bytes of one row: row, its index, offset in the row, length. -/
structure CopyRun where
  row : Nat
  idx : Nat
  off : Nat
  len : Nat

def CopyDesc.srcAt (c : CopyDesc) (r : CopyRun) : DWord :=
  ptrAdd c.src ((if c.fn == cpGather then r.idx else r.row) * c.sstr + r.off)
def CopyDesc.dstAt (c : CopyDesc) (r : CopyRun) : DWord :=
  ptrAdd c.dst ((if c.fn == cpScatter then r.idx else r.row) * c.dstr + r.off)

/-- The check of an indexed element as the operation reaches it: its first and last bytes (R56, R264). -/
def State.elemFault (s : State) (x : Site) (c : CopyDesc) (r : CopyRun) : Option (Cause × DWord) :=
  if r.off != 0 then none
  else if c.fn == cpGather then s.checkSpan x .ce .read (c.srcAt r) c.len
  else if c.fn == cpScatter then s.checkSpan x .ce .write (c.dstAt r) c.len
  else none

/-- The class-G places of bytes written at a destination (R132). -/
def State.footOf (s : State) (x : Site) (p : DWord) (n : Nat) : List (Nat × Nat) :=
  if ptrSpace p != 0 then []
  else
    (pieces (n + 1) p n).filterMap fun (q, m) =>
      match (s.globPlace x (ptrOff q) false).2 with
      | .ok (.glob k _ _ _) => some (k, k + m - 1)
      | _ => none

-- A source and a destination that overlap (R264; log 17).

/-- The address under a mode, in an owner's AB on a core, of a place; none for a place elsewhere (R14, R18). -/
def abAddr (owned : List Nat) (core mode key : Nat) : Option Nat :=
  if key < abPlace core 0 0 0 || abPlace (core + 1) 0 0 0 ≤ key then none
  else
    let k := key - abPlace core 0 0 0
    let bank := k % 512 / 16
    let nb := 8 * owned.length
    (indexWhere owned (· == bank / 8)).bind fun i =>
      ((List.range nb).find? fun n => permuteBank n (k / 512) mode == 8 * i + bank % 8).map fun n => (k / 512 * nb + n) * 16 + k % 16

/-- How far beyond a pointer's address a place lies in the pointer's space and mode, among the n bytes there. -/
def State.distance (s : State) (x : Site) (p : DWord) (n key : Nat) : Option Nat :=
  let fn := s.ctxFn x.ctx
  let core := x.blk.coreOf (ptrRank p)
  let owned := s.ownedQuads core fn
  let beyond (from_ : Nat) (a : Option Nat) : Option Nat :=
    a.bind fun a => if from_ ≤ a && decide (a < from_ + n) then some (a - from_) else none
  match ptrSpace p with
  | 0 =>
    beyond (ptrOff p) ((List.range (n / 4096 + 2)).findSome? fun i =>
      let va := (ptrOff p / 4096 + i) * 4096
      match (s.globPlace x va false).2 with
      | .ok (.glob k _ _ _) => if k ≤ key && decide (key < k + 4096) then some (va + (key - k)) else none
      | .ok (.peer k) => if k ≤ key && decide (key < k + 4096) then some (va + (key - k)) else none
      | _ => none)
  | 1 => beyond (ptrOff p % 2 ^ 21) (abAddr owned core (ptrMode p) key)
  | 2 =>
    if key < wbPlace core 0 then none
    else
      let y := key - wbPlace core 0
      beyond (ptrOff p % 2 ^ 20) ((indexWhere owned (· == y / 2 ^ 18)).map fun i => i * 2 ^ 18 + y % 2 ^ 18)
  | 4 =>
    let m := x.blk.cores.length
    beyond (ptrOff p % 2 ^ 24) ((List.range m).findSome? fun r =>
      let c := x.blk.coreOf r
      (abAddr (s.ownedQuads c fn) c (ptrMode p) key).bind fun a =>
        if a < x.blk.cbase then none else some (((a - x.blk.cbase) / 128 * m + r) * 128 + (a - x.blk.cbase) % 128))
  | 5 => if key < mbxPlace (ptrRank p) 0 then none else beyond (ptrOff p) (some (key - mbxPlace (ptrRank p) 0))
  | _ => none

/-- Whether a copy's operands may share storage. -/
def CopyDesc.mayMeet (c : CopyDesc) : Bool :=
  let store (sp : Nat) : Nat := if sp == 4 then 1 else if sp == 7 then 0 else sp
  c.fn != cpFill && store (ptrSpace c.src) == store (ptrSpace c.dst)

/-- The position among the bytes a copy writes at which it writes a place. -/
def State.writtenAt (s : State) (x : Site) (c : CopyDesc) (key : Nat) : Option Nat :=
  if c.fn == cpScatter then
    (List.range c.cnt).findSome? fun r =>
      match s.copyIdx x c r with
      | (s1, .ok ib) => (s1.distance x (c.dstAt ⟨r, ofBytes ib, 0, 0⟩) c.len key).map fun d => r * c.len + d
      | _ => none
  else
    (s.distance x c.dst (spanLen c.len c.cnt c.dstr) key).bind fun d =>
      let row := if c.cnt ≤ 1 || c.dstr == 0 then 0 else d / c.dstr
      let off := d - row * c.dstr
      if row < c.cnt && off < c.len then some (row * c.len + off) else none

/-- The place of a source byte of a copy. -/
def State.sourceKey (s : State) (x : Site) (c : CopyDesc) (pos : Nat) : Option Nat :=
  let row := pos / c.len
  let at_ (idx : Nat) (s : State) : Option Nat :=
    match s.place x (0, 0) (c.srcAt ⟨row, idx, pos % c.len, 0⟩) with
    | (_, .ok (.konst off)) =>
      (constVa x.grid off).bind fun va =>
        match (s.globPlace x va false).2 with
        | .ok p => p.key
        | .error _ => none
    | (_, .ok p) => p.key
    | (_, .error _) => none
  if c.fn == cpGather then
    match s.copyIdx x c row with
    | (s1, .ok ib) => at_ (ofBytes ib) s1
    | _ => none
  else at_ 0 s

/-- What a place held before a copy first wrote it, where the copy has. -/
def noted (old : List (Nat × List Byte)) (key : Nat) : Option Byte :=
  (old.find? fun e => decide (e.1 ≤ key) && decide (key < e.1 + e.2.length)).bind fun e => e.2[key - e.1]?

/-- The byte that copy `id` moves at a position, where `cur` stands at its source: of a source byte that the copy writes too,
the one from before the copy or the one that it writes there (R264), as a free value has it. -/
def State.copyByte (s : State) (x : Site) (c : CopyDesc) (o : EngOp) : Nat → Nat → Byte → Byte
  | 0, _, cur => cur
  | fuel + 1, pos, cur =>
    match (s.sourceKey x c pos).bind fun k => (s.writtenAt x c k).map fun at_ => (k, at_) with
    | none => cur
    | some (k, at_) =>
      if !Config.takesCopied o.id pos then (noted o.before k).getD cur
      else if at_ < o.prog then cur
      else
        match s.sourceKey x c at_ with
        | some k' => s.copyByte x c o fuel at_ ((noted o.before k').getD ((s.readMem k' 1).getD 0 0))
        | none => cur

/-- What stands at the n bytes of a destination, which the copy is about to write. -/
def State.noteBefore (s : State) (x : Site) (c : CopyDesc) (p : DWord) (n : Nat) : List (Nat × List Byte) :=
  if !c.mayMeet then []
  else
    (pieces (n + 1) p n).filterMap fun (q, m) =>
      match (s.place x (0, 0) q).2 with
      | .ok pl => pl.key.map fun k => (k, s.readMem k m)
      | .error _ => none

-- Sectors.

/-- The bytes of one run read at their source. -/
def State.readRun (s : State) (x : Site) (c : CopyDesc) (o : EngOp) (r : CopyRun) : State × Moved :=
  match s.elemFault x c r with
  | some (k, p) => (s, .bad k p)
  | none =>
    if c.fn == cpFill then
      (s, .ok ((List.range r.len).map fun i => BitVec.ofNat 8 (c.src.toNat / 2 ^ (8 * ((r.off + i) % 8)))))
    else
      match s.engReadAt x .ce (c.srcAt r) r.len with
      | (s1, .ok bs) =>
        if c.mayMeet then
          (s1, .ok ((List.range bs.length).map fun i =>
            s1.copyByte x c o (c.cnt * c.len + 1) (r.row * c.len + r.off + i) (bs.getD i 0)))
        else (s1, .ok bs)
      | m => m

/-- What reading one sector comes to: the runs at their destinations, with a fault or fill met on the way. -/
structure SectorIn where
  s : State
  runs : List (DWord × List Byte)
  stop : Option Moved

def SectorIn.bytes (i : SectorIn) : Nat := i.runs.foldl (fun n r => n + r.2.length) 0

/-- The sector at a position of a copy (R131): the run there, and the runs of later rows that fall in the same
destination sector; SCATTER keeps its elements apart. -/
def State.readSector (s : State) (x : Site) (c : CopyDesc) (o : EngOp) : Nat → Nat → Option Nat → SectorIn
  | 0, _, _ => ⟨s, [], none⟩
  | k + 1, pos, sector =>
    if c.len == 0 || decide (c.cnt * c.len ≤ pos) then ⟨s, [], none⟩
    else
      let row := pos / c.len
      let off := pos % c.len
      let idx := if c.fn == cpGather || c.fn == cpScatter then s.copyIdx x c row else (s, .ok [])
      match idx with
      | (s1, .ok ib) =>
        let at_ := c.dstAt ⟨row, ofBytes ib, off, 0⟩
        let len := min (c.len - off) (32 - ptrOff at_ % 32)
        let here := ptrOff at_ / 32
        if sector.any (· != here) || (sector.isSome && c.fn == cpScatter) then ⟨s, [], none⟩
        else
          match s1.readRun x c o ⟨row, ofBytes ib, off, len⟩ with
          | (s2, .ok bs) =>
            let i := s2.readSector x c o k (pos + len) (some here)
            ⟨i.s, (at_, bs) :: i.runs, i.stop⟩
          | (s2, m) => ⟨s2, [], some m⟩
      | (s1, m) => ⟨s1, [], some m⟩

/-- The next sector that a copy has not read. A sector is moved at one instant (R134): where a run of it finds a fill to wait for,
none of it is read yet. -/
def State.nextSector (s : State) (x : Site) (c : CopyDesc) (o : EngOp) : SectorIn :=
  let i := s.readSector x c o 33 (o.prog + o.got.foldl (fun n g => n + g.1) 0) none
  match i.stop with
  | some (.wait r g p) => ⟨(s.touch x p).1, [], some (.wait r g p)⟩
  | _ => i

/-- What writing one sector comes to: bytes moved, the places written, what stood there, with a fault or fill met on the way. -/
structure SectorOut where
  s : State
  moved : Nat
  foot : List (Nat × Nat)
  before : List (Nat × List Byte)
  stop : Option Moved

/-- Runs written at their destinations. -/
def State.writeRuns (s : State) (x : Site) (c : CopyDesc) : List (DWord × List Byte) → SectorOut
  | [] => ⟨s, 0, [], [], none⟩
  | (p, bs) :: r =>
    let old := s.noteBefore x c p bs.length
    match s.engWriteAt x .ce p bs with
    | (s1, .ok _) =>
      let o := s1.writeRuns x c r
      ⟨o.s, bs.length + o.moved, s1.footOf x p bs.length ++ o.foot, old ++ o.before, o.stop⟩
    | (s1, m) => ⟨s1, 0, [], [], some m⟩

/-- A sector written at one instant: where a later run of it finds a fill to wait for, none of it is written yet. -/
def State.writeSector (s : State) (x : Site) (c : CopyDesc) (runs : List (DWord × List Byte)) : SectorOut :=
  let o := s.writeRuns x c runs
  match o.stop with
  | some (.wait r g p) => if o.moved == 0 then o else ⟨(s.touch x p).1, 0, [], [], some (.wait r g p)⟩
  | _ => o

/-- An operation stopped by a fault, or held by a fill from an instant on (R33). -/
def EngOp.halted (o : EngOp) (m : Moved) (seq : Nat) : EngOp :=
  match m with
  | .bad c p => { o with fault := some (c.code, p) }
  | .wait r g p => { o with waitGran := some (r, g, p), arrival := seq }
  | .ok _ => o

def State.haltOp (s : State) (id : Nat) (m : Moved) : State := (s.modOp id (·.halted m s.seq)).tick

/-- The copy of an operation. -/
def EngOp.copy? (o : EngOp) : Option CopyDesc :=
  match o.kind with
  | .copy c => some c
  | .cpmx c _ => if o.copied then none else some c
  | _ => none

/-- A place interval joined to a footprint's last. -/
def addFoot (fs : List (Nat × Nat)) : List (Nat × Nat) → List (Nat × Nat)
  | [] => fs
  | f :: r =>
    match fs with
    | (a, b) :: t => if b + 1 == f.1 then addFoot ((a, f.2) :: t) r else addFoot (f :: fs) r
    | [] => addFoot [f] r

/-- A copy in progress that may move, with its site. -/
def State.liveCopy (s : State) (id : Nat) : Option (EngOp × CopyDesc × Site) :=
  (s.op? id).bind fun o => o.copy?.bind fun c => (s.opSite o).bind fun x =>
    if o.fault.isSome || !s.opLive o then none else some (o, c, x)

/-- One sector of a copy written (R131), one that it has read before or, without, the next: its operation's progress, fault
or wait. -/
def State.copyStep (s : State) (id : Nat) : State :=
  match s.liveCopy id with
  | none => s
  | some (o, c, x) =>
    let i : SectorIn := match o.got with
      | g :: _ => ⟨s, g.2, none⟩
      | [] => s.nextSector x c o
    let r := i.s.writeSector x c i.runs
    let s1 := r.s.modOp id fun y =>
      { y with started := true, prog := y.prog + r.moved, foot := addFoot y.foot r.foot, before := y.before ++ r.before,
               got := if r.stop.isSome then y.got else y.got.drop 1 }
    match r.stop.orElse fun _ => i.stop with
    | some m => s1.haltOp id m
    | none => s1

/-- The next sector of a copy read ahead of its write, each at an instant of its own (R117, R131, R133). -/
def State.readOn (s : State) (id : Nat) : State :=
  match s.liveCopy id with
  | none => s
  | some (o, c, x) =>
    let i := s.nextSector x c o
    if i.stop.isSome || i.runs.isEmpty then s
    else i.s.modOp id fun y => { y with started := true, got := y.got ++ [(i.bytes, i.runs)] }

/-- Whether a copy has nothing left to move. -/
def EngOp.copyDone (o : EngOp) (c : CopyDesc) : Bool := o.fault.isSome || decide (c.cnt * c.len ≤ o.prog)

/-- A copy moved to its end, or to a fill it waits for. -/
def State.copyRun (s : State) (id : Nat) : Nat → State
  | 0 => s
  | k + 1 =>
    match (s.op? id).bind fun o => o.copy?.map fun c => (o, c) with
    | none => s
    | some (o, c) => if o.copyDone c || !s.opLive o then s else (s.copyStep id).copyRun id k

/-- The footprint a join of a copy opens (R132): every line from the first to the last address, gaps between rows
included (log 18). -/
def copyFoot (c : CopyDesc) (fs : List (Nat × Nat)) : List (Nat × Nat) :=
  if ptrSpace c.dst == 0 && c.fn != cpScatter && decide (1 < c.cnt) && decide (c.len + 128 ≤ c.dstr) then [(0, 2 ^ 60)]
  else fs

/-- COPY_COMPLETE (R264, R265): the copy moves its last sector; a CPMX gives its copy permit back and its stream may
start, unless the copy faulted. -/
def execCopyComplete (id : Nat) (s : State) : Host.Outcome State Fault Refusal :=
  .next <|
    match (s.op? id).bind fun o => o.copy?.map fun c => (o, c) with
    | none => s
    | some (_, c) =>
      let s1 := s.copyRun id (c.cnt * c.len + 1)
      match s1.op? id with
      | none => s1
      | some o1 =>
        if !o1.copyDone c || !s1.opLive o1 then s1
        else
          let n := BitVec.ofNat 32 o1.prog
          let elems : Word := if c.fn == cpGather || c.fn == cpScatter then BitVec.ofNat 32 c.cnt else 0
          if o1.isCpmx && o1.fault.isNone then
            s1.modOp id fun y => { y with copied := true, prog := 0, started := false, foot := copyFoot c y.foot }
          else
            s1.finishOp { o1 with words := [n, elems], foot := copyFoot c o1.foot } o1.prog

-- Issue.

/-- A CP command (R255, R262 to R264). -/
def execCp (fn : Nat) (x : UE2) (s : State) : Host.Outcome State Fault Refusal :=
  engineCmd s [(x.e.toNat, 6), (x.f.toNat, 5)] fun w =>
    let b := w.block x.e.toNat 6 ++ w.block x.f.toNat 5
    let c := copyDesc fn b 0 6
    match s.copyFault w.site c (blkWord b 3) w.addr with
    | some (k, a) => s.faultAll w k a w.pc
    | none => s.pushCmd w (w.op .copy x.t.toNat (.copy c))

def execCpG2a (x : UE2) (s : State) : Host.Outcome State Fault Refusal := execCp 0 x s
def execCpA2g (x : UE2) (s : State) : Host.Outcome State Fault Refusal := execCp 1 x s
def execCpG2w (x : UE2) (s : State) : Host.Outcome State Fault Refusal := execCp 2 x s
def execCpA2a (x : UE2) (s : State) : Host.Outcome State Fault Refusal := execCp 3 x s
def execCpG2g (x : UE2) (s : State) : Host.Outcome State Fault Refusal := execCp 4 x s
def execCpGather (x : UE2) (s : State) : Host.Outcome State Fault Refusal := execCp 5 x s
def execCpScatter (x : UE2) (s : State) : Host.Outcome State Fault Refusal := execCp 6 x s
def execCpFill (x : UE2) (s : State) : Host.Outcome State Fault Refusal := execCp 7 x s

end Sys2Proof.Machine
end

