-- ==== Sys2Proof/Machine/MxMath.lean ====
section
/-!
DEFINITION. The matrix engine's arithmetic (04_data_formats.md R98 to R108, R407): block scales and their segments,
packed elements, the pass sums, sign selection, and readout.
-/
namespace Sys2Proof.Machine

-- Segments (R99).

/-- Nibble k of a slot, the low nibble of byte 0 first. -/
def nibbleAt (slot : List Byte) (k : Nat) : Nat := (slot.getD (k / 2) 0).toNat / 16 ^ (k % 2) % 16

/-- One link of the chain: the scale, the next position, whether the format was violated. -/
def scaleLink (slot : List Byte) (pos : Nat) (prev : Option Nat) : Nat × Nat × Bool :=
  if 32 ≤ pos then (0xFF, pos, true)
  else
    let n := nibbleAt slot pos
    if n == 8 then
      if 32 < pos + 3 then (0xFF, 32, true)
      else (nibbleAt slot (pos + 1) + 16 * nibbleAt slot (pos + 2), pos + 3, false)
    else
      match prev with
      | none => (0xFF, pos + 1, true)
      | some p =>
        let t := (p : Int) + sext 4 n
        if p == 0xFF || decide (t < 0) || decide (0xFE < t) then (0xFF, pos + 1, true) else (t.toNat, pos + 1, false)

/-- DecodeSegment from a position on: the scales of the next blocks, and whether FMT is set. -/
def decodeChain (slot : List Byte) : Nat → Nat → Option Nat → List Nat × Bool
  | 0, _, _ => ([], false)
  | k + 1, pos, prev =>
    let (x, pos', bad) := scaleLink slot pos prev
    let (xs, bad') := decodeChain slot k pos' (some x)
    (x :: xs, bad || bad')

/-- DecodeSegment (R99). -/
def decodeSegment (slot : List Byte) (nblocks : Nat) : List Nat × Bool := decodeChain slot nblocks 0 none

/-- The nibbles of a chain of scales as a readout writes it (R108). -/
def chainNibbles : Option Nat → List Nat → List Nat
  | _, [] => []
  | prev, x :: xs =>
    let d : Int := (x : Int) - (prev.getD 0 : Nat)
    let link :=
      if prev.isSome && prev != some 0xFF && x != 0xFF && decide (-7 ≤ d) && decide (d ≤ 7) then [toBits 4 d]
      else [8, x % 16, x / 16]
    link ++ chainNibbles (some x) xs

/-- The 16-byte slot of a segment; nibbles the chain does not need are zero. -/
def encodeSegment (scales : List Nat) : List Byte :=
  let ns := chainNibbles none scales
  (List.range 16).map fun i => BitVec.ofNat 8 (ns.getD (2 * i) 0 + 16 * ns.getD (2 * i + 1) 0)

-- Elements.

/-- Element i of a packed row (R93). -/
def packedAt (row bits i : Nat) : Nat := row / 2 ^ (bits * i) % 2 ^ bits

/-- The number a row of packed elements makes. -/
def packRow (bits : Nat) : List Nat → Nat
  | [] => 0
  | c :: cs => c % 2 ^ bits + 2 ^ bits * packRow bits cs

/-- An operand element: its value before its block scale, and the scale byte where it has one (R98). -/
structure Elem where
  v : FVal
  scale : Option Nat

/-- A value times 2^(E − 127); 0xFF makes it a NaN. -/
def scaleBy (e : Nat) (v : FVal) : FVal :=
  if e == 0xFF then .nan false
  else match v with
    | .fin n m x => .fin n m (x + e - 127)
    | v => v

/-- The value of an element with its scale applied. -/
def Elem.value (x : Elem) : FVal :=
  match x.scale with
  | none => x.v
  | some e => scaleBy e x.v

/-- The first k elements of a pass of n, from bit `off` of a row on, the first of which carries K index `k0` (R407): elements, and
whether FMT is set by a T2 code 0b10 (R94) or a bad chain of the blocks that touch the pass (R99). -/
def decodeLine (fmt : Nat) (row : Nat) (slot : List Byte) (off k0 n k : Nat) : List Elem × Bool :=
  let b := blockLen fmt
  let (scales, bad) := if b == 0 then ([], false) else decodeSegment slot ((k0 + n - 1) / b - k0 / b + 1)
  let base := row / 2 ^ off
  let es := (List.range k).map fun i =>
    let (v, t2) := elemValue fmt (packedAt base (fmtBits fmt) i)
    (Elem.mk v (if b == 0 then none else some (scales.getD ((k0 + i) / b - k0 / b) 0x7F)), t2)
  (es.map (·.1), bad || es.any (·.2))

-- Pairs (R102) and the K of a pass (R100).

/-- K of R100. -/
def kPerPass (wf af s : Nat) : Nat := 384 / max (s * fmtBits wf) (fmtBits af)

/-- Whether R102 pairs the formats. -/
def pairLegal (wf af : Nat) : Bool :=
  match fmtClass wf, fmtClass af with
  | .integer, .float => false
  | .float, .integer => false
  | _, _ => true

/-- Whether the pair's cells are I40. -/
def pairI40 (wf af : Nat) : Bool :=
  decide (wf < 0x10) && decide (af < 0x10) && fmtClass wf != .float && fmtClass af != .float

/-- Which operand supplies the ternary element: the weight, the activation, or neither (R106). -/
inductive Picks where
  | none | weight | activation
deriving DecidableEq, Repr

def pairPicks (wf af : Nat) : Picks :=
  if fmtClass wf == .ternary then .weight else if fmtClass af == .ternary then .activation else .none

/-- Sign selection's term (R106). -/
def selectTerm (t x : Elem) : FVal :=
  if t.scale == some 0xFF then .nan false
  else match t.v with
    | .fin neg m _ =>
      if m == 0 then .fin false 0 0
      else
        let y := match x.value with
          | .fin n k e => .fin (n != neg) k e
          | .inf n => .inf (n != neg)
          | .nan _ => .nan false
        match t.scale with
        | none => y
        | some e => scaleBy e y
    | v => v

/-- The term of one product, none where it is Inf × 0 (R104, R106). -/
def passTerm (p : Picks) (w a : Elem) : Option FVal :=
  match p with
  | .none => mulExact w.value a.value
  | .weight => some (selectTerm w a)
  | .activation => some (selectTerm a w)

-- The pass sum.

/-- What a pass writes to a cell: its 40 bits, whether it is a NaN, whether a generated one, whether MOF is set, whether
an I40 result clamped. -/
structure CellOut where
  code : Nat
  nan : Bool := false
  gen : Bool := false
  mof : Bool := false
  clamp : Bool := false
deriving DecidableEq, Repr

/-- Floor(Log2(|t|)) of a non-zero finite term. -/
def termLog : FVal → Option Int
  | .fin _ m e => if m == 0 then none else some (log2Dy m e)
  | _ => none

/-- The larger of two optional exponents. -/
def maxLog : Option Int → Option Int → Option Int
  | none, y => y
  | x, none => x
  | some x, some y => some (max x y)

/-- A term aligned to the grain 2^g: signed count of grains, and whether anything was lost. -/
def alignTerm (g : Int) : FVal → Int × Bool
  | .fin n m e =>
    let q := shrInt m (g - e)
    (if n then -(q : Int) else q, if e < g then m % 2 ^ (g - e).toNat != 0 else false)
  | _ => (0, false)

/-- Whether a term is −0. -/
def isNegZero : FVal → Bool
  | .fin n m _ => n && m == 0
  | _ => false

/-- FloatPass (R104). -/
def floatPass (terms : List (Option FVal)) : CellOut :=
  let ts := terms.filterMap id
  let nan := ts.any FVal.isNan
  let infs := ts.filterMap fun t => match t with
    | .inf n => some n
    | _ => none
  let gen := terms.any Option.isNone || (infs.contains true && infs.contains false)
  if nan || gen then { code := fmtF40.canonNan, nan := true, gen := !nan }
  else
    match infs with
    | n :: _ => { code := fmtF40.infCode n }
    | [] =>
      match ts.foldl (fun a t => maxLog a (termLog t)) none with
      | none => { code := if ts.all isNegZero then 2 ^ 39 else 0 }
      | some e =>
        let g := e - 64
        let (s, sticky) := ts.foldl (fun (a : Int × Bool) t =>
          let (q, lost) := alignTerm g t
          (a.1 + q, a.2 || lost)) (0, false)
        if s == 0 then { code := 0 }
        else
          let r := fmtF40.round .rne (decide (s < 0)) s.natAbs g sticky
          { code := r.code, mof := r.ovf }

/-- The integer an integer or ternary element stands for. -/
def intOf : FVal → Int
  | .fin n m _ => if n then -(m : Int) else m
  | _ => 0

/-- An I40 cell clamped (R105). -/
def clampI40 (s : Int) : CellOut :=
  let hi : Int := 2 ^ 39 - 1
  let lo : Int := -(2 ^ 39)
  if s < lo then { code := toBits 40 lo, mof := true, clamp := true }
  else if s > hi then { code := toBits 40 hi, mof := true, clamp := true }
  else { code := toBits 40 s }

/-- Pairs of two lists. -/
def zipElems : List Elem → List Elem → List (Elem × Elem)
  | x :: xs, y :: ys => (x, y) :: zipElems xs ys
  | _, _ => []

/-- One output cell of a pass (R104 to R106); `prior` is absent where the operation overwrites. -/
def cellPass (wf af : Nat) (ws xs : List Elem) (prior : Option Nat) : CellOut :=
  let prods := zipElems ws xs
  if pairI40 wf af then
    clampI40 ((prior.map (sext 40)).getD 0 + (prods.foldl (fun (a : Int) p => a + intOf p.1.v * intOf p.2.v) 0))
  else
    let terms := prods.map fun p => passTerm (pairPicks wf af) p.1 p.2
    floatPass (match prior with
      | none => terms
      | some c => terms ++ [some (fmtF40.value c)])

-- Readout (R107, R108).

/-- Mix32 (R107). -/
def mix32 (x : Nat) : Nat :=
  let x1 := x ^^^ (x / 2 ^ 16)
  let x2 := x1 * 0x7FEB352D % 2 ^ 32
  let x3 := x2 ^^^ (x2 / 2 ^ 15)
  let x4 := x3 * 0x846CA68B % 2 ^ 32
  x4 ^^^ (x4 / 2 ^ 16)

/-- The rounding of readout element (i, j): to nearest, or stochastic under a seed. -/
def readoutRm (seed : Option Nat) (i j : Nat) : Rm :=
  match seed with
  | none => .rne
  | some s => .sr (mix32 ((s ^^^ (i * 2 ^ 16 % 2 ^ 32)) ^^^ j) % 2 ^ 16)

/-- A cell's value times its column scale, and whether MNV is set. -/
def readoutValue (f40 : Bool) (cell : Nat) (scale : Option Nat) : FVal × Bool :=
  let v := if f40 then fmtF40.value cell
    else let x := sext 40 cell
      .fin (decide (x < 0)) x.natAbs 0
  match scale with
  | none => (v, false)
  | some c =>
    match mulExact v (fmtF32.value c) with
    | some y => (y, false)
    | none => (.nan false, true)

/-- emax of R108. -/
def scaleEmax (fmt : Nat) : Int :=
  match baseFmt fmt with
  | 0x06 => 2 | 0x07 => 2 | 0x01 => 2 | 0x08 => 4 | 0x09 => 8 | 0x0A => 15 | 0x03 => 6 | _ => 0

/-- Floor(Log2) of a readout magnitude, an infinity counted as the F40 largest. -/
def readoutLog : FVal → Option Int
  | .inf _ => some 127
  | v => termLog v

/-- The scale of one block of readout values (R108). -/
def blockScale (fmt : Nat) (vs : List FVal) : Nat :=
  if vs.any FVal.isNan then 0xFF
  else
    match vs.foldl (fun a v => maxLog a (readoutLog v)) none with
    | none => 0x7F
    | some l => (min (max (l - scaleEmax fmt + 127) 0) 0xFE).toNat

/-- The code of the largest finite value of a sign. -/
def largestCode (fmt : Nat) (neg : Bool) : Nat :=
  match floatFmt fmt with
  | some f => (if neg then 2 ^ (f.eb + f.mb) else 0) + f.maxMag
  | none => toBits (fmtBits fmt) (if neg then (intRange fmt).1 else (intRange fmt).2)

/-- One element of a readout: its code, flags, and whether it saturated. -/
structure OutElem where
  code : Nat
  flags : Word
  sat : Bool

/-- An element converted into an unscaled format (R97, R107). -/
def outPlain (fmt : Nat) (rm : Rm) (v : FVal) : OutElem :=
  let r := convertTo fmt rm v
  ⟨r.code, flagIf r.sat flMSAT ||| flagIf r.ovf flMOF ||| flagIf r.invalid flMNV, r.sat⟩

/-- An element of a block with a scale (R108). -/
def outScaled (fmt : Nat) (rm : Rm) (scale : Nat) (v : FVal) : OutElem :=
  if scale == 0xFF then ⟨0, 0, false⟩
  else
    match v with
    | .inf n => ⟨largestCode fmt n, flMSAT, true⟩
    | .fin n m e => outPlain fmt rm (.fin n m (e + 127 - scale))
    | .nan _ => ⟨0, 0, false⟩

/-- A list cut into pieces of n. -/
def chunks {α : Type} (n : Nat) : Nat → List α → List (List α)
  | 0, _ => []
  | k + 1, l => if l.isEmpty then [] else l.take n :: chunks n k (l.drop n)

/-- A readout row: the packed codes as a number, their bits, flags, saturations, and the slots of the row's segments. -/
structure OutRow where
  data : Nat
  bits : Nat
  flags : Word
  sats : Nat
  slots : List (List Byte)

/-- One row read out (R107, R108): cells, form, destination format, column scales, seed, row index. -/
def readoutRow (cells : List Nat) (f40 : Bool) (fmt : Nat) (scales : Option (List Nat)) (seed : Option Nat) (i : Nat) :
    OutRow :=
  let vals := (List.range cells.length).map fun j =>
    readoutValue f40 (cells.getD j 0) (scales.map fun s => s.getD j 0)
  let vs := vals.map (·.1)
  let b := blockLen fmt
  let bs := if b == 0 then [] else (chunks b cells.length vs).map (blockScale fmt)
  let es := (List.range cells.length).map fun j =>
    let v := vs.getD j (.fin false 0 0)
    let rm := readoutRm seed i j
    if b == 0 then outPlain fmt rm v else outScaled fmt rm (bs.getD (j / b) 0x7F) v
  let w := fmtBits fmt
  let perPass := 384 / w
  let slots :=
    if b == 0 then []
    else (List.range (ceilDiv cells.length perPass)).map fun q =>
      let first := q * perPass / b
      let last := (min ((q + 1) * perPass) cells.length - 1) / b
      encodeSegment ((bs.drop first).take (last - first + 1))
  { data := packRow w (es.map (·.code)), bits := w * cells.length,
    flags := es.foldl (fun a e => a ||| e.flags) (flagIf (vals.any (·.2)) flMNV),
    sats := (es.filter (·.sat)).length, slots := slots }

end Sys2Proof.Machine
end

