-- ==== Sys2Proof/Machine/Banks.lean ====
section
/-!
DEFINITION. Layout words (01_address_spaces.md R23), the accumulator banks and their counters (R21, R22, R113), and the
push-order view of banks and planes (10_control_thread_and_engine_instructions.md R259, R267, R271).
-/
namespace Sys2Proof.Machine

-- Layout words.

/-- A layout word's fields (R23). -/
structure Lay where
  space : Nat
  mode : Nat
  base : Nat
  s0 : Nat
  s1 : Nat

/-- The layout word in three block registers from i on. -/
def layOf (b : Block32) (i : Nat) : Lay :=
  ⟨bitsOf (blkWord b i) 27 25, bitsOf (blkWord b i) 31 28, bitsOf (blkWord b i) 24 0, bitsOf (blkWord b (i + 1)) 15 0,
    bitsOf (blkWord b (i + 1)) 31 16⟩

/-- The four checks of a layout word (R23) that a site names, with the spaces the operand admits. -/
def State.layOk (s : State) (x : Site) (b : Block32) (i : Nat) (spaces : List Nat) : Bool :=
  let l := layOf b i
  blkWord b (i + 2) / 2 ^ 16 == 0 && decide (1 ≤ l.space) && decide (l.space ≤ 4) && s.modeFits x l.space x.rank l.mode &&
    spaces.contains l.space

/-- The address a layout word gives its elements. -/
def Lay.at (l : Lay) (i0 i1 : Nat) : Nat := l.base + i0 * l.s0 + i1 * l.s1 * 128

/-- The pointer to an address of a space of the issuing core, or of CLS, under a bank mode. -/
def linPtr (sp mode rank a : Nat) : DWord :=
  mkPtr sp (if sp == 4 then 0 else rank) (if a < 2 ^ 28 then mode * 2 ^ 28 + a else a)

/-- The check of one byte of a footprint (R10); an address past every limit faults SPACE_FAULT. -/
def State.linFault (s : State) (x : Site) (e : Eng) (op : Acc) (sp mode a : Nat) : Option (Cause × DWord) :=
  let p := linPtr sp mode x.rank a
  if 2 ^ 28 ≤ a then some (.spaceFault, p) else (s.checkAccess x e op p 1).map fun c => (c, p)

/-- The first and last addresses of a footprint. -/
def State.linSpan (s : State) (x : Site) (e : Eng) (op : Acc) (sp mode first last : Nat) : Option (Cause × DWord) :=
  firstFault [s.linFault x e op sp mode first, s.linFault x e op sp mode last]

/-- n bytes read at an address of a space. -/
def State.linRead (s : State) (x : Site) (e : Eng) (sp mode a n : Nat) : State × Moved :=
  let p := linPtr sp mode x.rank a
  if 2 ^ 28 ≤ a then (s, .bad .spaceFault p) else s.engReadAt x e p n

/-- Bytes written at an address of a space. -/
def State.linWrite (s : State) (x : Site) (e : Eng) (sp mode a : Nat) (bs : List Byte) : State × Moved :=
  let p := linPtr sp mode x.rank a
  if 2 ^ 28 ≤ a then (s, .bad .spaceFault p) else s.engWriteAt x e p bs

-- Cells and banks.

/-- The pointer to a cell of the issuing core's CB (R21). -/
def cellPtr (rank bank row col : Nat) : DWord := mkPtr 3 rank (bank * 0x10000 + row * 0x400 + col * 8)

/-- The owner's quadrants at a site's core. -/
def State.siteOwned (s : State) (x : Site) : List Nat := s.ownedQuads x.core (s.ctxFn x.ctx)

/-- The place of a cell of the site's core. -/
def State.cellKey (s : State) (x : Site) (bank row col : Nat) : Nat :=
  cbKey (s.siteOwned x) x.core (bank * 0x10000 + row * 0x400 + col * 8)

/-- The bank counters' key of a logical bank. -/
def State.bankKey (s : State) (x : Site) (bank : Nat) : Nat := x.core * 16 + physBank (s.siteOwned x) bank

/-- A 32-bit counter that stops at its top (R113). -/
def satAdd (a n : Nat) : Nat := min (a + n) 0xFFFFFFFF

/-- SATI, SATO and NANW of a bank increased (R113). -/
def State.bumpBank (s : State) (x : Site) (bank sati sato nanw : Nat) : State :=
  if sati + sato + nanw == 0 then s
  else
    let f (c : Nat × Nat × Nat) : Nat × Nat × Nat := (satAdd c.1 sati, satAdd c.2.1 sato, satAdd c.2.2 nanw)
    { s with cbCount := tabMod s.cbCount (s.bankKey x bank) (0, 0, 0) f }

/-- A range of storage set to zero; the poison of every unit in it clears (R80). -/
def State.zeroRange (s : State) (k n : Nat) : State :=
  { s with mem := s.mem.filter fun c => !(decide (k ≤ c.1) && decide (c.1 < k + n)),
           poison := s.poison.filter fun p => !(decide (k ≤ p.1) && decide (p.1 + p.2 ≤ k + n)) }

/-- n of a mask's sectors set to zero from one on, 2,048 to a bank, in ascending order (R131). -/
def State.zeroSectors (s : State) (x : Site) (banks : List Nat) (i n : Nat) : State :=
  (List.range banks.length).foldl (fun (s : State) j =>
    let lo := max i (j * 2048)
    let hi := min (i + n) ((j + 1) * 2048)
    if lo < hi then s.zeroRange (s.cellKey x (banks.getD j 0) 0 0 + (lo - j * 2048) * 32) ((hi - lo) * 32) else s) s

/-- Every cell of a logical bank set to 0. -/
def State.zeroBank (s : State) (x : Site) (bank : Nat) : State := s.zeroRange (s.cellKey x bank 0 0) 0x10000

/-- The banks of a 16-bit mask, ascending. -/
def banksOf (mask : Nat) : List Nat := (List.range 16).filter (bitOf mask)

/-- A run of banks as a mask. -/
def bankRun (first n : Nat) : Nat := (2 ^ n - 1) * 2 ^ first

/-- The logical banks a block holds on a member's core, as a mask (R22). -/
def Block.bankMask (b : Block) (rank : Nat) : Nat :=
  b.cb.foldl (fun a e => if e.1 == rank then a ||| 2 ^ e.2 else a) 0

/-- Whether some resident block of the function holds a logical bank of a core. -/
def State.bankHeld (s : State) (fn core bank : Nat) : Bool :=
  s.blocks.any fun b =>
    b.pre != .swapped && ((s.grid? b.grid).map fun g => s.ctxFn g.ctx == fn).getD false &&
      b.cb.any fun e => b.coreOf e.1 == core && e.2 == bank

-- The push-order view.

/-- The banks that a TRYALLOC in flight has been granted. -/
def EngOp.tried (o : EngOp) : Nat :=
  match o.kind with
  | .tryAlloc m => if o.prog == 1 then m else 0
  | _ => 0

/-- The allocation that will stand for a pair once its earlier pushes have taken effect (R259); what a TRYALLOC was granted does
not count before its join. -/
def State.allocView (s : State) (b : Block) (rank quad : Nat) : Nat :=
  let tried := (s.pairOps b.id rank quad).foldl (fun m o => m ||| o.tried) (((b.pair? rank quad).map fun p => p.unjoined.foldl (fun m x => m ||| x.2) 0).getD 0)
  let now := b.bankMask rank &&& (0xFFFF ^^^ tried)
  (s.pairOps b.id rank quad).foldl (fun v o =>
    match o.kind with
    | .alloc m => v ||| m
    | .free m => v &&& (0xFFFF ^^^ m)
    | _ => v) now

/-- The lowest bank of a mask that the view does not hold faults ACCESS_CLASS (R22, R408). -/
def State.bankFault (s : State) (x : Site) (mask : Nat) : Option (Cause × DWord) :=
  ((banksOf mask).find? fun k => !bitOf (s.allocView x.blk x.rank x.quad) k).map fun k =>
    (.accessClass, cellPtr x.rank k 0 0)

/-- A plane's format and slice count. -/
abbrev PlaneFmt := Option (Nat × Nat)
def Plane.view (p : Plane) : Nat × Nat := (p.fmt, p.slices)

/-- The weight control of MX.LDS and MX.GROUPED (R266): format, slices, columns. -/
def wctl (c : Nat) : Nat × Nat × Nat := (bitsOf c 4 0, 2 ^ bitsOf c 6 5, bitsOf c 14 7)

/-- Whether a matrix operation's sequencer has swapped its planes already. -/
def viewMany (o : EngOp) (steps fmt sl : Nat) (a sh : PlaneFmt) : PlaneFmt × PlaneFmt :=
  if steps ≤ 1 then (if o.prog2 == 0 then (some (fmt, sl), a) else (a, sh)) else (some (fmt, sl), some (fmt, sl))

/-- The passes and panels of MX.TILE: P × Q. -/
def tileSteps (b : Block32) : Nat := ceilDiv (bitsOf (blkWord b 8) 15 0) 128 * bitsOf (blkWord b 8) 31 16

/-- The quadrants a refinement run of a pair binds, in push order (R291). -/
def Block.runMask (b : Block) (o : EngOp) : Nat := ((b.pair? o.rank o.quad).map (·.bindMask)).getD 0

/-- Whether a refinement run of a pair binds a quadrant. -/
def Block.runBinds (b : Block) (o : EngOp) (quad : Nat) : Bool := bitOf (b.runMask o) quad

/-- Whether an operation is a refinement run. -/
def EngOp.isRun (o : EngOp) : Bool :=
  match o.kind with
  | .rflRun _ => true
  | _ => false

/-- Whether an earlier refinement run holds a quadrant's matrix queue (R296). -/
def State.runHolds (s : State) (b : Block) (rank quad id : Nat) : Bool :=
  s.ops.any fun y => y.block == b.id && y.rank == rank && decide (y.id < id) && y.isRun && b.runBinds y quad

/-- The planes an operation leaves in the view (R259, R267, R269, R270, R296). -/
def planesAfter (b : Block) (quad : Nat) (v : PlaneFmt × PlaneFmt) (o : EngOp) : PlaneFmt × PlaneFmt :=
  match o.kind with
  | .lds e => if o.quad == quad then (v.1, some ((wctl (blkWord e 3)).1, (wctl (blkWord e 3)).2.1)) else v
  | .swap => if o.quad == quad && o.prog2 == 0 then (v.2, v.1) else v
  | .grouped e =>
    if o.quad == quad then viewMany o (blkWord e 5) (wctl (blkWord e 6)).1 (wctl (blkWord e 6)).2.1 v.1 v.2 else v
  | .tile e => if o.quad == quad then viewMany o (tileSteps e) (bitsOf (blkWord e 6) 9 5) 1 v.1 v.2 else v
  | .rflRun _ => if b.runBinds o quad then (none, none) else v
  | _ => v

/-- The physical quadrant of a pair of a block (R149, R372). -/
def State.quadOfPair (s : State) (b : Block) (rank quad : Nat) : Nat :=
  quadNo (b.coreOf rank) (s.physQuad (b.coreOf rank) (s.blockFn b) quad)

/-- A plane as a pair sees it: empty unless it has been loaded since its block was placed (R266). -/
def Pair.sees (p : Pair) (x : Option Plane) : Option Plane :=
  match x with
  | some y => if p.loadsFrom ≤ y.loadedAt then some y else none
  | none => none

/-- The active and the shadow plane of a pair's quadrant, as its block sees them (R266). -/
def State.planesOf (s : State) (b : Block) (rank quad : Nat) : Option Plane × Option Plane :=
  match b.pair? rank quad with
  | none => (none, none)
  | some p =>
    let h := s.quadHw (s.quadOfPair b rank quad)
    (p.sees h.active, p.sees h.shadow)

/-- The active plane of the push-order view. -/
def State.planeView (s : State) (b : Block) (rank quad : Nat) : PlaneFmt :=
  let p := s.planesOf b rank quad
  ((s.ops.filter fun o => o.block == b.id && o.rank == rank).foldl (planesAfter b quad)
    (p.1.map Plane.view, p.2.map Plane.view)).1

/-- The banks an operation names (R259). -/
def EngOp.banks (o : EngOp) : Nat :=
  match o.kind with
  | .alloc m => m
  | .tryAlloc m => m
  | .free m => m
  | .zero m => m
  | .rflRun m => m
  | .stream b => bankRun (bitsOf (blkWord b 3) 24 21) (let r := bitsOf (blkWord b 3) 28 25; if r == 0 then 16 else r)
  | .cpmx _ b => bankRun (bitsOf (blkWord b 3) 24 21) (let r := bitsOf (blkWord b 3) 28 25; if r == 0 then 16 else r)
  | .grouped b => bankRun (bitsOf (blkWord b 3) 24 21) (let r := bitsOf (blkWord b 3) 28 25; if r == 0 then 16 else r)
  | .tile b =>
    bankRun (bitsOf (blkWord b 6) 14 11) (ceilDiv (bitsOf (blkWord b 8) 15 0) 128 * ceilDiv (bitsOf (blkWord b 7) 12 0) 64)
  | .out b =>
    bankRun (bitsOf (blkWord b 0) 3 0) (ceilDiv (bitsOf (blkWord b 0) 9 4 + bitsOf (blkWord b 0) 20 10) 64)
  | _ => 0

/-- The bank interlock (R259, R296): no earlier-pushed operation of the pair that has not completed names a bank of this
one. -/
def State.interlock (s : State) (o : EngOp) : Bool :=
  (s.pairOps o.block o.rank o.quad).all fun y => decide (o.id ≤ y.id) || (y.banks &&& o.banks) == 0

/-- Whether no earlier operation stands in the same queue of the pair. -/
def State.queueHead (s : State) (o : EngOp) : Bool :=
  (s.pairOps o.block o.rank o.quad).all fun y => decide (o.id ≤ y.id) || y.queue != o.queue

end Sys2Proof.Machine
end

