-- ==== Sys2Proof/Machine/Matrix.lean ====
section
/-!
DEFINITION. The matrix engine (10_control_thread_and_engine_instructions.md R265 to R270, R407, R408; R104 to R106, R113,
R114, R131): issue checks, planes, rows, the sequencers of MX.GROUPED and MX.TILE, CPMX.
-/
namespace Sys2Proof.Machine

-- Issue checks (R408).

def scaled (fmt : Nat) : Bool := blockLen fmt != 0

/-- The alignment of a scale base (R408), that of a segment's slot (R99; DEDUCED, log 91). -/
def scaleOk (fmt base : Nat) : Bool := !scaled fmt || base % 16 == 0

/-- The weight control's limits (R101, R266). -/
def wctlOk (c : Nat) : Bool :=
  let (f, sl, n) := wctl c
  bitsOf c 6 5 != 3 && c / 2 ^ 15 == 0 && decide (1 ≤ n) && decide (n ≤ 128) && (sl == 1 || decide (fmtBits f ≤ 4))

/-- A stream's control word (R268): activation format, slice, M, ACC, first bank, run. -/
structure StreamCtl where
  af : Nat
  sel : Nat
  m : Nat
  acc : Bool
  first : Nat
  run : Nat

def streamCtl (c : Nat) : StreamCtl :=
  ⟨bitsOf c 4 0, bitsOf c 6 5, bitsOf c 19 7, bitOf c 20, bitsOf c 24 21, if bitsOf c 28 25 == 0 then 16 else bitsOf c 28 25⟩

def streamCtlOk (q c : Nat) (grouped : Bool) : Bool :=
  let t := streamCtl c
  c / 2 ^ 29 == 0 && (if grouped then t.m == 0 else decide (1 ≤ t.m) && decide (t.m ≤ 4096)) &&
    decide (t.first + t.run ≤ 4 * q)

/-- The footprint of n weight columns and their segments (R23, R266). -/
def State.weightSpan (s : State) (x : Site) (l : Lay) (fmt sl n sb ss : Nat) : Option (Cause × DWord) :=
  firstFault
    [ s.linSpan x .mxs .read 2 0 l.base (l.at (n - 1) 0 + 47),
      if scaled fmt then s.linSpan x .mxs .read 2 0 sb (sb + (n - 1) * ss + 16 * sl - 1) else none ]

/-- The checks of MX.LDS; bits 31:20 of the scale base are not looked at (DESIGN CHOICE, log 104). -/
def State.ldsFault (s : State) (x : Site) (b : Block32) (here : DWord) : Option (Cause × DWord) :=
  let (f, sl, n) := wctl (blkWord b 3)
  if !s.layOk x b 0 [2] || !wctlOk (blkWord b 3) || !scaleOk f (blkWord b 4 % 2 ^ 20) then some (.illegalOperand, here)
  else s.weightSpan x (layOf b 0) f sl n (blkWord b 4 % 2 ^ 20) (blkWord b 5)

/-- The checks of a stream, from its six registers. -/
def State.streamFault (s : State) (x : Site) (b : Block32) (here : DWord) : Option (Cause × DWord) :=
  let c := streamCtl (blkWord b 3)
  let q := s.ownQ x x.core
  let l := layOf b 0
  if !s.layOk x b 0 [1, 4] || !streamCtlOk q (blkWord b 3) false || !scaleOk c.af (blkWord b 4) then some (.illegalOperand, here)
  else
    match s.planeView x.blk x.rank x.quad with
    | none => some (.illegalOperand, here)
    | some (wf, sl) =>
      if sl ≤ c.sel then some (.illegalOperand, here)
      else if !pairLegal wf c.af then some (.formatPair, here)
      else
        firstFault
          [ s.linSpan x .mxa .read l.space l.mode l.base (l.at (c.m - 1) 0 + 47),
            if scaled c.af then
              s.linSpan x .mxa .read l.space 0 (blkWord b 4) (blkWord b 4 + (c.m - 1) * blkWord b 5 + 15)
            else none,
            s.bankFault x (bankRun c.first c.run) ]

/-- The checks of MX.GROUPED. -/
def State.groupedFault (s : State) (x : Site) (b : Block32) (here : DWord) : Option (Cause × DWord) :=
  let c := streamCtl (blkWord b 3)
  let q := s.ownQ x x.core
  let (wf, sl, _) := wctl (blkWord b 6)
  let g := blkWord b 5
  if !s.layOk x b 0 [1, 4] || !streamCtlOk q (blkWord b 3) true || blkWord b 4 % 32 != 0 || decide (g < 1) ||
      decide (1024 < g) || !wctlOk (blkWord b 6) || decide (sl ≤ c.sel) then
    some (.illegalOperand, here)
  else if !pairLegal wf c.af then some (.formatPair, here)
  else
    firstFault
      [ s.linSpan x .mxa .read 1 0 (blkWord b 4) (blkWord b 4 + 32 * g - 1), s.bankFault x (bankRun c.first c.run) ]

/-- MX.TILE's fields (R270). -/
structure TileCtl where
  af : Nat
  bf : Nat
  acc : Bool
  first : Nat
  m : Nat
  n : Nat
  q : Nat

def tileCtl (b : Block32) : TileCtl :=
  let c := blkWord b 6
  ⟨bitsOf c 4 0, bitsOf c 9 5, bitOf c 10, bitsOf c 14 11, blkWord b 7, bitsOf (blkWord b 8) 15 0, bitsOf (blkWord b 8) 31 16⟩

/-- The checks of MX.TILE. -/
def State.tileFault (s : State) (x : Site) (b : Block32) (here : DWord) : Option (Cause × DWord) :=
  let t := tileCtl b
  let q := s.ownQ x x.core
  let la := layOf b 0
  let lb := layOf b 3
  let banks := ceilDiv t.n 128 * ceilDiv t.m 64
  if !s.layOk x b 0 [1, 4] || !s.layOk x b 3 [2] || !scaleOk t.af (blkWord b 9) || !scaleOk t.bf (blkWord b 11) || blkWord b 6 / 2 ^ 15 != 0 || decide (t.m < 1) ||
      decide (4096 < t.m) || t.n == 0 || t.q == 0 || decide (4 * q < t.first + banks) then
    some (.illegalOperand, here)
  else if !pairLegal t.bf t.af then some (.formatPair, here)
  else
    firstFault
      [ s.linSpan x .mxa .read la.space la.mode la.base (la.at (t.m - 1) (t.q - 1) + 47),
        s.linSpan x .mxs .read 2 0 lb.base (lb.at (t.n - 1) (t.q - 1) + 47),
        if scaled t.af then
          s.linSpan x .mxa .read la.space 0 (blkWord b 9) (blkWord b 9 + (t.m - 1) * blkWord b 10 + 16 * (t.q - 1) + 15)
        else none,
        if scaled t.bf then
          s.linSpan x .mxs .read 2 0 (blkWord b 11) (blkWord b 11 + (t.n - 1) * blkWord b 12 + 16 * (t.q - 1) + 15)
        else none,
        s.bankFault x (bankRun t.first banks) ]

-- Planes.

/-- A list of reads made one after another, each with its number, until one does not succeed. -/
def State.readAll (s : State) (rd : State → Nat → State × Moved) : List Nat → State × Except Moved (List (Nat × List Byte))
  | [] => (s, .ok [])
  | i :: r =>
    match rd s i with
    | (s1, .ok bs) =>
      match s1.readAll rd r with
      | (s2, .ok l) => (s2, .ok ((i, bs) :: l))
      | o => o
    | (s1, m) => (s1, .error m)

/-- At most k of n reads that are still to be made, each at its own instant: those from `first` on come before the others,
since no order holds between elements and segments (R136). The reads made so far, each with its number, or what stopped one.
-/
def State.readParts (s : State) (rd : State → Nat → State × Moved) (n first : Nat) (got : List (Nat × List Byte)) (k : Nat) :
    State × Except Moved (List (Nat × List Byte)) :=
  let left := (List.range n).filter fun i => got.all fun p => p.1 != i
  match s.readAll rd ((left.filter (fun i => decide (first ≤ i)) ++ left.filter fun i => decide (i < first)).take k) with
  | (s1, .ok l) => (s1, .ok (got ++ l))
  | o => o

/-- The bytes of the read numbered i. -/
def partOf (got : List (Nat × List Byte)) (i : Nat) : List Byte := ((got.find? (·.1 == i)).map (·.2)).getD []

/-- What a plane is loaded from: layout, column offset and pass, format, slices, columns, the segments' base, stride and
first slot. -/
structure PlaneSrc where
  l : Lay
  col0 : Nat
  pass : Nat
  fmt : Nat
  slices : Nat
  n : Nat
  sb : Nat
  ss : Nat
  slot0 : Nat

/-- How many reads a plane takes: its columns' 48 bytes, and for a block-scaled format their segments (R136). -/
def PlaneSrc.parts (p : PlaneSrc) : Nat := p.n + if scaled p.fmt then p.n * p.slices else 0

/-- One of those reads: the columns in order, then their segments. -/
def State.planePart (s : State) (x : Site) (p : PlaneSrc) (i : Nat) : State × Moved :=
  if i < p.n then s.linRead x .mxs 2 0 (p.l.at (p.col0 + i) p.pass) 48
  else
    let k := i - p.n
    s.linRead x .mxs 2 0 (p.sb + (p.col0 + k / p.slices) * p.ss + 16 * (p.slot0 + k % p.slices)) 16

/-- A plane of what was read. Columns at or above N hold zeros with scale 0x7F, which no operation reads. -/
def PlaneSrc.plane (p : PlaneSrc) (got : List (Nat × List Byte)) (now : Nat) : Plane :=
  let reads := (List.range p.parts).map (partOf got)
  ⟨p.fmt, p.slices, p.n, reads.take p.n, chunks p.slices p.n (reads.drop p.n), false, now⟩

/-- At most k more reads of a plane from WB (R266), each at its own instant: what has been read, and the plane once it is
whole. -/
def State.readPlane (s : State) (x : Site) (p : PlaneSrc) (first : Nat) (got : List (Nat × List Byte)) (k : Nat) :
    State × Except Moved (List (Nat × List Byte) × Option Plane) :=
  match s.readParts (fun s i => s.planePart x p i) p.parts first got k with
  | (s1, .error m) => (s1, .error m)
  | (s1, .ok l) => (s1, .ok (l, if p.parts ≤ l.length then some (p.plane l s1.seq) else none))

-- Rows.

/-- What a row needs beside its plane: activation format, slice, the K index of its first weight and activation, the elements of
their passes (R407), whether it accumulates, where its activation bytes and segment lie, and the row's cells and index. -/
structure RowJob where
  af : Nat
  sel : Nat
  kw0 : Nat
  ka0 : Nat
  kw : Nat
  ka : Nat
  acc : Bool
  sp : Nat
  mode : Nat
  addr : Nat
  slot : Nat
  bank : Nat
  row : Nat
  index : Nat

/-- An operation stopped by a fault to which the spec gives no address: the address is a free value (log 21). -/
def State.stopNowhere (s : State) (id : Nat) (c : Cause) : State :=
  (s.modOp id fun o => { o with fault := some (c.code, Config.freeDWord s.fresh) }).fresh1

/-- The cells a row writes: for each column of the plane its result and whether FMT was raised. -/
def rowCells (pl : Plane) (j : RowJob) (xs : List Elem) (priors : List (Option Nat)) : List (CellOut × Bool) :=
  let k := kPerPass pl.fmt j.af pl.slices
  (List.range pl.n).map fun c =>
    let (ws, bad) := decodeLine pl.fmt (ofBytes (pl.cols.getD c [])) ((pl.scales.getD c []).getD j.sel [])
      (j.sel * (384 / pl.slices)) j.kw0 j.kw k
    (cellPass pl.fmt j.af ws xs (priors.getD c none), bad)

/-- A row's cells by sectors: the place of the first of four, and their bytes. -/
def cellSectors (base : Nat) (codes : List Nat) : List (Nat × Nat × List Byte) :=
  (List.range (ceilDiv codes.length 4)).map fun i =>
    (0, base + 32 * i, ((codes.drop (4 * i)).take 4).flatMap (toBytes 5))

/-- A row computed (R268): its cells are to be written by sectors; its clamps and NaN cells counted (R113), its flags and the
first NaN gathered (R114). -/
def State.putRow (s : State) (x : Site) (id : Nat) (j : RowJob) (fmtBad : Bool) (cells : List (CellOut × Bool)) : State :=
  let count (p : CellOut → Bool) : Nat := (cells.filter fun c => p c.1).length
  let s1 := s.bumpBank x j.bank (count (·.clamp)) 0 (count (·.nan))
  let fl := flagIf (cells.any (·.1.gen)) flMNV ||| flagIf (cells.any (·.1.mof)) flMOF |||
    flagIf (fmtBad || cells.any (·.2)) flFMT
  let first := (indexWhere cells (·.1.nan)).map fun c =>
    (⟨j.index, c, ((cells.map (·.1.gen)).getD c false)⟩ : NanRec)
  (s1.modOp id fun o =>
    { o with flags := o.flags ||| fl, nan := if o.mxnan && o.nan.isNone then first else o.nan,
             rowOut := cellSectors (s.cellKey x j.bank j.row 0) (cells.map (·.1.code)) }).tick

/-- The cells of one sector written. -/
def State.putCells (s : State) (k : Nat) (bs : List Byte) : State :=
  (List.range (ceilDiv bs.length 5)).foldl (fun (s : State) i => s.writeMem (k + 8 * i) ((bs.drop (5 * i)).take 5)) s

/-- At most k sectors of a computed row written, each at its own instant (R131); with the last the row is done. -/
def State.writeRow (s : State) (id k : Nat) : State :=
  match s.op? id with
  | none => s
  | some o =>
    if o.rowOut.isEmpty then s
    else
      let rest := o.rowOut.drop k
      let prog := if rest.isEmpty then o.prog + 1 else o.prog
      (((o.rowOut.take k).foldl (fun (s : State) (e : Nat × Nat × List Byte) => s.putCells e.2.1 e.2.2) s).modOp id fun y =>
        { y with rowOut := rest, rowIn := [], prog := prog }).tick

/-- A row computed from its bytes and its segment: the prior cells are read first. -/
def State.computeRow (s : State) (x : Site) (id : Nat) (pl : Plane) (j : RowJob) (bs slot : List Byte) : State :=
  let p0 := cellPtr x.rank j.bank j.row 0
  match s.checkAccess x .mxc .write p0 8 with
  | some c => s.haltOp id (.bad c p0)
  | none =>
    let base := s.cellKey x j.bank j.row 0
    match (if j.acc then (List.range pl.n).find? fun c => s.poisoned (base + 8 * c) 5 else none) with
    | some c => s.haltOp id (.bad .engineFault (cellPtr x.rank j.bank j.row c))
    | none =>
      let (xs, bad) := decodeLine j.af (ofBytes bs) slot 0 j.ka0 j.ka (kPerPass pl.fmt j.af pl.slices)
      let priors := (List.range pl.n).map fun c => if j.acc then some (ofBytes (s.readMem (base + 8 * c) 5)) else none
      s.putRow x id j bad (rowCells pl j xs priors)

/-- One of the two reads of a row: its elements, or its segment. -/
def State.rowPart (s : State) (x : Site) (j : RowJob) (i : Nat) : State × Moved :=
  if i == 0 then s.linRead x .mxa j.sp j.mode j.addr 48 else s.linRead x .mxa j.sp 0 j.slot 16

/-- One activation row through a plane (R268): its elements and its segment, each at an instant of its own (R136), its cells;
at most k instants of it. -/
def State.streamRow (s : State) (x : Site) (o : EngOp) (pl : Plane) (j : RowJob) (k : Nat) : State :=
  if pl.poisoned then s.stopNowhere o.id .engineFault
  else
    let n := if scaled j.af then 2 else 1
    match s.readParts (fun s i => s.rowPart x j i) n o.partFirst o.rowIn k with
    | (s1, .ok got) =>
      if got.length < n then (s1.modOp o.id fun y => { y with rowIn := got }).tick
      else
        let s2 := s1.computeRow x o.id pl j (partOf got 0) (partOf got 1)
        if k ≤ 1 then s2 else s2.writeRow o.id k
    | (s1, .error m) => s1.haltOp o.id m

/-- What stands in the planes of an operation's quadrant, whichever block loaded it. -/
def State.rawPlanes (s : State) (x : Site) : Option Plane × Option Plane :=
  let h := s.quadHw (s.quadOfPair x.blk x.rank x.quad)
  (h.active, h.shadow)

/-- The planes of an operation's quadrant changed (R266). -/
def State.setPlanes (s : State) (x : Site) (a sh : Option Plane) : State :=
  s.modQuadHw (s.quadOfPair x.blk x.rank x.quad) fun h => { h with active := a, shadow := sh }

/-- A plane loaded into the shadow (R266). -/
def State.loadShadow (s : State) (x : Site) (pl : Plane) : State := (s.setPlanes x (s.rawPlanes x).1 (some pl)).tick

/-- The exchange of the two planes (R267). -/
def State.swapPlanes (s : State) (x : Site) : State := s.setPlanes x (s.rawPlanes x).2 (s.rawPlanes x).1

/-- K index of a slice's first element (R407). -/
def sliceK (pl : Plane) (sel : Nat) : Nat := sel * (384 / (pl.slices * fmtBits pl.fmt))

/-- The row job of a stream. -/
def streamJob (pl : Plane) (b : Block32) (m slot : Nat) : RowJob :=
  let c := streamCtl (blkWord b 3)
  let l := layOf b 0
  { af := c.af, sel := c.sel, kw0 := sliceK pl c.sel, ka0 := 0, kw := 384 / (pl.slices * fmtBits pl.fmt),
    ka := 384 / fmtBits c.af, acc := c.acc, sp := l.space, mode := l.mode, addr := l.at m 0, slot := slot, bank := c.first + m / 64 % c.run, row := m % 64, index := m }

/-- The row job of a tile's step (p, q), row m (R270). -/
def tileJob (pl : Plane) (b : Block32) (p q m : Nat) : RowJob :=
  let t := tileCtl b
  let l := layOf b 0
  let k := kPerPass pl.fmt t.af 1
  { af := t.af, sel := 0, kw0 := q * k, ka0 := q * k, kw := k, ka := k, acc := t.acc || q != 0, sp := l.space, mode := l.mode,
    addr := l.at m q, slot := blkWord b 9 + m * blkWord b 10 + 16 * q,
    bank := t.first + p * ceilDiv t.m 64 + m / 64, row := m % 64, index := p * t.m + m }

-- The operations' steps.

/-- The active plane of an operation's quadrant, as its block sees it. -/
def State.activePlane (s : State) (o : EngOp) : Option Plane :=
  (s.block? o.block).bind fun b => (s.planesOf b o.rank o.quad).1

/-- A row through the active plane; an operation that finds none there faults ILLEGAL_OPERAND (R267). -/
def State.throughActive (s : State) (x : Site) (o : EngOp) (k : Nat) (job : Plane → RowJob) : State :=
  match s.activePlane o with
  | none => s.stopNowhere o.id .illegalOperand
  | some pl => s.streamRow x o pl (job pl) k

/-- MX.LDS (R266): at most k of its reads, and with the last the shadow plane. -/
def State.ldsStep (s : State) (x : Site) (o : EngOp) (b : Block32) (k : Nat) : State :=
  let (f, sl, n) := wctl (blkWord b 3)
  match s.readPlane x ⟨layOf b 0, 0, 0, f, sl, n, blkWord b 4 % 2 ^ 20, blkWord b 5, 0⟩ o.partFirst o.planeIn k with
  | (s1, .ok (_, some pl)) => (s1.loadShadow x pl).modOp o.id fun y => { y with prog2 := 1, planeIn := [] }
  | (s1, .ok (l, none)) => (s1.modOp o.id fun y => { y with planeIn := l }).tick
  | (s1, .error m) => s1.haltOp o.id m

/-- MX.SWAP's exchange (R267). -/
def State.swapStep (s : State) (x : Site) (o : EngOp) : State :=
  (s.swapPlanes x).modOp o.id fun y => { y with prog2 := 1 }

/-- The check of one entry of MX.GROUPED's table, a bad one of which is recorded at `at_`, and of the group's footprints
(R269). -/
def State.entryFault (s : State) (x : Site) (b : Block32) (e : List Byte) (at_ : DWord) (m : Nat) :
    Option (Cause × DWord) :=
  let w (i : Nat) : Nat := ofBytes ((e.drop (4 * i)).take 4)
  let eb : Block32 := [BitVec.ofNat 32 (w 1), BitVec.ofNat 32 (w 2), BitVec.ofNat 32 (w 3)]
  let rows := w 0
  let (wf, sl, n) := wctl (blkWord b 6)
  let c := streamCtl (blkWord b 3)
  let l := layOf b 0
  if decide (4096 < rows) || w 6 != 0 || w 7 != 0 || !s.layOk x eb 0 [2] then some (.illegalOperand, at_)
  else
    firstFault
      [ s.weightSpan x (layOf eb 0) wf sl n (w 4 % 2 ^ 20) (blkWord b 7),
        if rows == 0 then none else s.linSpan x .mxa .read l.space l.mode (l.at m 0) (l.at (m + rows - 1) 0 + 47),
        if rows == 0 || !scaled c.af then none
        else s.linSpan x .mxa .read l.space 0 (w 5) (w 5 + (rows - 1) * blkWord b 8 + 15) ]

/-- The words of a table entry (R269). -/
def entryWord (e : List Byte) (i : Nat) : Nat := ofBytes ((e.drop (4 * i)).take 4)
/-- The rows of an entry's group and its activation scale base. -/
def entryRows (e : List Byte) : Nat × Nat := (entryWord e 0, entryWord e 5)
/-- Where an entry's weights lie; bits 31:20 of its scale base are not looked at (DESIGN CHOICE, log 104). -/
def entryPlane (b : Block32) (e : List Byte) : PlaneSrc :=
  let (wf, sl, n) := wctl (blkWord b 6)
  let eb : Block32 := [BitVec.ofNat 32 (entryWord e 1), BitVec.ofNat 32 (entryWord e 2), BitVec.ofNat 32 (entryWord e 3)]
  ⟨layOf eb 0, 0, 0, wf, sl, n, entryWord e 4 % 2 ^ 20, blkWord b 7, 0⟩

/-- The sequencer reads the next group's entry and checks it for a first row m. A bad one has a free value for its address
(log 21). -/
def State.readEntry (s : State) (x : Site) (o : EngOp) (b : Block32) (m : Nat) : State × Except Moved (List Byte) :=
  match s.linRead x .mxa 1 0 (blkWord b 4 + 32 * o.prog2) 32 with
  | (s1, .ok e) =>
    match s1.entryFault x b e (Config.freeDWord s1.fresh) m with
    | some (c, p) => (s1.fresh1, .error (.bad c p))
    | none => (s1, .ok e)
  | (s1, mv) => (s1, .error mv)

/-- The sequencer reads and checks the next group's entry and loads its weights into the shadow plane (R269), at most k reads of
them: the group's rows and its activation scale base once they are whole, or what stopped it. -/
def State.groupLoad (s : State) (x : Site) (o : EngOp) (b : Block32) (m k : Nat) : State × Except Moved (Option (Nat × Nat)) :=
  match (match o.planeIn with
    | (_, e) :: _ => (s, Except.ok e)
    | [] => s.readEntry x o b m) with
  | (s1, .error mv) => (s1, .error mv)
  | (s1, .ok e) =>
    match s1.readPlane x (entryPlane b e) o.partFirst (o.planeIn.drop 1) k with
    | (s2, .ok (_, some pl)) => ((s2.loadShadow x pl).modOp o.id fun y => { y with planeIn := [] }, .ok (some (entryRows e)))
    | (s2, .ok (l, none)) => ((s2.modOp o.id fun y => { y with planeIn := (0, e) :: l }).tick, .ok none)
    | (s2, .error mv) => (s2, .error mv)

/-- The sequencer goes on to its next group: its weights, loaded now or ahead, are swapped in (R269). The working values
are the group's rows, its activation scale base and its first row, and those of a group loaded ahead. -/
def State.groupStep (s : State) (x : Site) (o : EngOp) (b : Block32) (k : Nat) : State :=
  let m := o.prog
  match o.aux.drop 3 with
  | [r, a] => (s.swapPlanes x).modOp o.id fun y => { y with prog2 := y.prog2 + 1, aux := [r, a, m] }
  | _ =>
    match s.groupLoad x o b m k with
    | (s1, .ok (some (r, a))) => (s1.swapPlanes x).modOp o.id fun y => { y with prog2 := y.prog2 + 1, aux := [r, a, m] }
    | (s1, .ok none) => s1
    | (s1, .error mv) => s1.haltOp o.id mv

/-- Whether a grouped operation has streamed the rows of the group it has reached. -/
def EngOp.groupDone (o : EngOp) : Bool := decide (o.aux.getD 2 0 + o.aux.getD 0 0 ≤ o.prog)

/-- Where B's columns of a tile's next (panel, pass) lie (R270). -/
def tilePlane (b : Block32) (step : Nat) : PlaneSrc :=
  let t := tileCtl b
  let p := step / t.q
  let q := step % t.q
  ⟨layOf b 3, 128 * p, q, t.bf, 1, min 128 (t.n - 128 * p), blkWord b 11, blkWord b 12, q⟩

/-- At most k reads of them: whether they stand in the shadow plane. -/
def State.tileLoad (s : State) (x : Site) (o : EngOp) (b : Block32) (k : Nat) : State × Except Moved Bool :=
  match s.readPlane x (tilePlane b o.prog2) o.partFirst o.planeIn k with
  | (s1, .ok (_, some pl)) => ((s1.loadShadow x pl).modOp o.id fun y => { y with planeIn := [] }, .ok true)
  | (s1, .ok (l, none)) => ((s1.modOp o.id fun y => { y with planeIn := l }).tick, .ok false)
  | (s1, .error m) => (s1, .error m)

/-- A tile's step begins: its columns, loaded now or ahead, are swapped in (R270). -/
def State.tileStep (s : State) (x : Site) (o : EngOp) (b : Block32) (k : Nat) : State :=
  match o.aux with
  | [_] => (s.swapPlanes x).modOp o.id fun y => { y with prog2 := y.prog2 + 1, aux := [] }
  | _ =>
    match s.tileLoad x o b k with
    | (s1, .ok true) => (s1.swapPlanes x).modOp o.id fun y => { y with prog2 := y.prog2 + 1 }
    | (s1, .ok false) => s1
    | (s1, .error m) => s1.haltOp o.id m

/-- One read of the next group's or step's weights while the one before still streams (R269, R270; log 73). A read that
would stop the operation is left to the step itself, which comes after the rows before it. -/
def State.loadAhead (s : State) (id : Nat) : State :=
  match (s.op? id).bind fun o => (s.opSite o).map fun x => (o, x) with
  | none => s
  | some (o, x) =>
    if !o.started || o.fault.isSome || o.stop || !s.opLive o || o.prog2 == 0 then s
    else
      match o.kind with
      | .grouped b =>
        if o.prog2 < blkWord b 5 && o.aux.length == 3 then
          match s.groupLoad x o b (o.aux.getD 2 0 + o.aux.getD 0 0) 1 with
          | (s1, .ok (some (r, a))) => s1.modOp id fun y => { y with aux := y.aux ++ [r, a] }
          | (s1, .ok none) => s1
          | _ => s
        else s
      | .tile b =>
        if o.prog2 < tileSteps b && o.aux.isEmpty then
          match s.tileLoad x o b 1 with
          | (s1, .ok true) => s1.modOp id fun y => { y with aux := [1] }
          | (s1, .ok false) => s1
          | _ => s
        else s
      | _ => s

/-- Whether a matrix operation has nothing left to do. -/
def EngOp.mxDone (o : EngOp) : Bool :=
  o.fault.isSome || o.stop ||
  match o.kind with
  | .lds _ => o.prog2 == 1
  | .swap => o.prog2 == 1
  | .stream b => decide (bitsOf (blkWord b 3) 19 7 ≤ o.prog)
  | .cpmx _ b => o.copied && decide (bitsOf (blkWord b 3) 19 7 ≤ o.prog)
  | .grouped b => decide (blkWord b 5 ≤ o.prog2) && o.groupDone
  | .tile b => decide (tileSteps b * blkWord b 7 ≤ o.prog)
  | _ => true

/-- One step of a started matrix operation (R131, R281), of at most k instants: reads of a plane, an exchange, an entry,
reads of a row, or its sectors. -/
def State.mxStep (s : State) (id k : Nat) : State :=
  match (s.op? id).bind fun o => (s.opSite o).map fun x => (o, x) with
  | none => s
  | some (o, x) =>
    if !o.started || o.mxDone || !s.opLive o then s
    else if !o.rowOut.isEmpty then s.writeRow id k
    else
      match o.kind with
      | .lds b => s.ldsStep x o b k
      | .swap => s.swapStep x o
      | .stream b =>
        s.throughActive x o k fun pl => streamJob pl b o.prog (blkWord b 4 + o.prog * blkWord b 5)
      | .cpmx _ b =>
        if !o.copied then s
        else s.throughActive x o k fun pl => streamJob pl b o.prog (blkWord b 4 + o.prog * blkWord b 5)
      | .grouped b =>
        if o.prog2 == 0 || o.groupDone then s.groupStep x o b k
        else s.throughActive x o k fun pl =>
          streamJob pl b o.prog (o.aux.getD 1 0 + (o.prog - o.aux.getD 2 0) * blkWord b 8)
      | .tile b =>
        if o.prog == o.prog2 * blkWord b 7 then s.tileStep x o b k
        else s.throughActive x o k fun pl =>
          tileJob pl b ((o.prog2 - 1) / (tileCtl b).q) ((o.prog2 - 1) % (tileCtl b).q) (o.prog % blkWord b 7)
      | _ => s

/-- More instants than a step takes: a plane's 640 reads. -/
def wholeStep : Nat := 1024

/-- An operation's steps, each whole, until it is done or waits. -/
def State.mxRun (s : State) (id : Nat) : Nat → State
  | 0 => s
  | k + 1 =>
    match s.op? id with
    | none => s
    | some o => if !o.started || o.mxDone || !s.opLive o then s else (s.mxStep id wholeStep).mxRun id k

/-- Steps enough for any matrix operation of these operands. -/
def EngOp.mxFuel (o : EngOp) : Nat :=
  match o.kind with
  | .grouped b => blkWord b 5 * 4097 + 4
  | .tile b => tileSteps b * (blkWord b 7 + 1) + 4
  | _ => 4100

def EngOp.isStream (o : EngOp) : Bool :=
  match o.kind with
  | .stream _ => true
  | .cpmx _ _ => o.copied
  | _ => false

def EngOp.isLds (o : EngOp) : Bool :=
  match o.kind with
  | .lds _ => true
  | _ => false

/-- Whether a stream has read its last row (R259). -/
def EngOp.rowsRead (o : EngOp) : Bool :=
  let n := o.prog + if o.rowOut.isEmpty then 0 else 1
  o.started && match o.kind with
    | .stream b => decide (bitsOf (blkWord b 3) 19 7 ≤ n)
    | .cpmx _ b => o.copied && decide (bitsOf (blkWord b 3) 19 7 ≤ n)
    | .grouped b => decide (blkWord b 5 ≤ o.prog2) && decide (o.aux.getD 2 0 + o.aux.getD 0 0 ≤ n)
    | .tile b => decide (tileSteps b * blkWord b 7 ≤ n)
    | _ => false

def EngOp.isSwap (o : EngOp) : Bool :=
  match o.kind with
  | .swap => true
  | _ => false

/-- Whether a matrix operation may start (R259, R265): its copy is done, the earlier ones of its queue are complete (a
load passes a stream that runs, an exchange one that has read its last row), no refinement run stands before it (R296), and no
earlier operation holds its banks. -/
def State.mxReady (s : State) (o : EngOp) : Bool :=
  o.queue == .matrix && !o.started && s.opLive o && (!o.isCpmx || o.copied) && s.interlock o &&
    ((s.pairOps o.block o.rank o.quad).all fun y =>
      decide (o.id ≤ y.id) || y.queue != .matrix || (o.isLds && y.isStream && y.started) || (o.isSwap && y.rowsRead)) &&
    !((s.block? o.block).map fun b => s.runHolds b o.rank o.quad o.id).getD false

/-- MATRIX_OPERATION_START (R259, R265). -/
def execMatrixOperationStart (id : Nat) (s : State) : Host.Outcome State Fault Refusal :=
  .next <|
    match s.op? id with
    | none => s
    | some o => if s.mxReady o then s.modOp id fun y => { y with started := true } else s

/-- GROUPED_ENTRY_REACHED (R269): the sequencer of a started operation goes on to its next entry. -/
def execGroupedEntryReached (id : Nat) (s : State) : Host.Outcome State Fault Refusal :=
  .next <|
    match s.op? id with
    | none => s
    | some o =>
      match o.kind with
      | .grouped _ => if o.prog2 == 0 || o.groupDone then s.mxStep id wholeStep else s
      | _ => s

/-- TILE_STEP (R270): a started tile begins its next (panel, pass). -/
def execTileStep (id : Nat) (s : State) : Host.Outcome State Fault Refusal :=
  .next <|
    match s.op? id with
    | none => s
    | some o =>
      match o.kind with
      | .tile b => if o.prog == o.prog2 * blkWord b 7 then s.mxStep id wholeStep else s
      | _ => s

/-- The NaN record of word 3 (R256). -/
def nanWord (n : Option NanRec) : Word :=
  match n with
  | none => 0
  | some r =>
    BitVec.ofNat 32 (r.row % 2 ^ 16 + r.col % 128 * 2 ^ 16 + (if r.generated then 2 ^ 23 else 0) +
      r.row / 2 ^ 16 % 128 * 2 ^ 24 + 2 ^ 31)

/-- Word 4 of a matrix record (R256). -/
def mxFnWord (k : OpKind) : Word :=
  match k with
  | .lds _ => 0
  | .swap => 1
  | .grouped _ => 3
  | .tile _ => 4
  | .cpmx c _ => BitVec.ofNat 32 (2 + 8 + c.fn * 16)
  | _ => 2

/-- A matrix operation completed, its record's words filled (R256): the progress of a fault is groups for MX.GROUPED,
bytes for a CPMX whose copy failed, else rows. -/
def State.mxFinish (s : State) (o : EngOp) : State :=
  let progress :=
    match o.kind with
    | .grouped _ => if o.groupDone && o.prog2 != 0 then o.prog2 else o.prog2 - 1
    | _ => o.prog
  s.finishOp { o with words := [BitVec.ofNat 32 o.prog, nanWord o.nan, mxFnWord o.kind] } progress

/-- MATRIX_OPERATION_COMPLETE (R256, R268): a started operation runs to its end and completes. -/
def execMatrixOperationComplete (id : Nat) (s : State) : Host.Outcome State Fault Refusal :=
  .next <|
    match s.op? id with
    | none => s
    | some o =>
      let s1 := s.mxRun id o.mxFuel
      match s1.op? id with
      | none => s1
      | some o1 => if o1.queue == .matrix && o1.started && o1.mxDone && s1.opLive o1 then s1.mxFinish o1 else s1

-- Issue.

/-- An engine command with one block: its checks, then its push. -/
def execBlockCmd (e n : Nat) (fault : State → Site → Block32 → DWord → Option (Cause × DWord)) (q : EngQ) (tag : Nat)
    (k : Block32 → OpKind) (s : State) : Host.Outcome State Fault Refusal :=
  engineCmd s [(e, n)] fun w =>
    let b := w.block e n
    match fault s w.site b w.addr with
    | some (c, a) => s.faultAll w c a w.pc
    | none => s.pushCmd w (w.op q tag (k b))

def execMxLds (x : UE1) (s : State) : Host.Outcome State Fault Refusal :=
  execBlockCmd x.e.toNat 6 State.ldsFault .matrix x.t.toNat .lds s
def execMxSwap (x : UE0) (s : State) : Host.Outcome State Fault Refusal :=
  engineCmd s [] fun w => s.pushCmd w (w.op .matrix x.t.toNat .swap)
def execMxStream (x : UE1) (s : State) : Host.Outcome State Fault Refusal :=
  execBlockCmd x.e.toNat 6 State.streamFault .matrix x.t.toNat .stream s
def execMxGrouped (x : UE1) (s : State) : Host.Outcome State Fault Refusal :=
  execBlockCmd x.e.toNat 9 State.groupedFault .matrix x.t.toNat .grouped s
def execMxTile (x : UE1) (s : State) : Host.Outcome State Fault Refusal :=
  execBlockCmd x.e.toNat 13 State.tileFault .matrix x.t.toNat .tile s

/-- The destinations a CPMX admits (R265): AB of the issuing core, or CLS. -/
def cpmxDst (x : Site) (p : DWord) : Bool := ptrSpace p == 4 || (ptrSpace p == 1 && ptrRank p == x.rank)

/-- The checks of a CPMX (R265, R408): the copy's, then the stream's. -/
def State.cpmxFault (s : State) (x : Site) (fn : Nat) (cb sb : Block32) (here : DWord) : Option (Cause × DWord) :=
  let c := copyDesc fn cb 0 6
  if !cpmxDst x c.dst then some (.illegalOperand, here)
  else firstFault [s.copyFault x c (blkWord cb 3) here, s.streamFault x sb here]

/-- A CPMX command (R255, R265). -/
def execCpmx (fn : Nat) (x : UE2) (s : State) : Host.Outcome State Fault Refusal :=
  engineCmd s [(x.e.toNat, 11), (x.f.toNat, 6)] fun w =>
    let cb := w.block x.e.toNat 11
    let sb := w.block x.f.toNat 6
    match s.cpmxFault w.site fn cb sb w.addr with
    | some (c, a) => s.faultAll w c a w.pc
    | none => s.pushCmd w (w.op .matrix x.t.toNat (.cpmx (copyDesc fn cb 0 6) sb))

def execCpmxG2a (x : UE2) (s : State) : Host.Outcome State Fault Refusal := execCpmx 0 x s
def execCpmxA2a (x : UE2) (s : State) : Host.Outcome State Fault Refusal := execCpmx 3 x s
def execCpmxGather (x : UE2) (s : State) : Host.Outcome State Fault Refusal := execCpmx 5 x s

end Sys2Proof.Machine
end

