-- ==== Sys2Proof/Machine/Accum.lean ====
section
/-!
DEFINITION. The accumulator queue (10_control_thread_and_engine_instructions.md R271 to R273; R22, R93, R107, R108, R113,
R131, R135): allocation, zeroing and readout of CB banks.
-/
namespace Sys2Proof.Machine

-- Issue checks.

/-- The limits of a bank mask (R271): its bits above 15 zero, not empty, every bank below the owner's 4q. -/
def maskOk (q v : Nat) : Bool := v / 2 ^ 16 == 0 && v != 0 && decide (v < 2 ^ (4 * q))

/-- The checks of ACC.ALLOC: no named bank held or pending in the view. -/
def State.allocFault (s : State) (x : Site) (b : Block32) (here : DWord) : Option (Cause × DWord) :=
  if !maskOk (s.ownQ x x.core) (blkWord b 0) then some (.illegalOperand, here)
  else if s.allocView x.blk x.rank x.quad &&& blkWord b 0 != 0 then some (.accAlloc, here)
  else none

/-- The checks of ACC.TRYALLOC. -/
def State.tryAllocFault (s : State) (x : Site) (b : Block32) (here : DWord) : Option (Cause × DWord) :=
  if !maskOk (s.ownQ x x.core) (blkWord b 0) then some (.illegalOperand, here) else none

/-- The checks of ACC.FREE: every named bank held in the view. -/
def State.freeFault (s : State) (x : Site) (b : Block32) (here : DWord) : Option (Cause × DWord) :=
  if !maskOk (s.ownQ x x.core) (blkWord b 0) then some (.illegalOperand, here)
  else if s.allocView x.blk x.rank x.quad &&& blkWord b 0 != blkWord b 0 then some (.accAlloc, here)
  else none

/-- The checks of ACCE.ZERO (R272). -/
def State.zeroFault (s : State) (x : Site) (b : Block32) (here : DWord) : Option (Cause × DWord) :=
  if !maskOk (s.ownQ x x.core) (blkWord b 0) then some (.illegalOperand, here) else s.bankFault x (blkWord b 0)

/-- ACCE.OUT's fields (R273). -/
structure OutCtl where
  first : Nat
  i0 : Nat
  rows : Nat
  f40 : Bool
  cols : Nat
  cse : Bool
  fmt : Nat
  seed : Option Nat

def outCtl (b : Block32) : OutCtl :=
  let c := blkWord b 0
  ⟨bitsOf c 3 0, bitsOf c 9 4, bitsOf c 20 10, bitOf c 21, bitsOf c 28 22 + 1, bitOf c 29, bitsOf (blkWord b 1) 4 0,
    if bitOf c 30 then some (blkWord b 6) else none⟩

/-- Bytes of an output row. -/
def OutCtl.rowBytes (t : OutCtl) : Nat := ceilDiv (t.cols * fmtBits t.fmt) 8
/-- Segments of an output row (R99). -/
def OutCtl.segs (t : OutCtl) : Nat := ceilDiv t.cols (384 / fmtBits t.fmt)

/-- The checks of ACCE.OUT (R273, R408). -/
def State.outFault (s : State) (x : Site) (b : Block32) (here : DWord) : Option (Cause × DWord) :=
  let t := outCtl b
  let q := s.ownQ x x.core
  let l := layOf b 2
  let n := ceilDiv (t.i0 + t.rows) 64
  if !s.layOk x b 2 [1, 4] || !scaleOk t.fmt (blkWord b 7) || bitOf (blkWord b 0) 31 || decide (t.rows < 1) || decide (1024 < t.rows) ||
      decide (4 * q < t.first + n) || blkWord b 1 / 2 ^ 5 != 0 || (t.cse && blkWord b 5 % 4 != 0) then
    some (.illegalOperand, here)
  else
    firstFault
      [ s.linSpan x .mxc .write l.space l.mode l.base (l.at (t.rows - 1) 0 + t.rowBytes - 1),
        if scaled t.fmt then
          s.linSpan x .mxc .write l.space 0 (blkWord b 7) (blkWord b 7 + (t.rows - 1) * blkWord b 8 + 16 * t.segs - 1)
        else none,
        if t.cse then s.linSpan x .mxa .read 1 0 (blkWord b 5) (blkWord b 5 + 511) else none,
        s.bankFault x (bankRun t.first n) ]

def execAccAlloc (x : UE1) (s : State) : Host.Outcome State Fault Refusal :=
  execBlockCmd x.e.toNat 1 State.allocFault .acc x.t.toNat (fun b => .alloc (blkWord b 0)) s
def execAccTryalloc (x : UE1) (s : State) : Host.Outcome State Fault Refusal :=
  execBlockCmd x.e.toNat 1 State.tryAllocFault .acc x.t.toNat (fun b => .tryAlloc (blkWord b 0)) s
def execAccFree (x : UE1) (s : State) : Host.Outcome State Fault Refusal :=
  execBlockCmd x.e.toNat 1 State.freeFault .acc x.t.toNat (fun b => .free (blkWord b 0)) s
def execAcceZero (x : UE1) (s : State) : Host.Outcome State Fault Refusal :=
  execBlockCmd x.e.toNat 1 State.zeroFault .acc x.t.toNat (fun b => .zero (blkWord b 0)) s
def execAcceOut (x : UE1) (s : State) : Host.Outcome State Fault Refusal :=
  execBlockCmd x.e.toNat 9 State.outFault .acc x.t.toNat .out s

-- Steps.

def EngOp.isTry (o : EngOp) : Bool :=
  match o.kind with
  | .tryAlloc _ => true
  | _ => false

/-- Whether an accumulator operation may take effect (R259): at the head of its queue, its banks' interlock clear; a TRYALLOC
never waits for that (R271). -/
def State.accReady (s : State) (o : EngOp) : Bool :=
  o.queue == .acc && s.opLive o && s.queueHead o && (o.isTry || s.interlock o)

/-- The mask of an allocation. -/
def EngOp.allocMask (o : EngOp) : Option Nat :=
  match o.kind with
  | .alloc m => some m
  | .tryAlloc m => some m
  | _ => none

/-- The waiting ALLOCs of a core, oldest first: those at the head of their queue (R271). -/
def State.waitingAllocs (s : State) (core : Nat) : List EngOp :=
  s.ops.filter fun o =>
    match o.kind with
    | .alloc _ => s.accReady o && o.prog == 0 && ((s.opSite o).map fun x => x.core == core).getD false
    | _ => false

/-- Whether the banks an operation names can be granted now (R271). -/
def State.grantable (s : State) (o : EngOp) (x : Site) : Bool :=
  s.accReady o && o.prog == 0 &&
    (banksOf (o.allocMask.getD 0)).all (fun k => !s.bankHeld (s.ctxFn x.ctx) x.core k) &&
    (s.waitingAllocs x.core).all fun y =>
      decide (o.id ≤ y.id) || ((s.opSite y).map fun z => s.ctxFn z.ctx != s.ctxFn x.ctx).getD false ||
        (y.banks &&& o.banks) == 0

/-- The grant: every cell 0, the counters clear, the banks the block's (R271). -/
def State.grantBanks (s : State) (x : Site) (mask : Nat) : State :=
  let s1 := (banksOf mask).foldl
    (fun (s : State) k => let z := s.zeroBank x k; { z with cbCount := tabSet z.cbCount (z.bankKey x k) (0, 0, 0) }) s
  s1.modBlock x.blk.id fun b => { b with cb := b.cb ++ (banksOf mask).map fun k => (x.rank, k) }

/-- ACC_ALLOC_GRANT (R113, R271): a waiting ALLOC, or a TRYALLOC at the head, granted. -/
def execAccAllocGrant (id : Nat) (s : State) : Host.Outcome State Fault Refusal :=
  .next <|
    match (s.op? id).bind fun o => o.allocMask.bind fun m => (s.opSite o).map fun x => (o, m, x) with
    | none => s
    | some (o, m, x) =>
      if s.grantable o x then ((s.grantBanks x m).modOp id fun y => { y with prog := 1, started := true }).tick else s

/-- A TRYALLOC decided as it reaches the head of its queue (R271): its progress is 1 where it is granted, 2 where not. -/
def State.decideTry (s : State) (id : Nat) : State :=
  match (s.op? id).bind fun o => (s.opSite o).map fun x => (o, x) with
  | none => s
  | some (o, x) =>
    if !o.isTry || o.prog != 0 || !s.accReady o then s
    else if s.grantable o x then
      ((s.grantBanks x (o.allocMask.getD 0)).modOp id fun y => { y with prog := 1, started := true }).tick
    else s.modOp id fun y => { y with prog := 2, started := true }

/-- Every TRYALLOC that has reached a head. -/
def State.decideTries (s : State) : State :=
  (s.ops.filter fun o => o.isTry && o.prog == 0).foldl (fun (s : State) o => s.decideTry o.id) s

/-- The banks a FREE returns, after the accesses to their cells that have still to take effect. -/
def State.freeBanks (s : State) (x : Site) (mask : Nat) : State :=
  let cells (k : Nat) : Bool := (List.range 16).any fun i =>
    bitOf mask i && decide (s.cellKey x i 0 0 ≤ k) && decide (k < s.cellKey x i 0 0 + 65536)
  ((s.orderPlaces cells).modBlock x.blk.id fun b =>
    { b with cb := b.cb.filter fun e => !(e.1 == x.rank && bitOf mask e.2) }).tick

/-- The cells of a readout row: the first poisoned one, or their 40-bit values. -/
def State.outCells (s : State) (x : Site) (bank row n : Nat) : Except DWord (List Nat) :=
  let base := s.cellKey x bank row 0
  match (List.range n).find? fun c => s.poisoned (base + 8 * c) 5 with
  | some c => .error (cellPtr x.rank bank row c)
  | none => .ok ((List.range n).map fun c => ofBytes (s.readMem (base + 8 * c) 5))

/-- The bytes of a row's data: a last byte in part keeps the bits it does not name (R93, R135). -/
def State.outBytes (s : State) (x : Site) (l : Lay) (addr : Nat) (r : OutRow) : State × Moved :=
  let n := ceilDiv r.bits 8
  if r.bits % 8 == 0 then (s, .ok (toBytes n r.data))
  else
    -- the read of the byte that the row's last element shares
    let p := linPtr l.space l.mode x.rank (addr + n - 1)
    match s.touch x p with
    | (s1, some rg) => (s1, .wait rg.1 rg.2 p)
    | (s1, none) =>
      match s1.place x (0, 0) p with
      | (s2, .error c) => (s2, .bad c p)
      | (s2, .ok pl) =>
        match s2.engRead x pl 1 with
        | (s3, .ok bs) => (s3, .ok (toBytes n (r.data + ofBytes bs / 2 ^ (r.bits % 8) * 2 ^ (r.bits % 8) * 2 ^ (8 * (n - 1)))))
        | (s3, .bad c) => (s3, .bad c p)

/-- Bytes at an address cut where sectors end, in ascending order, with their bank mode. -/
def sectorsOf (mode : Nat) : Nat → Nat → List Byte → List (Nat × Nat × List Byte)
  | 0, _, _ => []
  | k + 1, a, bs =>
    if bs.isEmpty then [] else (mode, a, bs.take (32 - a % 32)) :: sectorsOf mode k (a / 32 * 32 + 32) (bs.drop (32 - a % 32))

/-- At most k sectors of a row written, each at its own instant (R131); with the last the row is done. -/
def State.writeOut (s : State) (x : Site) (sp id : Nat) : Nat → State
  | 0 => s
  | k + 1 =>
    match (s.op? id).map (·.rowOut) with
    | some ((mode, a, bs) :: r) =>
      match s.linWrite x .mxc sp mode a bs with
      | (s1, .ok _) =>
        (s1.modOp id fun y => { y with rowOut := r, prog := if r.isEmpty then y.prog + 1 else y.prog }).tick.writeOut x sp id k
      | (s1, m) => s1.haltOp id m
    | _ => s

/-- One row of a readout (R273): its cells read, with the byte that its last element shares (R135), and converted; what it writes
stands by sectors in ascending order (R131). -/
def State.outRow (s : State) (x : Site) (o : EngOp) (b : Block32) : State :=
  let t := outCtl b
  let l := layOf b 2
  let i := o.prog
  let bank := t.first + (t.i0 + i) / 64
  let row := (t.i0 + i) % 64
  match s.checkAccess x .mxc .read (cellPtr x.rank bank row 0) 8 with
  | some c => s.haltOp o.id (.bad c (cellPtr x.rank bank row 0))
  | none =>
    match s.outCells x bank row t.cols with
    | .error p => s.haltOp o.id (.bad .engineFault p)
    | .ok cells =>
      let r := readoutRow cells t.f40 t.fmt (if t.cse then some o.aux else none) t.seed i
      match s.outBytes x l (l.at i 0) r with
      | (s1, .ok bs) =>
        let slots := blkWord b 7 + i * blkWord b 8
        let data := sectorsOf l.mode (bs.length / 32 + 2) (l.at i 0) bs
        let segs := sectorsOf 0 (r.slots.length + 2) slots r.slots.flatten
        ((s1.bumpBank x bank 0 r.sats 0).modOp o.id fun y =>
          { y with rowOut := if slots < l.at i 0 then segs ++ data else data ++ segs,
                   prog2 := y.prog2 + r.sats, flags := y.flags ||| r.flags }).tick
      | (s1, m) => s1.haltOp o.id m

/-- The 128 column scales read, once (R273). -/
def State.outScales (s : State) (x : Site) (o : EngOp) (b : Block32) : State :=
  match s.linRead x .mxa 1 0 (blkWord b 5) 512 with
  | (s1, .ok bs) =>
    s1.modOp o.id fun y => { y with aux := (List.range 128).map fun j => ofBytes ((bs.drop (4 * j)).take 4) }
  | (s1, m) => s1.haltOp o.id m

/-- Whether an accumulator operation has nothing left to do. -/
def EngOp.accDone (o : EngOp) : Bool :=
  o.fault.isSome || o.stop ||
  match o.kind with
  | .out b => decide (bitsOf (blkWord b 0) 20 10 ≤ o.prog)
  | _ => o.prog == 1

/-- One step of an accumulator operation, of at most k instants: a grant, a free, sectors set to zero, the scales, or a row of a
readout. -/
def State.accStep (s : State) (id k : Nat) : State :=
  match (s.op? id).bind fun o => (s.opSite o).map fun x => (o, x) with
  | none => s
  | some (o, x) =>
    if o.accDone || !s.accReady o then s
    else
      match o.kind with
      | .alloc m =>
        if s.grantable o x then ((s.grantBanks x m).modOp id fun y => { y with prog := 1, started := true }).tick else s
      | .free m => (s.freeBanks x m).modOp id fun y => { y with prog := 1, started := true }
      | .zero m =>
        let last := decide ((banksOf m).length * 2048 ≤ o.prog2 + k)
        ((s.zeroSectors x (banksOf m) o.prog2 k).modOp id fun y =>
          { y with prog := if last then 1 else 0, prog2 := if last then 0 else y.prog2 + k, started := true }).tick
      | .out b =>
        let s1 := s.modOp id fun y => { y with started := true }
        if (outCtl b).cse && o.aux.isEmpty then s1.outScales x o b
        else if !o.rowOut.isEmpty then s1.writeOut x (layOf b 2).space id k
        else if k ≤ 1 then s1.outRow x o b
        else (s1.outRow x o b).writeOut x (layOf b 2).space id k
      | _ => s

/-- More instants than a step takes: the sectors of 16 banks. -/
def wholeAcc : Nat := 16 * 2048

/-- An operation's steps, each whole, until it is done or waits. -/
def State.accRun (s : State) (id : Nat) : Nat → State
  | 0 => s
  | k + 1 =>
    match s.op? id with
    | none => s
    | some o => if o.accDone || !s.accReady o then s else (s.accStep id wholeAcc).accRun id k

/-- An accumulator operation completed with its words (R256). -/
def State.accFinish (s : State) (o : EngOp) : State :=
  match o.kind with
  | .alloc m => s.finishOp { o with words := [BitVec.ofNat 32 m] }
  | .free m => s.finishOp { o with words := [BitVec.ofNat 32 m] }
  | .out _ => s.finishOp { o with words := [0, BitVec.ofNat 32 o.prog2] } o.prog
  | _ => s.finishOp o

/-- The completion of a TRYALLOC at the head of its queue (R271), as it was decided there. -/
def State.tryFinish (s : State) (id m : Nat) : State :=
  let s1 := s.decideTry id
  match s1.op? id with
  | some o =>
    if o.prog == 1 then s1.finishOp { o with words := [BitVec.ofNat 32 m] } 0 m else s1.finishOp { o with words := [0] }
  | none => s1

/-- ACCUMULATOR_OPERATION_COMPLETE (R256, R271 to R273). -/
def execAccumulatorOperationComplete (id : Nat) (s : State) : Host.Outcome State Fault Refusal :=
  .next <|
    match (s.op? id).filter fun o => (s.opSite o).isSome with
    | none => s
    | some o =>
      if !s.accReady o then s
      else
        match o.kind with
        | .tryAlloc m => s.tryFinish id m
        | _ =>
          let s1 := s.accRun id 1028
          match s1.op? id with
          | none => s1
          | some o1 => if o1.accDone && s1.accReady o1 then s1.accFinish o1 else s1

end Sys2Proof.Machine
end

