-- ==== Sys2Proof/Machine/Granule.lean ====
section
/-!
DEFINITION. Region granules (01_address_spaces.md R33 to R35, R137): fills, write-backs, the write-backs of a close, and
the four granule events. A region's own bytes are those of its offsets under bank mode 0 (log 13).
-/
namespace Sys2Proof.Machine

/-- The site of a region's fills and write-backs: the member that mapped it. -/
def Block.regionSite (b : Block) (gr : Grid) (r : Region) : Site := ⟨b, gr, r.rank, 0, b.coreOf r.rank⟩

/-- The core and AB address of an offset of a region's space. -/
def regionHome (b : Block) (r : Region) (off : Nat) : Nat × Nat :=
  if r.space == 4 then
    let h := clsHome b off
    (b.coreOf h.1, h.2)
  else (b.coreOf r.rank, off)

/-- The 16-byte words of a granule: their places. -/
def State.granuleKeys (s : State) (b : Block) (gr : Grid) (r : Region) (g : Nat) : List Nat :=
  (List.range 8).map fun i =>
    let h := regionHome b r (r.base + 128 * g + 16 * i)
    abKey (s.ownedQuads h.1 (s.ctxFn gr.ctx)) h.1 h.2 0

/-- The global place of a granule's first byte, none where its page is gone. -/
def State.granuleGlobal (s : State) (x : Site) (r : Region) (g : Nat) : State × Option Nat :=
  match s.globPlace x (r.vbase + 128 * g) false with
  | (s1, .ok (.glob k _ _ _)) => (s1, some k)
  | (s1, .ok (.peer k)) => (s1, some k)
  | (s1, _) => (s1, none)

/-- The region and granule a reference names, with their block and grid. -/
def State.granuleRef (s : State) (b r g : Nat) : Option (Block × Grid × Region × Granule) :=
  (s.block? b).bind fun blk => (s.grid? blk.grid).bind fun gr => (blk.regions[r]?).bind fun reg =>
    (reg.grans[g]?).map fun x => (blk, gr, reg, x)

-- The accesses that wait for a fill.

/-- A wait of the granule that was filled: its access waits for its turn. -/
def Wait.filled (w : Wait) (r g : Nat) : Wait :=
  match w with
  | .fill (some (r', g')) p d k i => if r' == r && g' == g then .fill Option.none p d k i else w
  | _ => w

/-- Whether a wait still stands for a fill of some granule. -/
def Wait.fillPending (w : Wait) : Bool :=
  match w with
  | .fill (some _) _ _ _ _ => true
  | _ => false
/-- The registers that a wait for a fill is to write. -/
def Wait.fillDst (w : Wait) : Option (Nat × Nat) :=
  match w with
  | .fill _ _ d _ _ => some d
  | _ => Option.none

/-- When its instruction was issued. -/
def Wait.fillIssue (w : Wait) : Option Nat :=
  match w with
  | .fill _ _ _ _ i => some i
  | _ => Option.none
def Wait.forFill (w : Wait) (r g : Nat) : Option DWord :=
  match w with
  | .fill (some (r', g')) p _ _ _ => if r' == r && g' == g then some p else Option.none
  | _ => Option.none
/-- When a wait for a fill that has come arrived. -/
def Wait.cameAt (w : Wait) : Option Nat :=
  match w with
  | .fill Option.none _ _ k _ => some k
  | _ => Option.none
/-- A wait for a fill as one of an instruction issued at an instant. -/
def Wait.asOf (w : Wait) (i : Nat) : Wait :=
  match w with
  | .fill g p d k _ => .fill g p d k i
  | _ => w
/-- The instruction whose other lanes a lane waits for. -/
def Wait.peersOf (w : Wait) : Option Nat :=
  match w with
  | .peers i => some i
  | _ => Option.none

/-- A granule's fill has come: its waiters proceed in their order of arrival (R33). -/
def State.filled (s : State) (b r g : Nat) : State :=
  let s1 := s.modBlock b fun x =>
    { x with
      groups := x.groups.map fun gr =>
        { gr with threads := gr.threads.map fun t => { t with wait := t.wait.filled r g } },
      ctls := x.ctls.map fun c => { c with wait := c.wait.filled r g } }
  { s1 with ops := s1.ops.map fun o =>
      if o.block == b && (o.waitGran.map fun y => y.1 == r && y.2.1 == g) == some true then
        { o with waitGran := none, replay := true }
      else o }

/-- The lanes of a group that wait for a granule, with their pointers. -/
def Group.fillLanes (g : Group) (r i : Nat) : List (Nat × DWord) :=
  (List.range 32).filterMap fun l => ((g.thread? l).bind fun t => t.wait.forFill r i).map fun p => (l, p)

/-- Whether a lane is one of the group's chain. -/
def Group.inChain (g : Group) (lane : Nat) : Bool :=
  match g.chain with
  | some c => bitOf c.lanes.toNat lane
  | none => false

/-- The lanes of a group that p names. -/
def Group.lanesWhere (g : Group) (p : Thread → Bool) : List Nat := (List.range 32).filter fun l => ((g.thread? l).map p).getD false

/-- The fragment of a group that holds a lane which waits for a fill: the lanes of its instruction that do. -/
def Group.fillFragment (g : Group) (lane : Nat) : List Nat :=
  match (g.thread? lane).bind fun t => t.wait.fillIssue with
  | none => []
  | some i => g.lanesWhere fun u => u.wait.fillIssue == some i

/-- The accesses of a group whose fills have come: their arrivals and lanes, those of one instruction together. A chain's
wait for all of its fills, since no member takes effect alone (R186). -/
def Group.replays (g : Group) : List (Nat × List Nat) :=
  (List.range 32).filterMap fun l => ((g.thread? l).bind fun t => t.wait.cameAt).bind fun k =>
    let f := g.fillFragment l
    if g.inChain l then
      if f.head? == some l && (g.lanesWhere fun u => u.wait.fillPending).all (fun i => !f.contains i) then some (k, f) else none
    else
      let here := f.filter fun i => ((g.thread? i).map fun u => u.wait.cameAt == some k).getD false
      if here.head? == some l then some (k, here) else none

/-- Whether some lanes of an instruction of a group still wait for a fill. -/
def Group.fillsOf (g : Group) (i : Nat) : Bool := !(g.lanesWhere fun u => u.wait.fillIssue == some i).isEmpty

/-- The lanes of a group that need not wait for the others of their instruction any more. -/
def Group.peersFree (g : Group) : List Nat :=
  g.lanesWhere fun t => (t.wait.peersOf.map fun i => !g.fillsOf i).getD false

/-- Lanes whose accesses have been made wait for the others of an instruction issued at i, and those that met another fill wait as
lanes of it still. -/
def State.joinPeers (s : State) (b g : Nat) (lanes : List Nat) (i : Nat) : State :=
  match (s.block? b).bind (·.group? g) with
  | none => s
  | some x =>
    let on := x.chain.isNone && ((x.fillsOf i) || lanes.any fun l => ((x.thread? l).map fun t => t.wait.fillIssue.isSome).getD false)
    s.modLanes b g lanes fun _ t =>
      if t.wait.fillIssue.isSome then { t with wait := t.wait.asOf i }
      else if on && t.st == .running && t.wait == .none then { t with wait := .peers i }
      else t

/-- ENGINE_FAULT of one instruction's accesses that wait for a granule whose fill failed; its chain, if any, ends. -/
def State.failFragment (s : State) (b gn r i issue : Nat) : State :=
  match (s.block? b).bind (·.group? gn) with
  | none => s
  | some g =>
    let frag := g.lanesWhere fun t => t.wait.fillIssue == some issue
    match { s with cur := .frag b gn (maskOf frag) }.who with
    | none => s
    | some w =>
      let hit := (g.fillLanes r i).filter fun x => frag.contains x.1
      { s.laneFaults w g false (hit.map fun (l, p) => ⟨l, .engineFault, 0, p, w.pc, false⟩) with cur := s.cur }

/-- ENGINE_FAULT of a group's accesses that wait for a granule whose fill failed, instruction by instruction. -/
def State.failGroupFill (s : State) (b : Nat) (g : Group) (r i : Nat) : State :=
  let issues := ((g.fillLanes r i).filterMap fun x => (g.thread? x.1).bind fun t => t.wait.fillIssue).eraseDups
  issues.foldl (fun (s : State) k => s.failFragment b g.num r i k) s

/-- An uncorrectable error during a fill (R33): the granule is INVALID again and its waiters fault ENGINE_FAULT. -/
def State.fillError (s : State) (b r g : Nat) : State :=
  match s.block? b with
  | none => s
  | some blk =>
    let s1 := s.modGranule b r g fun y => { y with st := .invalid }
    let s2 := blk.groups.foldl (fun s gr => s.failGroupFill b gr r g) s1
    let s3 := blk.ctls.foldl (fun (s : State) c =>
      match c.wait.forFill r g with
      | some p => s.takeCtlTrap b c.rank c.quad ⟨0, .engineFault, 0, p, c.pc, false⟩
      | none => s) s2
    { s3 with ops := s3.ops.map fun o =>
        match o.waitGran with
        | some (r', g', p) =>
          if o.block == b && r' == r && g' == g then { o with waitGran := none, fault := some (0x0F, p) } else o
        | none => o }

/-- GRANULE_FILL_COMPLETE (R33, R34, R137): the 128 bytes read at the home become the granule's bytes. A fill whose translation
fails, which takes software that broke R50, is an error of the fill (log 83). -/
def State.fillGranule (s : State) (b r g : Nat) : State :=
  match s.granuleRef b r g with
  | none => s
  | some (blk, gr, reg, x) =>
    if x.st != .filling then s
    else
      match s.granuleGlobal (blk.regionSite gr reg) reg g with
      | (s1, none) => s1.fillError b r g
      | (s1, some k) =>
        if s1.poisoned k 128 then s1.fillError b r g
        else
          let bs := s1.readMem k 128
          let s1 := s1.homeServed k 128 gr.ctx
          let s2 := (s1.granuleKeys blk gr reg g).foldl
            (fun (acc : State × Nat) key => (acc.1.writeMem key ((bs.drop (16 * acc.2)).take 16), acc.2 + 1)) (s1, 0)
          ((s2.1.modGranule b r g fun y => { y with st := .clean }).filled b r g).tick

def execGranuleFillComplete (x : GranuleRef) (s : State) : Host.Outcome State Fault Refusal :=
  .next (s.fillGranule x.block x.region x.granule)

/-- GRANULE_FILL_ERROR (R33). -/
def execGranuleFillError (x : GranuleRef) (s : State) : Host.Outcome State Fault Refusal :=
  .next <|
    match s.granuleRef x.block x.region x.granule with
    | some (_, _, _, gr) => if gr.st == .filling then s.fillError x.block x.region x.granule else s
    | none => s

-- Write-backs.

/-- The current bytes of a granule. -/
def State.granuleBytes (s : State) (b : Block) (gr : Grid) (r : Region) (g : Nat) : List Byte :=
  (s.granuleKeys b gr r g).flatMap fun k => s.readMem k 16

/-- The bytes of a granule that lie in poisoned words. -/
def State.granuleBad (s : State) (b : Block) (gr : Grid) (r : Region) (g : Nat) : BitVec 128 :=
  if s.poison.isEmpty then 0
  else
    let keys := s.granuleKeys b gr r g
    BitVec.ofNat 128 ((List.range 8).foldl (fun m i => if s.poisoned (keys.getD i 0) 16 then m + 0xFFFF * 2 ^ (16 * i) else m) 0)

/-- The accesses to a granule's bytes that are still to take effect made, where its state changes between two of them (R33). -/
def State.orderGranule (s : State) (b r g : Nat) : State :=
  match s.granuleRef b r g with
  | none => s
  | some (blk, gr, reg, _) =>
    let keys := s.granuleKeys blk gr reg g
    s.orderPlaces fun k => keys.contains (k / 16 * 16)

/-- A write-back starts (R33): the masked bytes are captured, both masks clear. A block that stands on no core starts none (R37),
and a poisoned word is not read: it stays dirty (R80, log 82). -/
def State.startWriteBack (s : State) (b r g : Nat) : State :=
  let s := s.orderGranule b r g
  match s.granuleRef b r g with
  | none => s
  | some (blk, gr, reg, x) =>
    let bad := x.mask &&& s.granuleBad blk gr reg g
    if x.st != .dirty || blk.pre == .swapped || x.mask == bad then s
    else
      s.modGranule b r g fun y =>
        { y with st := .writing, capMask := x.mask &&& ~~~bad, capLeft := x.mask &&& ~~~bad, capDirtier := x.dirtier, mask := bad,
                 dirtier := if bad == 0 then 0 else x.dirtier, capBytes := s.granuleBytes blk gr reg g }

/-- The captured bytes that are still to be written, at their global places. -/
def Granule.captured (x : Granule) (k : Nat) : List (Nat × Byte) :=
  (List.range 128).filterMap fun i => if bitOf x.capLeft.toNat i then some (k + i, x.capBytes.getD i 0) else none

/-- Captured bytes published at their homes (R35, R137), after what the context has waiting there (R78). -/
def State.putCaptured (s : State) (ctx : Nat) (cells : List (Nat × Byte)) : State :=
  (runsOf cells).foldl (fun (s : State) (c : Nat × List Byte) =>
    let s1 := s.settleStores fun e => e.ctx == ctx && e.overlaps c.1 c.2.length
    (s1.homeWrite c.1 c.2).llcUse ctx (c.1 / 128) true none false none) s

/-- One sector of a write-back in progress published (R34, R131, R137): the lowest that is left. -/
def State.writeBackSector (s : State) (b r g : Nat) : State :=
  match s.granuleRef b r g with
  | none => s
  | some (blk, gr, reg, x) =>
    if x.st != .writing || x.capLeft == 0 then s
    else
      let u := ((List.range 4).find? fun i => x.capLeft.toNat / 2 ^ (32 * i) % 2 ^ 32 != 0).getD 0
      let (s1, k) := s.granuleGlobal (blk.regionSite gr reg) reg g
      let s2 := match k with
        | some k => s1.putCaptured gr.ctx ((x.captured k).filter fun c => (c.1 - k) / 32 == u)
        | none => s1
      (s2.modGranule b r g fun y => { y with capLeft := y.capLeft &&& ~~~(BitVec.ofNat 128 (0xFFFFFFFF * 2 ^ (32 * u))) }).tick

/-- A write-back completes (R33 to R35): what is left of the captured bytes is published, and no other byte is written. Where its
translation fails, which takes software that broke R50, nothing is (log 83). -/
def State.endWriteBack (s : State) (b r g : Nat) : State :=
  match s.granuleRef b r g with
  | none => s
  | some (blk, gr, reg, x) =>
    if x.st != .writing then s
    else
      let (s1, k) := s.granuleGlobal (blk.regionSite gr reg) reg g
      let s2 := match k with
        | some k => s1.putCaptured gr.ctx (x.captured k)
        | none => s1
      (s2.modGranule b r g fun y =>
        { y with st := if y.mask == 0 then .clean else .dirty, capMask := 0, capLeft := 0, capDirtier := 0, capBytes := [] }).tick

def execWriteBackStart (x : GranuleRef) (s : State) : Host.Outcome State Fault Refusal :=
  .next (s.startWriteBack x.block x.region x.granule)
def execWriteBackComplete (x : GranuleRef) (s : State) : Host.Outcome State Fault Refusal :=
  .next (s.endWriteBack x.block x.region x.granule)

/-- A granule written back whole: what is in progress ends, and what is dirty is captured and written. -/
def State.writeBackNow (s : State) (b r g : Nat) : State :=
  ((s.endWriteBack b r g).startWriteBack b r g).endWriteBack b r g

/-- The granules of a block, as (region, granule). -/
def Block.granules (b : Block) : List (Nat × Nat) :=
  (List.range b.regions.length).flatMap fun r =>
    (List.range (((b.regions[r]?).map fun x => x.grans.length).getD 0)).map fun g => (r, g)

/-- The write-backs a close of a member waits for (R35). -/
def State.closeRegions (s : State) (b rank : Nat) : State :=
  match s.block? b with
  | none => s
  | some blk =>
    blk.granules.foldl (fun s rg =>
      match blk.granule? rg.1 rg.2 with
      | none => s
      | some x =>
        if bitOf x.dirtier.toNat rank || (x.st == .writing && bitOf x.capDirtier.toNat rank) then
          s.writeBackNow b rg.1 rg.2
        else s) s

/-- PHASE.CLOSE of a domain, whole (R35, R72, R120, R245). -/
def State.closePhase (s : State) (b rank core : Nat) : State := (s.publishAll b rank core).closeRegions b rank

/-- Whether a granule's bytes are still to be written back. -/
def Granule.owing (g : Granule) : Bool := g.st == .dirty || g.st == .writing

/-- How many granules of a region are to be written back (R36); one whose write-back is in progress counts (DESIGN CHOICE, log
95). -/
def Region.dirtyCount (r : Region) : Nat :=
  (r.grans.filter Granule.owing).length

/-- The write footprint of a region's write-back (R132): the global lines from its first to its last granule to be written. -/
def State.regionFoot (s : State) (b : Block) (gr : Grid) (r : Region) : List (Nat × Nat) :=
  let owing (g : Nat) : Bool := ((r.grans[g]?).map Granule.owing).getD false
  let all := List.range r.grans.length
  match all.find? owing, all.reverse.find? owing with
  | some lo, some hi =>
    all.filterMap fun g =>
      if lo ≤ g && g ≤ hi then (s.granuleGlobal (b.regionSite gr r) r g).2.map fun k => (k, k + 127) else none
  | _, _ => []

/-- Whether a granule of a region is being filled, or an access that waited for a fill has still to proceed: a flush comes after
them (R36). An engine operation's access counts while the operation runs: at the hard grade it is cut (R281). -/
def State.fillsPending (s : State) (b r : Nat) : Bool :=
  match s.block? b with
  | none => false
  | some x =>
    ((x.regions[r]?).map fun y => y.grans.any fun g => g.st == .filling).getD false ||
      x.groups.any (fun g => g.threads.any fun t => t.wait.cameAt.isSome) || x.ctls.any (fun c => c.wait.cameAt.isSome) ||
      (x.pre != .hard && s.ops.any fun o => o.block == b && o.replay)

/-- The first granule of a region that holds dirty bytes in a poisoned word. -/
def State.regionBad (s : State) (b r : Nat) : Option Nat :=
  match (s.block? b).bind fun x => (s.grid? x.grid).bind fun gr => (x.regions[r]?).map fun y => (x, gr, y) with
  | none => none
  | some (x, gr, y) =>
    (List.range y.grans.length).find? fun g =>
      ((y.grans[g]?).map fun a => (a.mask &&& s.granuleBad x gr y g) != 0).getD false

/-- The write-backs of a flush (R36). -/
def State.writeBackRegion (s : State) (b r : Nat) : State :=
  let n := ((s.block? b).bind fun blk => (blk.regions[r]?).map fun x => x.grans.length).getD 0
  (List.range n).foldl (fun (s : State) g => s.writeBackNow b r g) s

/-- A region flushed (R36): dirty granules written back, then every granule INVALID. -/
def State.flushRegion (s : State) (b r : Nat) : State :=
  (s.writeBackRegion b r).modBlock b fun x =>
    { x with regions := modAt x.regions r fun y =>
        { y with grans := y.grans.map fun _ => ⟨.invalid, 0, 0, 0, 0, [], 0⟩ } }

end Sys2Proof.Machine
end

