-- ==== Sys2Proof/Machine/LoadStore.lean ====
section
/-!
DEFINITION. Lane loads and stores, the multicast store and the uniform loads and stores
(09_memory_and_synchronisation_instructions.md R228 to R233, R237), with watchpoints (R366).
-/
namespace Sys2Proof.Machine

/-- One lane's access: its lane, thread and pointer. -/
structure LaneAcc where
  lane : Nat
  t : Thread
  ptr : DWord

/-- The version tag of a lane's class-G accesses (R81, R160): none outside a task. -/
def Who.tag (w : Who) (g : Group) (a : LaneAcc) : Option ThreadRef :=
  if a.t.inTask w.grid.desc then some ⟨w.blk.id, g.num, a.lane⟩ else none

/-- The lowest watchpoint comparator that an access matches (R366). -/
def State.watchHit (s : State) (w : Who) (a : LaneAcc) (op : Acc) (n : Nat) : Option Nat :=
  if a.t.skipWatch || ptrSpace a.ptr != 0 then none
  else
    ((s.coreHw w.core).wps.find? fun e =>
      let c := e.2.ctl.toNat
      bitOf c 31 && bitsOf c 27 16 == w.ctx &&
        (match op with
         | .read => bitOf c 0
         | .write => bitOf c 1
         | .atomic => bitOf c 2) &&
        decide (e.2.base.toNat % 2 ^ 56 < ptrOff a.ptr + n) && decide (ptrOff a.ptr ≤ e.2.lim.toNat % 2 ^ 56)).map (·.1)

/-- Whether a lane runs a task whose version an error struck (R79). -/
def State.taskLost (s : State) (w : Who) (a : LaneAcc) : Bool :=
  match w.grp with
  | some g => a.t.inTask w.grid.desc && s.versLost ⟨w.blk.id, g.num, a.lane⟩
  | none => false

/-- The fault of a lane's access before it is made (R10, R79, R229, R366). -/
def State.accFault (s : State) (w : Who) (op : Acc) (n : Nat) (a : LaneAcc) : Option LaneTrap :=
  match s.checkAccess w.site .lsu op a.ptr n with
  | some c => some ⟨a.lane, c, 0, a.ptr, w.pc, false⟩
  | none =>
    if s.taskLost w a then some ⟨a.lane, .engineFault, 0, a.ptr, w.pc, false⟩
    else (s.watchHit w a op n).map fun i => ⟨a.lane, .watchpoint, i, a.ptr, w.pc, false⟩

/-- What the lanes' accesses leave: the state, the register writes and the faults met on the way. -/
structure LsuOut where
  s : State
  vw : List VWrite
  faults : List LaneTrap

/-- The fills that the passing lanes' accesses wait for (R33). -/
def State.touchAll (s : State) (w : Who) : List LaneAcc → State × List (Nat × Nat × Nat × DWord)
  | [] => (s, [])
  | a :: r =>
    let (s1, g) := s.touch w.site a.ptr
    let (s2, gs) := s1.touchAll w r
    match g with
    | some rg => (s2, (a.lane, rg.1, rg.2, a.ptr) :: gs)
    | none => (s2, gs)

/-- The fragment waits for fills and issues its access, which is to write the registers `dst`, again when they have come. -/
def State.waitFills (s : State) (w : Who) (g : Group) (dst : Nat × Nat) (fs : List (Nat × Nat × Nat × DWord)) : State :=
  (s.modLanes w.blk.id g.num w.lanes fun l t =>
    { t with wait := match fs.find? (·.1 == l) with
        | some f => .fill (some (f.2.1, f.2.2.1)) f.2.2.2 dst s.seq s.seq
        | none => .fill none 0 dst s.seq s.seq }).tick

/-- The count of VERSION_OVERFLOW traps of a die (R81). -/
def State.countOverflow (s : State) (die : Nat) (fs : List LaneTrap) : State :=
  let n := (fs.filter fun f => f.cause == .versionOverflow).length
  if n == 0 then s else s.modDieHw die fun d => { d with overflows := d.overflows + BitVec.ofNat 32 n }

/-- The accesses of a fragment's lanes (R229 to R231, R188): checks, fills, then `run` in ascending lane order; a fault
in a chain undoes all of them, otherwise the faulting lanes alone trap. -/
def State.lsu (s : State) (w : Who) (g : Group) (op : Acc) (n : Nat) (dst : Nat × Nat) (accs : List LaneAcc)
    (run : State → List LaneAcc → LsuOut) : State :=
  let traps := accs.filterMap (s.accFault w op n)
  let pass := accs.filter fun a => !(traps.any fun f => f.lane == a.lane)
  if w.chain.isSome && !traps.isEmpty then s.laneFaults w g false traps
  else
    match s.touchAll w pass with
    | (s1, f :: fs) => s1.waitFills w g dst (f :: fs)
    | (s1, []) =>
      let o := run s1 pass
      let all := traps ++ o.faults
      if w.chain.isSome && !all.isEmpty then (s.laneFaults w g false all).countOverflow w.die all
      else
        let s2 := o.s.modLanes w.blk.id g.num (accs.map (·.lane)) fun _ t => { t with skipWatch := false }
        let s3 := s2.laneEnd w g ⟨o.vw, [], [], []⟩ (w.pc + 4)
        (s3.takeTraps w.blk.id g.num false all).countOverflow w.die all

/-- One access after another, by a function that gives the register words or a fault. -/
def eachLane (f : State → LaneAcc → State × Except Cause (List Word)) (w : Who) (d : Nat) :
    State → List LaneAcc → LsuOut
  | s, [] => ⟨s, [], []⟩
  | s, a :: r =>
    match f s a with
    | (s1, .ok ws) =>
      let o := eachLane f w d s1 r
      { o with vw := vwrites a.lane d ws ++ o.vw }
    | (s1, .error c) =>
      let o := eachLane f w d s1 r
      { o with faults := ⟨a.lane, c, 0, a.ptr, w.pc, false⟩ :: o.faults }

/-- The bytes that a store of n bytes takes from a thread's registers. -/
def storeBytes (t : Thread) (d n : Nat) : List Byte :=
  if n < 4 then toBytes n (t.vget d).toNat
  else (List.range (n / 4)).flatMap fun i => toBytes 4 (t.vget (d + i)).toNat

/-- The marks of a load hint (R75): RO only where the grid holds R without W. -/
def hintMarks (g : Grid) (hint : Nat) (p : DWord) (n : Nat) : LoadMarks :=
  match hint with
  | 1 => { ro := ptrSpace p == 0 && g.roApplies (ptrOff p) n }
  | 2 => { stream := true }
  | 3 => { keep := true }
  | _ => {}

/-- The hint of a store (R75): RO is ignored. -/
def storeMarks (hint : Nat) : LoadMarks :=
  match hint with
  | 2 => { stream := true }
  | 3 => { keep := true }
  | _ => {}

/-- One lane's load; it may be one that takes effect late, or with foretold bytes (R118). -/
def State.laneLoad (s : State) (w : Who) (g : Group) (d n hint : Nat) (signed : Bool) (a : LaneAcc) :
    State × Except Cause (List Word) :=
  match s.place w.site (g.num, a.lane) a.ptr with
  | (s1, .error c) => (s1, .error c)
  | (s1, .ok p) =>
    let m := hintMarks w.grid hint a.ptr n
    let own := w.laneAgent g [a.lane]
    let later := w.laneAgent g (w.lanes.filter fun l => decide (a.lane ≤ l))
    let late (told : Option (List Byte)) : State :=
      s1.addLate later (w.lateAcc own false s.cycle a.ptr p n d (.load m (w.tag g a) signed) told)
    match s1.foretold own (w.site.plain a.ptr) p n with
    | some bs => (late (some bs), .ok (loadWords n signed bs))
    | none =>
      let (s2, got) := s1.readBy w.site own later (w.site.plain a.ptr) (w.tag g a) m p n
      match got with
      | .bad c => (s2, .error c)
      | .ok bs => if s1.mayLate w p then (late none, .ok []) else (s2, .ok (loadWords n signed bs))

/-- One lane's store; to an RO region it faults (R33). -/
def State.laneStore (s : State) (w : Who) (g : Group) (d n hint : Nat) (mcst : Bool) (a : LaneAcc) :
    State × Except Cause (List Word) :=
  if roStore w.blk .write a.ptr then (s, .error .accessClass)
  else
    match s.place w.site (g.num, a.lane) a.ptr with
    | (s1, .error c) => (s1, .error c)
    | (s1, .ok p) =>
      match (s1.dirty w.site a.ptr n).storeBy w (w.laneAgent g [a.lane]) false (w.tag g a) mcst (storeMarks hint) a.ptr p
          (storeBytes a.t d n) with
      | (s2, .ok) => (s2, .ok [])
      | (s2, .bad c) => (s2, .error c)

/-- The accesses of the lanes whose guard is true (R229): the pointer with the scaled offset added. -/
def laneAccs (w : Who) (g : BitVec 3) (a : Nat) (off : Int) : List LaneAcc :=
  w.threads.filterMap fun (l, t) =>
    if t.guard g then some ⟨l, t, ptrAdd (readSrc64 w l t a) off⟩ else none

/-- How many registers an access of n bytes names. -/
def accWords (n : Nat) : Nat := if n < 4 then 1 else n / 4

/-- The issue of an access whose operands are a pointer source and registers from d on (R166, R177). -/
def memIssue (s : State) (w : Who) (g : Group) (gd : BitVec 3) (a d words : Nat) (readsD : Bool) (k : State) : State :=
  match issueFault w.chain false false (srcOk w.grid.desc a 2 && vOk w.grid.desc d words) [a] with
  | some c => s.laneFaultAll w g false c
  | none =>
    let probe : LaneSpec :=
      { g := gd, srcs := [(a, 2)], d := d, dwords := words, readsD := readsD, eval := fun _ _ _ => {} }
    match probe.poisoned s w g with
    | l :: ls => s.laneFaults w g false ((l :: ls).map fun i => ⟨i, .engineFault, 0, w.addr, w.pc, false⟩)
    | [] => k

/-- A lane load of n bytes (R228, R229). -/
def loadIssue (x : LM) (n : Nat) (signed : Bool) (s : State) (w : Who) (g : Group) : State :=
  memIssue s w g x.g x.a.toNat x.d.toNat (accWords n) false
    (s.lsu w g .read n (x.d.toNat, accWords n) (laneAccs w x.g x.a.toNat (x.o.toInt * n))
      (eachLane (fun s a => s.laneLoad w g x.d.toNat n x.h.toNat signed a) w x.d.toNat))

/-- A lane store of n bytes. -/
def storeIssue (x : LM) (n : Nat) (s : State) (w : Who) (g : Group) : State :=
  memIssue s w g x.g x.a.toNat x.d.toNat (accWords n) true
    (s.lsu w g .write n (0, 0) (laneAccs w x.g x.a.toNat (x.o.toInt * n))
      (eachLane (fun s a => s.laneStore w g x.d.toNat n x.h.toNat false a) w x.d.toNat))

/-- MCST of n bytes (R237): a store whose bytes go to every copy. -/
def mcstIssue (x : Mcst) (n : Nat) (s : State) (w : Who) (g : Group) : State :=
  memIssue s w g x.g x.a.toNat x.d.toNat (accWords n) true
    (s.lsu w g .write n (0, 0) (laneAccs w x.g x.a.toNat 0)
      (eachLane (fun s a => s.laneStore w g x.d.toNat n 0 true a) w x.d.toNat))

def execLdb (x : LM) (s : State) : Host.Outcome State Fault Refusal := perLane s (loadIssue x 1 true s)
def execLdbu (x : LM) (s : State) : Host.Outcome State Fault Refusal := perLane s (loadIssue x 1 false s)
def execLdh (x : LM) (s : State) : Host.Outcome State Fault Refusal := perLane s (loadIssue x 2 true s)
def execLdhu (x : LM) (s : State) : Host.Outcome State Fault Refusal := perLane s (loadIssue x 2 false s)
def execLdw (x : LM) (s : State) : Host.Outcome State Fault Refusal := perLane s (loadIssue x 4 false s)
def execLdd (x : LM) (s : State) : Host.Outcome State Fault Refusal := perLane s (loadIssue x 8 false s)
def execLdq (x : LM) (s : State) : Host.Outcome State Fault Refusal := perLane s (loadIssue x 16 false s)
def execStb (x : LM) (s : State) : Host.Outcome State Fault Refusal := perLane s (storeIssue x 1 s)
def execSth (x : LM) (s : State) : Host.Outcome State Fault Refusal := perLane s (storeIssue x 2 s)
def execStw (x : LM) (s : State) : Host.Outcome State Fault Refusal := perLane s (storeIssue x 4 s)
def execStd (x : LM) (s : State) : Host.Outcome State Fault Refusal := perLane s (storeIssue x 8 s)
def execStq (x : LM) (s : State) : Host.Outcome State Fault Refusal := perLane s (storeIssue x 16 s)
def execMcstW (x : Mcst) (s : State) : Host.Outcome State Fault Refusal := perLane s (mcstIssue x 4 s)
def execMcstD (x : Mcst) (s : State) : Host.Outcome State Fault Refusal := perLane s (mcstIssue x 8 s)
def execMcstQ (x : Mcst) (s : State) : Host.Outcome State Fault Refusal := perLane s (mcstIssue x 16 s)

-- Uniform accesses.

/-- A uniform access that passed its checks waits for a fill, or goes on (R33, R233). -/
def State.uniTouch (s : State) (w : Who) (dst : Nat × Nat) (p : DWord) (k : State → State) : State :=
  match s.touch w.site p with
  | (s1, some rg) => (s1.setWait w (.fill (some rg) p dst s.seq s.seq)).tick
  | (s1, none) => k s1

/-- A uniform access (R233): class CTL, whoever issues it; its fault is the whole issuer's, as that of a store to an RO region
(R33). -/
def State.uniAccess (s : State) (w : Who) (op : Acc) (p : DWord) (n : Nat) (dst : Nat × Nat) (k : State → Place → State) :
    State :=
  match s.checkAccess w.site .ctl op p n with
  | some c => s.faultAll w c p w.pc
  | none =>
    s.uniTouch w dst p fun s1 =>
      if roStore w.blk op p then s1.faultAll w .accessClass p w.pc
      else
        match s1.place w.site (0, 0) p with
        | (s2, .error c) => s2.faultAll w c p w.pc
        | (s2, .ok pl) => k s2 pl

/-- The pointer of a UI access. -/
def uiPtr (x : UI) (w : Who) (n : Nat) : DWord := ptrAdd (w.uni.spair x.a.toNat) (x.i.toInt * n)

/-- A uniform load of n bytes. -/
def sload (x : UI) (n : Nat) (s : State) : Host.Outcome State Fault Refusal :=
  uniform s 0 (fun w => sOk w x.a.toNat 2 2 && sOk w x.d.toNat (n / 4) (n / 4)) [(x.a.toNat, 2)] fun w =>
    let p := uiPtr x w n
    s.uniAccess w .read p n (0x44 + x.d.toNat, n / 4) fun s1 pl =>
      let late (told : Option (List Byte)) : State :=
        s1.addLate w.agent (w.lateAcc w.agent true s.cycle p pl n x.d.toNat (.load {} none false) told)
      match s1.foretold w.agent (w.site.plain p) pl n with
      | some bs => (late (some bs)).uniWrite w x.d.toNat (loadWords n false bs)
      | none =>
        let (s2, got) := s1.readBy w.site w.agent w.agent (w.site.plain p) none {} pl n
        match got with
        | .bad c => s2.faultAll w c p w.pc
        | .ok bs =>
          if s1.mayLate w pl then (late none).setPc w (w.pc + 4) else s2.uniWrite w x.d.toNat (loadWords n false bs)

/-- The bytes of consecutive uniform registers. -/
def uniBytes (u : Uni) (d n : Nat) : List Byte := (List.range (n / 4)).flatMap fun i => toBytes 4 (u.sget (d + i)).toNat

/-- A uniform store of n bytes: a plain store of the domain. -/
def sstore (x : UI) (n : Nat) (s : State) : Host.Outcome State Fault Refusal :=
  uniform s 0 (fun w => sOk w x.a.toNat 2 2 && sOk w x.d.toNat (n / 4) (n / 4))
    [(x.a.toNat, 2), (x.d.toNat, n / 4)] fun w =>
    let p := uiPtr x w n
    s.uniAccess w .write p n (0, 0) fun s1 pl =>
      match (s1.dirty w.site p n).storeBy w w.agent true none false {} p pl (uniBytes w.uni x.d.toNat n) with
      | (s2, .ok) => s2.setPc w (w.pc + 4)
      | (s2, .bad c) => s2.faultAll w c p w.pc

def execSldw (x : UI) (s : State) : Host.Outcome State Fault Refusal := sload x 4 s
def execSldd (x : UI) (s : State) : Host.Outcome State Fault Refusal := sload x 8 s
def execSstw (x : UI) (s : State) : Host.Outcome State Fault Refusal := sstore x 4 s
def execSstd (x : UI) (s : State) : Host.Outcome State Fault Refusal := sstore x 8 s

end Sys2Proof.Machine
end

