-- ==== Sys2Proof/Machine/Atomic.lean ====
section
/-!
DEFINITION. Lane and uniform atomics (R234 to R236), with the phases that their order adds (R119).
-/
namespace Sys2Proof.Machine

/-- The data register, width and words of an atomic's packed b field (R178). -/
def atomReg (b : Nat) : Nat := 2 * (b / 2)
def atomWidth (b : Nat) : Nat := if b % 2 == 1 then 8 else 4

/-- The registers an atomic's data runs over: CAS also names its swap value. -/
def atomWords (f b : Nat) : Nat := (if f == 7 then 2 else 1) * (atomWidth b / 4)

/-- One lane's atomic; it may be one that takes effect late, or with foretold bytes (R118), and to an RO region it faults
(R33). -/
def State.laneAtom (s : State) (w : Who) (g : Group) (late : Bool) (f b d : Nat) (a : LaneAcc) : State × Except Cause (List Word) :=
  let n := atomWidth b
  let r := atomReg b
  let get (i : Nat) : Nat := if n == 8 then (a.t.vpair i).toNat else (a.t.vget i).toNat
  let swap := if f == 7 then get (r + n / 4) else 0
  if roStore w.blk .atomic a.ptr then (s, .error .accessClass)
  else
    match s.place w.site (g.num, a.lane) a.ptr with
    | (s1, .error c) => (s1, .error c)
    | (s1, .ok p) =>
      let own := w.laneAgent g [a.lane]
      let wait (told : Option (List Byte)) : State :=
        s1.addLate (w.laneAgent g (w.lanes.filter fun l => decide (a.lane ≤ l)))
          (w.lateAcc own false s.cycle a.ptr p n d (.atom f (get r) swap) told)
      match if late then s1.foretold own (w.site.plain a.ptr) p n else none with
      | some bs => (wait (some bs), .ok (oldWords n (ofBytes bs)))
      | none =>
        match s1.atomBy w.site own p f n (get r) swap with
        | (s2, .error c) => (s2, .error c)
        | (s2, .ok old) =>
          if late && s1.mayLate w p then (wait none, .ok [])
          else (s2.atomDirty w.site a.ptr n f old (get r), .ok (oldWords n old))

/-- ATOM in one of its orders (R119, R234, R235): a close just before it where it releases; an open just after it where it
acquires, which follows every earlier access as the atomic itself need not. -/
def atomIssue (x : Atm) (acq rel : Bool) (s : State) (w : Who) (g : Group) : State :=
  let b := x.b.toNat
  let f := x.f.toNat
  let words := atomWords f b
  let ok := srcOk w.grid.desc x.a.toNat 2 && vOk w.grid.desc x.d.toNat (atomWidth b / 4) &&
    vOk w.grid.desc (atomReg b) words
  match issueFault w.chain false false ok [x.a.toNat] with
  | some c => s.laneFaultAll w g false c
  | none =>
    let probe : LaneSpec :=
      { g := x.g, srcs := [(x.a.toNat, 2)], d := atomReg b, dwords := words, readsD := true, eval := fun _ _ _ => {} }
    match probe.poisoned s w g with
    | l :: ls => s.laneFaults w g false ((l :: ls).map fun i => ⟨i, .engineFault, 0, w.addr, w.pc, false⟩)
    | [] =>
      s.lsu w g .atomic (atomWidth b) (x.d.toNat, atomWidth b / 4) (laneAccs w x.g x.a.toNat 0) fun s1 pass =>
        if pass.isEmpty then ⟨s1, [], []⟩
        else
          let who := w.laneAgent g (pass.map (·.lane))
          let s2 := if rel then (s1.orderOwn who allCls).closePhase w.blk.id w.rank w.core else s1
          let o := eachLane (fun s a => s.laneAtom w g (!acq) f b x.d.toNat a) w x.d.toNat s2 pass
          if acq then { o with s := o.s.openAfter who w.core w.ctx } else o

def execAtom (x : Atm) (s : State) : Host.Outcome State Fault Refusal := perLane s (atomIssue x false false s)
def execAtomAcq (x : Atm) (s : State) : Host.Outcome State Fault Refusal := perLane s (atomIssue x true false s)
def execAtomRel (x : Atm) (s : State) : Host.Outcome State Fault Refusal := perLane s (atomIssue x false true s)
def execAtomAr (x : Atm) (s : State) : Host.Outcome State Fault Refusal := perLane s (atomIssue x true true s)

/-- SATOM (R182, R234): once for the issuer, class CTL. -/
def satom (x : SAtm) (ar : Bool) (s : State) : Host.Outcome State Fault Refusal :=
  let b := x.b.toNat
  let f := x.f.toNat
  let n := atomWidth b
  let words := atomWords f b
  uniform s x.c
    (fun w => sOk w x.a.toNat 2 2 && sOk w x.d.toNat (n / 4) (n / 4) && sOk w (atomReg b) words words)
    [(x.a.toNat, 2), (atomReg b, words)] fun w =>
    let p := w.uni.spair x.a.toNat
    let get (i : Nat) : Nat := if n == 8 then (w.uni.spair i).toNat else (w.uni.sget i).toNat
    let data := get (atomReg b)
    let swap := if f == 7 then get (atomReg b + n / 4) else 0
    s.uniAccess w .atomic p n (0x44 + x.d.toNat, n / 4) fun s1 pl =>
      let s2 := if ar then (s1.orderOwn w.agent allCls).closePhase w.blk.id w.rank w.core else s1
      let wait (told : Option (List Byte)) : State :=
        s2.addLate w.agent (w.lateAcc w.agent true s.cycle p pl n x.d.toNat (.atom f data swap) told)
      match if ar then none else s2.foretold w.agent (w.site.plain p) pl n with
      | some bs => (wait (some bs)).uniWrite w x.d.toNat (oldWords n (ofBytes bs))
      | none =>
        match s2.atomBy w.site w.agent pl f n data swap with
        | (s3, .error c) => s3.faultAll w c p w.pc
        | (s3, .ok old) =>
          if !ar && s2.mayLate w pl then (wait none).setPc w (w.pc + 4)
          else
            let s4 := s3.atomDirty w.site p n f old data
            let s5 := if ar then s4.openAfter w.agent w.core w.ctx else s4
            s5.uniWrite w x.d.toNat (oldWords n old)

def execSatom (x : SAtm) (s : State) : Host.Outcome State Fault Refusal := satom x false s
def execSatomAr (x : SAtm) (s : State) : Host.Outcome State Fault Refusal := satom x true s

end Sys2Proof.Machine
end

