-- ==== Sys2Proof/Machine/IntAlu.lean ====
section
/-!
DEFINITION. Integer, logical, address, move-immediate, compare and predicate instructions of the per-lane set
(08_arithmetic_and_control_instructions.md R200 to R203, R207, R208) and the integer XU functions (R209).
-/
namespace Sys2Proof.Machine

/-- A 32-bit LR instruction over its two sources and d (R200). -/
def lr32 (x : LR) (readsD : Bool) (f : Word → Word → Word → Word) : LaneSpec :=
  { g := x.g, w := x.w, h := x.h, srcs := [(x.a.toNat, 1), (x.b.toNat, 1)], d := x.d.toNat, dwords := 1,
    readsD := readsD,
    eval := fun w l t =>
      let r := f (readSrc32 w l t x.a.toNat) (readSrc32 w l t x.b.toNat) (t.vget x.d.toNat)
      { words := [r], latch := some (joinPair r 0) } }

/-- A 64-bit LR instruction over its two pairs (R200, R201). -/
def lr64 (x : LR) (f : DWord → DWord → DWord) : LaneSpec :=
  { g := x.g, w := x.w, h := x.h, srcs := [(x.a.toNat, 2), (x.b.toNat, 2)], d := x.d.toNat, dwords := 2,
    eval := fun w l t =>
      let r := f (readSrc64 w l t x.a.toNat) (readSrc64 w l t x.b.toNat)
      { words := pairWords r, latch := some r } }

-- The values (R200), on 32-bit operands.
def iaddV (a b : Word) : Word := a + b
def isubV (a b : Word) : Word := a - b
def imulV (a b : Word) : Word := a * b
/-- Bits 63:32 of the signed product. -/
def imulhV (a b : Word) : Word := BitVec.ofInt 32 (a.toInt * b.toInt / 2 ^ 32)
/-- Bits 63:32 of the unsigned product. -/
def imulhuV (a b : Word) : Word := BitVec.ofNat 32 (a.toNat * b.toNat / 2 ^ 32)
/-- The shift amount is b[4:0]. -/
def shlV (a b : Word) : Word := a <<< (b.toNat % 32)
def shrV (a b : Word) : Word := a >>> (b.toNat % 32)
def sarV (a b : Word) : Word := a.sshiftRight (b.toNat % 32)
def iminV (a b : Word) : Word := if a.toInt ≤ b.toInt then a else b
def imaxV (a b : Word) : Word := if a.toInt ≤ b.toInt then b else a
def uminV (a b : Word) : Word := if a.toNat ≤ b.toNat then a else b
def umaxV (a b : Word) : Word := if a.toNat ≤ b.toNat then b else a
/-- PADD (R201): the displacement is added to bits 55:0, which wrap; space and rank are kept. -/
def paddV (a b : DWord) : DWord :=
  BitVec.ofNat 64 (a.toNat / 2 ^ 56 * 2 ^ 56 + (a.toNat + b.toNat) % 2 ^ 56)
/-- A shift of R176: kind 0 SHL, 1 SHR, 2 SAR, 3 ROL. -/
def shiftV (kind : Nat) (a : Word) (n : Nat) : Word :=
  match kind with
  | 0 => a <<< n
  | 1 => a >>> n
  | 2 => a.sshiftRight n
  | _ => a.rotateLeft n

def execIadd (x : LR) (s : State) : Host.Outcome State Fault Refusal := (lr32 x false fun a b _ => iaddV a b).run s
def execIsub (x : LR) (s : State) : Host.Outcome State Fault Refusal := (lr32 x false fun a b _ => isubV a b).run s
def execImul (x : LR) (s : State) : Host.Outcome State Fault Refusal := (lr32 x false fun a b _ => imulV a b).run s
def execImulh (x : LR) (s : State) : Host.Outcome State Fault Refusal := (lr32 x false fun a b _ => imulhV a b).run s
def execImulhu (x : LR) (s : State) : Host.Outcome State Fault Refusal := (lr32 x false fun a b _ => imulhuV a b).run s
def execImad (x : LR) (s : State) : Host.Outcome State Fault Refusal :=
  (lr32 x true fun a b d => iaddV (imulV a b) d).run s
def execAnd (x : LR) (s : State) : Host.Outcome State Fault Refusal := (lr32 x false fun a b _ => a &&& b).run s
def execOr (x : LR) (s : State) : Host.Outcome State Fault Refusal := (lr32 x false fun a b _ => a ||| b).run s
def execXor (x : LR) (s : State) : Host.Outcome State Fault Refusal := (lr32 x false fun a b _ => a ^^^ b).run s
def execShl (x : LR) (s : State) : Host.Outcome State Fault Refusal := (lr32 x false fun a b _ => shlV a b).run s
def execShr (x : LR) (s : State) : Host.Outcome State Fault Refusal := (lr32 x false fun a b _ => shrV a b).run s
def execSar (x : LR) (s : State) : Host.Outcome State Fault Refusal := (lr32 x false fun a b _ => sarV a b).run s
def execImin (x : LR) (s : State) : Host.Outcome State Fault Refusal := (lr32 x false fun a b _ => iminV a b).run s
def execImax (x : LR) (s : State) : Host.Outcome State Fault Refusal := (lr32 x false fun a b _ => imaxV a b).run s
def execUmin (x : LR) (s : State) : Host.Outcome State Fault Refusal := (lr32 x false fun a b _ => uminV a b).run s
def execUmax (x : LR) (s : State) : Host.Outcome State Fault Refusal := (lr32 x false fun a b _ => umaxV a b).run s
def execIadd64 (x : LR) (s : State) : Host.Outcome State Fault Refusal := (lr64 x fun a b => a + b).run s
def execPadd (x : LR) (s : State) : Host.Outcome State Fault Refusal := (lr64 x paddV).run s

/-- SEL (R203): never guarded; g is the selector, read as it stood before the chain. -/
def selSpec (x : LR) : LaneSpec :=
  { g := x.g, guarded := false, w := x.w, h := x.h, srcs := [(x.a.toNat, 1), (x.b.toNat, 1)], d := x.d.toNat,
    dwords := 1,
    eval := fun w l t =>
      let r := if t.pget x.g.toNat then readSrc32 w l t x.a.toNat else readSrc32 w l t x.b.toNat
      { words := [r], latch := some (joinPair r 0) } }
def execSel (x : LR) (s : State) : Host.Outcome State Fault Refusal := (selSpec x).run s

-- Moves of immediates (R202).

/-- An LW instruction: an immediate into v(d), which MOVHI also reads. -/
def lwSpec (x : LW) (readsD : Bool) (f : Word → Word) : LaneSpec :=
  { g := x.g, d := x.d.toNat, dwords := 1, readsD := readsD,
    eval := fun _ _ t => { words := [f (t.vget x.d.toNat)] } }
def execMovi (x : LW) (s : State) : Host.Outcome State Fault Refusal :=
  (lwSpec x false fun _ => x.i.signExtend 32).run s
def execMovhi (x : LW) (s : State) : Host.Outcome State Fault Refusal :=
  (lwSpec x true fun d => x.i ++ d.extractLsb' 0 16).run s

/-- IADDI (R202): an LI instruction, never a chain's member (R187). -/
def iaddiSpec (x : LI) : LaneSpec :=
  { g := x.g, noChain := true, srcs := [(x.a.toNat, 1)], d := x.d.toNat, dwords := 1,
    eval := fun w l t => { words := [readSrc32 w l t x.a.toNat + x.i.signExtend 32] } }
def execIaddi (x : LI) (s : State) : Host.Outcome State Fault Refusal := (iaddiSpec x).run s

/-- SHI (R176, R202). -/
def shiSpec (x : ShI) : LaneSpec :=
  { g := x.g, noChain := true, srcs := [(x.a.toNat, 1)], d := x.d.toNat, dwords := 1,
    eval := fun w l t => { words := [shiftV x.k.toNat (readSrc32 w l t x.a.toNat) x.n.toNat] } }
def execShi (x : ShI) (s : State) : Host.Outcome State Fault Refusal := (shiSpec x).run s

-- Predicates.

/-- The latch a predicate value leaves (R186). -/
def predLatch (b : Bool) : DWord := if b then 1 else 0

/-- ICMP (R171, R207). -/
def icmpSpec (x : Cmp) : LaneSpec :=
  { g := x.g, w := x.w, h := x.h, srcs := [(x.a.toNat, 1), (x.b.toNat, 1)], pd := x.p.toNat,
    eval := fun w l t =>
      let r := intCond x.k.toNat 32 (readSrc32 w l t x.a.toNat).toNat (readSrc32 w l t x.b.toNat).toNat
      { pred := some r, latch := some (predLatch r) } }
def execIcmp (x : Cmp) (s : State) : Host.Outcome State Fault Refusal := (icmpSpec x).run s

/-- PLOP (R172, R208). -/
def plopSpec (x : Plop) : LaneSpec :=
  { g := x.g, w := x.w, h := x.h, pd := x.p.toNat, preds := [x.x.toNat, x.y.toNat],
    eval := fun _ _ t =>
      let r := predOp x.o.toNat (t.pget x.x.toNat) (t.pget x.y.toNat)
      { pred := some r, latch := some (predLatch r) } }
def execPlop (x : Plop) (s : State) : Host.Outcome State Fault Refusal := (plopSpec x).run s

-- The integer XU functions (R209).

/-- A one-source 32-bit instruction. -/
def un32 (x : Un) (f : Word → Word) : LaneSpec :=
  { g := x.g, w := x.w, h := x.h, srcs := [(x.a.toNat, 1)], d := x.d.toNat, dwords := 1,
    eval := fun w l t =>
      let r := f (readSrc32 w l t x.a.toNat)
      { words := [r], latch := some (joinPair r 0) } }

def popcV (a : Word) : Word := BitVec.ofNat 32 (popCount 32 a.toNat)
/-- Leading zeros, 32 for zero. -/
def clzV (a : Word) : Word := if a == 0 then 32 else BitVec.ofNat 32 (31 - a.toNat.log2)
def brevV (a : Word) : Word := BitVec.ofNat 32 (reverseBits 32 a.toNat)
def inegV (a : Word) : Word := 0 - a
/-- The magnitude; 0x8000_0000 stays. -/
def iabsV (a : Word) : Word := if bitOf a.toNat 31 then 0 - a else a

def execXuPopc (x : Un) (s : State) : Host.Outcome State Fault Refusal := (un32 x popcV).run s
def execXuClz (x : Un) (s : State) : Host.Outcome State Fault Refusal := (un32 x clzV).run s
def execXuBrev (x : Un) (s : State) : Host.Outcome State Fault Refusal := (un32 x brevV).run s
def execXuIneg (x : Un) (s : State) : Host.Outcome State Fault Refusal := (un32 x inegV).run s
def execXuIabs (x : Un) (s : State) : Host.Outcome State Fault Refusal := (un32 x iabsV).run s

end Sys2Proof.Machine
end

