-- ==== Sys2Proof/Machine/Branch.lean ====
section
/-!
DEFINITION. Control flow (08_arithmetic_and_control_instructions.md R222 to R226): the per-lane branch, call and
jump, and the uniform ones.
-/
namespace Sys2Proof.Machine

/-- An address a signed number of words away, in the 56 bits of a program counter. -/
def pcPlus (pc : Nat) (words : Int) : Nat := toBits 56 ((pc : Int) + 4 * words)

/-- The end of an instruction that moves each lane to a program counter of its own: as `State.laneEnd`; a FLAG_TRAP of
its chain resumes where the lane went (R226, R346). -/
def State.laneEndAt (s : State) (w : Who) (g : Group) (e : LaneEff) (next : Nat → Nat) : State :=
  let vw := (w.chain.map (·.vw)).getD [] ++ e.vw
  let fl := (w.chain.map (·.flags)).getD []
  let s1 := s.applyWrites w.blk.id g.num vw ((w.chain.map (·.pw)).getD [])
  let s2 := s1.modGroup w.blk.id g.num fun x =>
    Group.modLanes { x with chain := none, uni := x.uni.merge (flagsOf fl) } w.lanes fun l t =>
      { t with pc := next l % 2 ^ 56 }
  s2.takeTraps w.blk.id g.num false ((trapLanes w.uni fl w.lanes).map fun l =>
    ⟨l, .flagTrap, 0, BitVec.ofNat 64 w.flagAddr, next l % 2 ^ 56, false⟩)

/-- A branch that no lane's operand makes fault: links written, program counters moved. -/
def noEff : LaneEff := ⟨[], [], [], []⟩

/-- BRV's vote of a lane (R222). -/
def brvTake (x : LB) (t : Thread) : Bool := if x.p == 0 then true else t.pget x.p.toNat != x.i

/-- BRV (R222, R226). -/
def brvIssue (x : LB) (s : State) (w : Who) (g : Group) : State :=
  let bad := w.lanes.filter fun l => s.pPoisoned ⟨w.blk.id, g.num, l⟩ x.p.toNat
  match bad with
  | l :: ls => s.laneFaults w g false ((l :: ls).map fun i => ⟨i, .engineFault, 0, w.addr, w.pc, false⟩)
  | [] =>
    let taken := (w.threads.filter fun (_, t) => brvTake x t).map (·.1)
    let ev := if taken.length == w.lanes.length then 1 else if taken.isEmpty then 2 else 3
    (s.laneEndAt w g noEff fun l => if taken.contains l then pcPlus w.pc x.o.toInt else w.pc + 4).countEvent ev 1
def execBrv (x : LB) (s : State) : Host.Outcome State Fault Refusal := perLane s (brvIssue x s)

/-- The lanes of the fragment at which a guard is true. -/
def Who.guarded (w : Who) (g : BitVec 3) : List Nat := (w.threads.filter fun (_, t) => t.guard g).map (·.1)

/-- The lanes whose guard register an error poisoned (R80). -/
def State.guardPoison (s : State) (w : Who) (g : Group) (p : BitVec 3) : List Nat :=
  w.lanes.filter fun l => s.pPoisoned ⟨w.blk.id, g.num, l⟩ p.toNat

/-- CALL (R180, R223). -/
def callIssue (x : LC) (s : State) (w : Who) (g : Group) : State :=
  match issueFault w.chain false false (vOk w.grid.desc x.d.toNat 2) [] with
  | some c => s.laneFaultAll w g false c
  | none =>
    match s.guardPoison w g x.g with
    | l :: ls => s.laneFaults w g false ((l :: ls).map fun i => ⟨i, .engineFault, 0, w.addr, w.pc, false⟩)
    | [] =>
      let on := w.guarded x.g
      let link := pairWords (BitVec.ofNat 64 ((w.pc + 4) % 2 ^ 56))
      s.laneEndAt w g { noEff with vw := on.flatMap fun l => vwrites l x.d.toNat link }
        fun l => if on.contains l then pcPlus w.pc x.o.toInt else w.pc + 4
def execCall (x : LC) (s : State) : Host.Outcome State Fault Refusal := perLane s (callIssue x s)

/-- The target of JMPR for a lane: bits 55:0 of its pair a (R224). -/
def jmpTarget (x : Jmp) (w : Who) (l : Nat) (t : Thread) : Nat := (readSrc64 w l t x.a.toNat).toNat % 2 ^ 56

/-- JMP and RET (R180, R224): lanes whose target is misaligned fault ALIGNMENT; outside a chain the others jump. Those of a
chain that it ends go back to the chain's head (DESIGN CHOICE, log 105). -/
def jmpIssue (x : Jmp) (s : State) (w : Who) (g : Group) : State :=
  match issueFault w.chain false false (srcOk w.grid.desc x.a.toNat 2) [x.a.toNat] with
  | some c => s.laneFaultAll w g false c
  | none =>
    let probe : LaneSpec := { g := x.g, srcs := [(x.a.toNat, 2)], eval := fun _ _ _ => {} }
    match probe.poisoned s w g with
    | l :: ls => s.laneFaults w g false ((l :: ls).map fun i => ⟨i, .engineFault, 0, w.addr, w.pc, false⟩)
    | [] =>
      let tg := w.threads.map fun (l, t) => (l, if t.guard x.g then jmpTarget x w l t else w.pc + 4)
      let bad := tg.filter fun (_, a) => a % 4 != 0
      let faults := bad.map fun (l, a) => (⟨l, .alignment, 0, BitVec.ofNat 64 a, w.pc, false⟩ : LaneTrap)
      if w.chain.isSome && !faults.isEmpty then s.laneFaults w g false faults
      else (s.laneEndAt w g noEff fun l => tabGet tg l w.pc).takeTraps w.blk.id g.num false faults
def execJmp (x : Jmp) (s : State) : Host.Outcome State Fault Refusal := perLane s (jmpIssue x s)
def execRet (x : Jmp) (s : State) : Host.Outcome State Fault Refusal := perLane s (jmpIssue x s)

-- The uniform branches (R225).

/-- SBR: taken where c(c) xor inv is true. -/
def execSbr (x : UB) (s : State) : Host.Outcome State Fault Refusal :=
  uniform s 0 (fun _ => true) [] fun w =>
    if s.cPoisoned w x.c.toNat then s.faultHere w .engineFault
    else s.setPc w (if w.uni.cget x.c.toNat != x.i then pcPlus w.pc x.o.toInt else w.pc + 4)

/-- SCALL: the link pair, then the jump. -/
def execScall (x : UW) (s : State) : Host.Outcome State Fault Refusal :=
  uniform s 0 (fun w => sOk w x.d.toNat 2 2) [] fun w =>
    (s.uniWrite w x.d.toNat (pairWords (BitVec.ofNat 64 ((w.pc + 4) % 2 ^ 56)))).setPc w (pcPlus w.pc x.i.toInt)

/-- SJMP: a misaligned target faults every thread of the fragment. -/
def sjmp (x : Ua) (s : State) : Host.Outcome State Fault Refusal :=
  uniform s x.c (fun w => sOk w x.a.toNat 2 2) [(x.a.toNat, 2)] fun w =>
    let t := (w.uni.spair x.a.toNat).toNat % 2 ^ 56
    if t % 4 != 0 then s.faultAll w .alignment (BitVec.ofNat 64 t) w.pc else s.setPc w t
def execSjmp (x : Ua) (s : State) : Host.Outcome State Fault Refusal := sjmp x s
def execSjmpRet (x : Ua) (s : State) : Host.Outcome State Fault Refusal := sjmp x s

end Sys2Proof.Machine
end

