-- ==== Sys2Proof/Machine/Float.lean ====
section
/-!
DEFINITION. Floating-point arithmetic, compares and unary functions of the per-lane set
(08_arithmetic_and_control_instructions.md R199, R204 to R207, R209, R210).
-/
namespace Sys2Proof.Machine

/-- GCTL as it stands at issue (R199). -/
def Who.fctl (w : Who) : FCtl := FCtl.ofGctl w.uni.gctl

/-- A lane result of FP32 arithmetic. -/
def out32 (r : FRes) : LaneOut :=
  { words := [BitVec.ofNat 32 r.val], latch := some (BitVec.ofNat 64 (r.val % 2 ^ 32)), flags := r.flags }
/-- A lane result of FP64 arithmetic. -/
def out64 (r : FRes) : LaneOut :=
  { words := pairWords (BitVec.ofNat 64 r.val), latch := some (BitVec.ofNat 64 r.val), flags := r.flags }

/-- An FP32 LR instruction over a, b and d (R204, R205). -/
def f32Spec (x : LR) (readsD : Bool) (f : FCtl → Nat → Nat → Nat → FRes) : LaneSpec :=
  { g := x.g, w := x.w, h := x.h, srcs := [(x.a.toNat, 1), (x.b.toNat, 1)], d := x.d.toNat, dwords := 1,
    readsD := readsD,
    eval := fun w l t =>
      out32 (f w.fctl (readSrc32 w l t x.a.toNat).toNat (readSrc32 w l t x.b.toNat).toNat (t.vget x.d.toNat).toNat) }

/-- An FP64 LR instruction over pairs. -/
def f64Spec (x : LR) (readsD : Bool) (f : FCtl → Nat → Nat → Nat → FRes) : LaneSpec :=
  { g := x.g, w := x.w, h := x.h, srcs := [(x.a.toNat, 2), (x.b.toNat, 2)], d := x.d.toNat, dwords := 2,
    readsD := readsD,
    eval := fun w l t =>
      out64 (f w.fctl (readSrc64 w l t x.a.toNat).toNat (readSrc64 w l t x.b.toNat).toNat (t.vpair x.d.toNat).toNat) }

def execFadd (x : LR) (s : State) : Host.Outcome State Fault Refusal :=
  (f32Spec x false fun c a b _ => fmtF32.add c a b).run s
def execFmul (x : LR) (s : State) : Host.Outcome State Fault Refusal :=
  (f32Spec x false fun c a b _ => fmtF32.mul c a b).run s
def execFfma (x : LR) (s : State) : Host.Outcome State Fault Refusal :=
  (f32Spec x true fun c a b d => fmtF32.fma c a b d).run s
def execFmin (x : LR) (s : State) : Host.Outcome State Fault Refusal :=
  (f32Spec x false fun c a b _ => fmtF32.minMax false c a b).run s
def execFmax (x : LR) (s : State) : Host.Outcome State Fault Refusal :=
  (f32Spec x false fun c a b _ => fmtF32.minMax true c a b).run s
def execDadd (x : LR) (s : State) : Host.Outcome State Fault Refusal :=
  (f64Spec x false fun c a b _ => fmtF64.add c a b).run s
def execDmul (x : LR) (s : State) : Host.Outcome State Fault Refusal :=
  (f64Spec x false fun c a b _ => fmtF64.mul c a b).run s
def execDfma (x : LR) (s : State) : Host.Outcome State Fault Refusal :=
  (f64Spec x true fun c a b d => fmtF64.fma c a b d).run s

/-- DTSUM (R206): the sum in pair d and its error in pair d + 2; GCTL is ignored; the latch receives the sum. -/
def dtsumSpec (x : LRq) : LaneSpec :=
  { g := x.g, h := x.h, srcs := [(x.a.toNat, 2), (x.b.toNat, 2)], d := x.d.toNat, dwords := 4,
    eval := fun w l t =>
      let (sum, err, fl) := dtsum (readSrc64 w l t x.a.toNat).toNat (readSrc64 w l t x.b.toNat).toNat
      { words := pairWords (BitVec.ofNat 64 sum) ++ pairWords (BitVec.ofNat 64 err),
        latch := some (BitVec.ofNat 64 sum), flags := fl } }
def execDtsum (x : LRq) (s : State) : Host.Outcome State Fault Refusal := (dtsumSpec x).run s

/-- FCMP and DCMP (R207). -/
def fcmpSpec (x : Cmp) (f : Fmt) (words : Nat) : LaneSpec :=
  { g := x.g, w := x.w, h := x.h, srcs := [(x.a.toNat, words), (x.b.toNat, words)], pd := x.p.toNat,
    eval := fun w l t =>
      let (r, fl) := f.compare w.fctl x.k.toNat (readSrc w l t x.a.toNat words) (readSrc w l t x.b.toNat words)
      { pred := some r, latch := some (predLatch r), flags := fl } }
def execFcmp (x : Cmp) (s : State) : Host.Outcome State Fault Refusal := (fcmpSpec x fmtF32 1).run s
def execDcmp (x : Cmp) (s : State) : Host.Outcome State Fault Refusal := (fcmpSpec x fmtF64 2).run s

/-- A unary FP32 function (R209). -/
def fun32 (x : Un) (f : FCtl → Nat → FRes) : LaneSpec :=
  { g := x.g, w := x.w, h := x.h, srcs := [(x.a.toNat, 1)], d := x.d.toNat, dwords := 1,
    eval := fun w l t => out32 (f w.fctl (readSrc32 w l t x.a.toNat).toNat) }
/-- A unary FP64 function. -/
def fun64 (x : Un) (f : FCtl → Nat → FRes) : LaneSpec :=
  { g := x.g, w := x.w, h := x.h, srcs := [(x.a.toNat, 2)], d := x.d.toNat, dwords := 2,
    eval := fun w l t => out64 (f w.fctl (readSrc64 w l t x.a.toNat).toNat) }

def execXuFrcp (x : Un) (s : State) : Host.Outcome State Fault Refusal := (fun32 x fmtF32.rcp).run s
def execXuFrsq (x : Un) (s : State) : Host.Outcome State Fault Refusal := (fun32 x fmtF32.rsq).run s
def execXuFsqrt (x : Un) (s : State) : Host.Outcome State Fault Refusal := (fun32 x fmtF32.sqrt).run s
def execXuFexp2 (x : Un) (s : State) : Host.Outcome State Fault Refusal := (fun32 x fexp2).run s
def execXuFlog2 (x : Un) (s : State) : Host.Outcome State Fault Refusal := (fun32 x flog2).run s
def execXuFsin (x : Un) (s : State) : Host.Outcome State Fault Refusal := (fun32 x (fsincos false)).run s
def execXuFcos (x : Un) (s : State) : Host.Outcome State Fault Refusal := (fun32 x (fsincos true)).run s
def execXuFtanh (x : Un) (s : State) : Host.Outcome State Fault Refusal := (fun32 x ftanh).run s
def execXuFfloor (x : Un) (s : State) : Host.Outcome State Fault Refusal :=
  (fun32 x fun c a => fmtF32.integral c .rdn true a).run s
def execXuFceil (x : Un) (s : State) : Host.Outcome State Fault Refusal :=
  (fun32 x fun c a => fmtF32.integral c .rup true a).run s
def execXuFtrunc (x : Un) (s : State) : Host.Outcome State Fault Refusal :=
  (fun32 x fun c a => fmtF32.integral c .rtz true a).run s
def execXuFrint (x : Un) (s : State) : Host.Outcome State Fault Refusal :=
  (fun32 x fun c a => fmtF32.integral c c.rm false a).run s
def execXuFabs (x : Un) (s : State) : Host.Outcome State Fault Refusal :=
  (fun32 x fun c a => fmtF32.signOp c false a).run s
def execXuFneg (x : Un) (s : State) : Host.Outcome State Fault Refusal :=
  (fun32 x fun c a => fmtF32.signOp c true a).run s
def execXuDrcp (x : Un) (s : State) : Host.Outcome State Fault Refusal := (fun64 x fmtF64.rcp).run s
def execXuDrsq (x : Un) (s : State) : Host.Outcome State Fault Refusal := (fun64 x fmtF64.rsq).run s
def execXuDsqrt (x : Un) (s : State) : Host.Outcome State Fault Refusal := (fun64 x fmtF64.sqrt).run s
def execXuDabs (x : Un) (s : State) : Host.Outcome State Fault Refusal :=
  (fun64 x fun c a => fmtF64.signOp c false a).run s
def execXuDneg (x : Un) (s : State) : Host.Outcome State Fault Refusal :=
  (fun64 x fun c a => fmtF64.signOp c true a).run s

end Sys2Proof.Machine
end

