-- ==== Sys2Proof/Machine/Convert.lean ====
section
/-!
DEFINITION. CVT and CVTR (08_arithmetic_and_control_instructions.md R211, R212; 04_data_formats.md R97).
-/
namespace Sys2Proof.Machine

/-- A conversion of `sw` source words to `dw` destination words. -/
def cvtSpec (x : Un) (sw dw : Nat) (f : FCtl → Nat → FRes) : LaneSpec :=
  { g := x.g, w := x.w, h := x.h, srcs := [(x.a.toNat, sw)], d := x.d.toNat, dwords := dw,
    eval := fun w l t =>
      let r := f w.fctl (readSrc w l t x.a.toNat sw)
      if dw == 1 then out32 r else out64 r }

def execCvtS32F32 (x : Un) (s : State) : Host.Outcome State Fault Refusal :=
  (cvtSpec x 1 1 fun c a => fmtF32.toInt c 32 true a).run s
def execCvtU32F32 (x : Un) (s : State) : Host.Outcome State Fault Refusal :=
  (cvtSpec x 1 1 fun c a => fmtF32.toInt c 32 false a).run s
def execCvtF32S32 (x : Un) (s : State) : Host.Outcome State Fault Refusal :=
  (cvtSpec x 1 1 fun c a => fmtF32.ofInt c (sext 32 a)).run s
def execCvtF32U32 (x : Un) (s : State) : Host.Outcome State Fault Refusal :=
  (cvtSpec x 1 1 fun c a => fmtF32.ofInt c (a : Int)).run s
def execCvtS64F64 (x : Un) (s : State) : Host.Outcome State Fault Refusal :=
  (cvtSpec x 2 2 fun c a => fmtF64.toInt c 64 true a).run s
def execCvtU64F64 (x : Un) (s : State) : Host.Outcome State Fault Refusal :=
  (cvtSpec x 2 2 fun c a => fmtF64.toInt c 64 false a).run s
def execCvtF64S64 (x : Un) (s : State) : Host.Outcome State Fault Refusal :=
  (cvtSpec x 2 2 fun c a => fmtF64.ofInt c (sext 64 a)).run s
def execCvtF64U64 (x : Un) (s : State) : Host.Outcome State Fault Refusal :=
  (cvtSpec x 2 2 fun c a => fmtF64.ofInt c (a : Int)).run s
def execCvtF64F32 (x : Un) (s : State) : Host.Outcome State Fault Refusal :=
  (cvtSpec x 1 2 fun c a => fmtF32.toFloat fmtF64 c a).run s
def execCvtF32F64 (x : Un) (s : State) : Host.Outcome State Fault Refusal :=
  (cvtSpec x 2 1 fun c a => fmtF64.toFloat fmtF32 c a).run s
def execCvtS32F64 (x : Un) (s : State) : Host.Outcome State Fault Refusal :=
  (cvtSpec x 2 1 fun c a => fmtF64.toInt c 32 true a).run s
def execCvtF64S32 (x : Un) (s : State) : Host.Outcome State Fault Refusal :=
  (cvtSpec x 1 2 fun c a => fmtF64.ofInt c (sext 32 a)).run s
def execCvtS64F32 (x : Un) (s : State) : Host.Outcome State Fault Refusal :=
  (cvtSpec x 1 2 fun c a => fmtF32.toInt c 64 true a).run s
def execCvtF32S64 (x : Un) (s : State) : Host.Outcome State Fault Refusal :=
  (cvtSpec x 2 1 fun c a => fmtF32.ofInt c (sext 64 a)).run s

/-- F32 into operand format f (R97, R211): FTZ acts on the F32 source only; E8M23 copies the value under FTZ. -/
def toFormat (f : Nat) (c : FCtl) (a : Nat) : FRes :=
  if f == 0x0E then fmtF32.toFloat fmtF32 c a
  else
    let v := fmtF32.input c.ftz a
    let r := convertTo f c.rm v
    ⟨r.code, r.laneFlags v.isSNan⟩

/-- Operand format f into F32 (R94, R211): exact; the T2 code 0b10 gives +0 and FMT; FTZ acts on the F32 result. -/
def fromFormat (f : Nat) (c : FCtl) (a : Nat) : FRes :=
  let (v, bad) := elemValue f (a % 2 ^ fmtBits f)
  match v with
  | .nan sn => ⟨fmtF32.canonNan, flagIf sn flNV⟩
  | .inf n => ⟨fmtF32.infCode n, 0⟩
  | .fin n m e =>
    let r := fmtF32.finish c n m e
    ⟨r.val, r.flags ||| flagIf bad flFMT⟩

/-- CVT to an operand format, or from one. -/
def cvtfSpec (x : CvtF) (f : FCtl → Nat → FRes) : LaneSpec :=
  { g := x.g, w := x.w, h := x.h, srcs := [(x.a.toNat, 1)], d := x.d.toNat, dwords := 1,
    eval := fun w l t => out32 (f w.fctl (readSrc w l t x.a.toNat 1)) }
def execCvtFormatFromF32 (x : CvtF) (s : State) : Host.Outcome State Fault Refusal :=
  (cvtfSpec x (toFormat x.f.toNat)).run s
def execCvtF32FromFormat (x : CvtF) (s : State) : Host.Outcome State Fault Refusal :=
  (cvtfSpec x (fromFormat x.f.toNat)).run s

/-- CVTR (R97, R212): a stochastic rounding with rb = b[15:0]; it neither chains nor suppresses its write-back. -/
def cvtrSpec (x : CvtR) (fmt : Nat) : LaneSpec :=
  { g := x.g, noChain := true, srcs := [(x.a.toNat, 1), (x.b.toNat, 1)], d := x.d.toNat, dwords := 1,
    eval := fun w l t =>
      let c : FCtl := { w.fctl with rm := .sr ((readSrc w l t x.b.toNat 1) % 2 ^ 16) }
      let v := fmtF32.input c.ftz (readSrc w l t x.a.toNat 1)
      let r := convertTo fmt c.rm v
      out32 ⟨r.code, r.laneFlags v.isSNan⟩ }
def execCvtrE8m7 (x : CvtR) (s : State) : Host.Outcome State Fault Refusal := (cvtrSpec x 0x0C).run s
def execCvtrE5m10 (x : CvtR) (s : State) : Host.Outcome State Fault Refusal := (cvtrSpec x 0x0B).run s
def execCvtrE4m3 (x : CvtR) (s : State) : Host.Outcome State Fault Refusal := (cvtrSpec x 0x09).run s
def execCvtrE5m2 (x : CvtR) (s : State) : Host.Outcome State Fault Refusal := (cvtrSpec x 0x0A).run s

end Sys2Proof.Machine
end

