-- ==== Sys2Proof/WellFormed.lean ====
section
/-!
DEFINITION. Well-formedness of an instruction: the exclusions of 07_encoding_and_assembly.md R170 to R184 and R189
that the shape of `Instr` does not make by itself. A step of the device that has no encoding is well formed when
the instance it names exists (R1's counts of dies, clusters, quadrants, functions, stacks and ports).
-/
namespace Sys2Proof

/-- The numbers R184 lists as special registers. -/
def specialReg (n : Nat) : Bool :=
  n ≤ 0x009 || (0x010 ≤ n && n ≤ 0x012) || n == 0x020 || n == 0x022 || n == 0x023 || n == 0x024 ||
    (0x030 ≤ n && n ≤ 0x033) || (0x040 ≤ n && n ≤ 0x046)

/-- The word, or the device step, is one the spec gives (R189). -/
def Instr.wf (i : Instr) : Bool :=
  match i with
  | .iadd _ => true
  | .isub _ => true
  | .imul _ => true
  | .imulh _ => true
  | .imulhu _ => true
  | .imad _ => true
  | .and _ => true
  | .or _ => true
  | .xor _ => true
  | .shl _ => true
  | .shr _ => true
  | .sar _ => true
  | .imin _ => true
  | .imax _ => true
  | .umin _ => true
  | .umax _ => true
  | .iadd64 _ => true
  | .padd _ => true
  | .sel x => x.g != 0
  | .fadd _ => true
  | .fmul _ => true
  | .ffma _ => true
  | .fmin _ => true
  | .fmax _ => true
  | .dadd _ => true
  | .dmul _ => true
  | .dfma _ => true
  | .dtsum _ => true
  | .icmp x => x.p != 0
  | .fcmp x => x.p != 0
  | .dcmp x => x.p != 0
  | .xuFrcp _ => true
  | .xuFrsq _ => true
  | .xuFsqrt _ => true
  | .xuFexp2 _ => true
  | .xuFlog2 _ => true
  | .xuFsin _ => true
  | .xuFcos _ => true
  | .xuFtanh _ => true
  | .xuFfloor _ => true
  | .xuFceil _ => true
  | .xuFtrunc _ => true
  | .xuFrint _ => true
  | .xuFabs _ => true
  | .xuFneg _ => true
  | .xuDrcp _ => true
  | .xuDrsq _ => true
  | .xuDsqrt _ => true
  | .xuDabs _ => true
  | .xuDneg _ => true
  | .xuPopc _ => true
  | .xuClz _ => true
  | .xuBrev _ => true
  | .xuIneg _ => true
  | .xuIabs _ => true
  | .cvtS32F32 _ => true
  | .cvtU32F32 _ => true
  | .cvtF32S32 _ => true
  | .cvtF32U32 _ => true
  | .cvtS64F64 _ => true
  | .cvtU64F64 _ => true
  | .cvtF64S64 _ => true
  | .cvtF64U64 _ => true
  | .cvtF64F32 _ => true
  | .cvtF32F64 _ => true
  | .cvtS32F64 _ => true
  | .cvtF64S32 _ => true
  | .cvtS64F32 _ => true
  | .cvtF32S64 _ => true
  | .cvtFormatFromF32 _ => true
  | .cvtF32FromFormat _ => true
  | .cvtrE8m7 _ => true
  | .cvtrE5m10 _ => true
  | .cvtrE4m3 _ => true
  | .cvtrE5m2 _ => true
  | .plop x => x.p != 0
  | .ballot x => x.wc.toNat ≤ 5
  | .tshflIdx x => x.wc.toNat ≤ 5
  | .tshflXor x => x.wc.toNat ≤ 5
  | .tredAdd x => x.wc.toNat ≤ 5
  | .tredMin x => x.wc.toNat ≤ 5
  | .tredMax x => x.wc.toNat ≤ 5
  | .tredUmin x => x.wc.toNat ≤ 5
  | .tredUmax x => x.wc.toNat ≤ 5
  | .tredAnd x => x.wc.toNat ≤ 5
  | .tredOr x => x.wc.toNat ≤ 5
  | .tredXor x => x.wc.toNat ≤ 5
  | .tredFadd x => x.wc.toNat ≤ 5
  | .tredFmin x => x.wc.toNat ≤ 5
  | .tredFmax x => x.wc.toNat ≤ 5
  | .tredDadd x => x.wc.toNat ≤ 5
  | .movs x => specialReg x.i.toNat
  | .movi _ => true
  | .movhi _ => true
  | .iaddi _ => true
  | .shi _ => true
  | .ldb _ => true
  | .ldbu _ => true
  | .ldh _ => true
  | .ldhu _ => true
  | .ldw _ => true
  | .ldd _ => true
  | .ldq _ => true
  | .stb _ => true
  | .sth _ => true
  | .stw _ => true
  | .std _ => true
  | .stq _ => true
  | .atom _ => true
  | .atomAcq _ => true
  | .atomRel _ => true
  | .atomAr _ => true
  | .brv x => !(x.p == 0 && x.i)
  | .call _ => true
  | .jmp _ => true
  | .ret _ => true
  | .nop _ => true
  | .join => true
  | .refill => true
  | .exit => true
  | .gbar => true
  | .bar _ => true
  | .barArrive _ => true
  | .barWait _ => true
  | .phaseOpen => true
  | .phaseClose => true
  | .fenceBlk => true
  | .fenceDev => true
  | .fenceSys => true
  | .phint _ => true
  | .trap _ => true
  | .waitcL _ => true
  | .mcstW _ => true
  | .mcstD _ => true
  | .mcstQ _ => true
  | .saluAdd _ => true
  | .saluSub _ => true
  | .saluMul _ => true
  | .saluMulh _ => true
  | .saluAnd _ => true
  | .saluOr _ => true
  | .saluXor _ => true
  | .saluShl _ => true
  | .saluShr _ => true
  | .saluSar _ => true
  | .saluMin _ => true
  | .saluMax _ => true
  | .saluMinu _ => true
  | .saluMaxu _ => true
  | .saluAdd64 _ => true
  | .saluPadd _ => true
  | .saddi _ => true
  | .sandi _ => true
  | .sori _ => true
  | .sshi _ => true
  | .smovi _ => true
  | .smovhi _ => true
  | .scmp x => x.d != 0
  | .scop x => x.d != 0
  | .smovs x => specialReg x.i.toNat
  | .smovw x => specialReg x.i.toNat
  | .sv2s _ => true
  | .sfltFadd _ => true
  | .sfltFmul _ => true
  | .sfltFfma _ => true
  | .sfltFcmp x => x.d != 0
  | .sfltDadd _ => true
  | .sfltDmul _ => true
  | .sfltDfma _ => true
  | .sfltDcmp x => x.d != 0
  | .sbr x => !(x.c == 0 && x.i)
  | .scall _ => true
  | .sjmp _ => true
  | .sjmpRet _ => true
  | .sldw _ => true
  | .sldd _ => true
  | .sstw _ => true
  | .sstd _ => true
  | .satom _ => true
  | .satomAr _ => true
  | .loopRun _ => true
  | .loopWait => true
  | .loopAbort => true
  | .dqPush _ => true
  | .dqPop _ => true
  | .dqPoll x => x.b != 0
  | .evqWait _ => true
  | .evqPoll x => x.b != 0
  | .cpG2a _ => true
  | .cpA2g _ => true
  | .cpG2w _ => true
  | .cpA2a _ => true
  | .cpG2g _ => true
  | .cpGather _ => true
  | .cpScatter _ => true
  | .cpFill _ => true
  | .cpmxG2a _ => true
  | .cpmxA2a _ => true
  | .cpmxGather _ => true
  | .mxLds _ => true
  | .mxSwap _ => true
  | .mxStream _ => true
  | .mxGrouped _ => true
  | .mxTile _ => true
  | .accAlloc _ => true
  | .accTryalloc _ => true
  | .accFree _ => true
  | .acceZero _ => true
  | .acceOut _ => true
  | .waitc _ => true
  | .rgnMap _ => true
  | .rgnFlush _ => true
  | .rgnUnmap _ => true
  | .rflSetup _ => true
  | .rflRun _ => true
  | .rflWait _ => true
  | .rflState _ => true
  | .rflAbort => true
  | .launch _ => true
  | .signalAdd _ => true
  | .signalSet _ => true
  | .sysTrapret _ => true
  | .sysGflagsRd _ => true
  | .sysGflagsClr _ => true
  | .sysTimerSet _ => true
  | .sysProfmark _ => true
  | .sysHalt _ => true
  | .sysDbgbrk _ => true
  | .versionCommitComplete _ => true
  | .phaseCloseComplete _ => true
  | .fenceSysComplete _ => true
  | .joinRelease _ => true
  | .gbarComplete _ => true
  | .barrierDeparture _ => true
  | .teamOperationExecute _ => true
  | .waitcSatisfied _ => true
  | .refillUnit _ => true
  | .gtimerDeadline _ => true
  | .stalledPushResume _ => true
  | .copyComplete _ => true
  | .matrixOperationStart _ => true
  | .matrixOperationComplete _ => true
  | .groupedEntryReached _ => true
  | .tileStep _ => true
  | .accAllocGrant _ => true
  | .accumulatorOperationComplete _ => true
  | .regionOperationComplete _ => true
  | .granuleFillComplete _ => true
  | .granuleFillError _ => true
  | .writeBackStart _ => true
  | .writeBackComplete _ => true
  | .launchSlotWrite _ => true
  | .launchComplete _ => true
  | .signalComplete _ => true
  | .loopWalkPush _ => true
  | .loopWalkComplete _ => true
  | .rflSetupBind _ => true
  | .rflInit _ => true
  | .rflConvert _ => true
  | .rflFactor _ => true
  | .rflSolve _ => true
  | .rflUpdate _ => true
  | .rflResidual _ => true
  | .rflTest _ => true
  | .rflDone _ => true
  | .launchGrid _ => true
  | .leaseGrant _ => true
  | .pageMigration _ => true
  | .copyPacket _ => true
  | .waitPacket _ => true
  | .waitWake _ => true
  | .signalPacket _ => true
  | .condPacket _ => true
  | .graphPacket _ => true
  | .graphNodeComplete _ _ _ => true
  | .interruptPacket _ => true
  | .markerPacket _ => true
  | .replSync _ => true
  | .preload _ => true
  | .packetCompletion _ _ => true
  | .queueMap _ => true
  | .waitCycleTimeout _ => true
  | .tryPlace cluster _ => decide (cluster < 16)
  | .blockRestore cluster _ => decide (cluster < 16)
  | .tsliceExpiry cluster => decide (cluster < 16)
  | .graceWindowExpiry _ => true
  | .groupSave _ => true
  | .tregalEnqueue cluster _ => decide (cluster < 16)
  | .tregalPick cluster => decide (cluster < 16)
  | .tregalTick cluster => decide (cluster < 16)
  | .tregalBlock cluster _ => decide (cluster < 16)
  | .tregalWake cluster _ _ => decide (cluster < 16)
  | .tregalMigrate cluster stack => decide (cluster < 16) && decide (stack < 12)
  | .policyWatchdogOverrun cluster => decide (cluster < 16)
  | .sketchCountBurst stack _ _ => decide (stack < 12)
  | .sketchIntervalClose stack => decide (stack < 12)
  | .uncorrectableError _ => true
  | .tlbiGo fn _ => decide (fn < 17)
  | .tlbiComplete fn => decide (fn < 17)
  | .skctlWrite stack _ => decide (stack < 12)
  | .dbellWrite fn _ => decide (fn < 17)
  | .qcbUpdate _ => true
  | .prrespWrite fn _ => decide (fn < 17)
  | .intpendClear fn _ => decide (fn < 17)
  | .interruptMessage fn vector => decide (fn < 17) && decide (vector < 64)
  | .qownWrite quad _ => decide (quad < 768)
  | .qownChange quad => decide (quad < 768)
  | .ptpoolSizeWrite _ => true
  | .trseedWrite cluster _ => decide (cluster < 16)
  | .tregalLoad fn _ => decide (fn < 17)
  | .resetQueue fn _ => decide (fn < 17)
  | .resetContext fn _ => decide (fn < 17)
  | .resetEngine fn _ => decide (fn < 17)
  | .resetPartition fn _ => decide (fn < 17)
  | .resetDevice fn _ => decide (fn < 17)
  | .resetRungTimeout fn => decide (fn < 17)
  | .resetComplete fn => decide (fn < 17)
  | .functionLevelReset fn => decide (fn < 17)
  | .powerOn _ => true
  | .thermalLimitExceeded die => decide (die < 4)
  | .atsInvalidation _ _ => true
  | .hostMemoryAccess _ => true
  | .peerAccess _ => true
  | .getVersion => true
  | .getCapabilities => true
  | .negotiateAlgorithms => true
  | .getDigests => true
  | .getCertificate => true
  | .challenge => true
  | .getMeasurements _ => true
  | .spdmUnsupportedRequest _ => true
  | .debugStop quad => decide (quad < 768)
  | .debugRun quad => decide (quad < 768)
  | .debugDump quad => decide (quad < 768)
  | .monitorClear core _ => decide (core < 192)
  | .registerWrite _ _ => true
  | .priResponse _ _ => true
  | .correctableError _ => true
  | .jxLinkPortDown port _ => decide (port < 16)
  | .peerStoreRejected port fn => decide (port < 16) && decide (fn < 17)
  | .hostCacheSnoop _ => true

end Sys2Proof
end

