-- ==== Sys2Proof/Decode.lean ====
section
/-!
DEFINITION. The decoder, total on any 32-bit word and any bytes, and after it the encoder, both written from the
encoding tables of 07_encoding_and_assembly.md (R165 to R184) and the per-instruction words of chapters 08 to 11.
A word that is not an instruction (R189) decodes to `none`; the step makes that ILLEGAL_ENCODING.
Words are natural numbers here, so that a field is a quotient and a remainder.
-/
namespace Sys2Proof

/-- The n-bit field of w whose lowest bit is lo (R2). -/
abbrev fld (w lo n : Nat) : BitVec n := BitVec.ofNat n (w / 2 ^ lo)

/-- The one-bit field of w at lo. -/
abbrev bit (w lo : Nat) : Bool := w / 2 ^ lo % 2 == 1

/-- The n bits of w at lo hold exactly v: a fixed part of an encoding. -/
abbrev holds (w lo n v : Nat) : Bool := w / 2 ^ lo % 2 ^ n == v

/-- A one-bit field as a number. -/
abbrev bitN (b : Bool) : Nat := if b then 1 else 0

/-- The fields of a word in the layout of `LR`. -/
def decLR (w : Nat) : LR := ⟨fld w 22 3, bit w 21, fld w 15 6, fld w 8 7, fld w 1 7, bit w 0⟩

/-- The bits those fields take in a word. -/
def encLR (x : LR) : Nat := x.g.toNat * 2 ^ 22 + bitN x.w * 2 ^ 21 + x.d.toNat * 2 ^ 15 + x.a.toNat * 2 ^ 8 + x.b.toNat * 2 ^ 1 + bitN x.h

/-- The fields of a word in the layout of `LRq`. -/
def decLRq (w : Nat) : LRq := ⟨fld w 22 3, fld w 15 6, fld w 8 7, fld w 1 7, bit w 0⟩

/-- The bits those fields take in a word. -/
def encLRq (x : LRq) : Nat := x.g.toNat * 2 ^ 22 + x.d.toNat * 2 ^ 15 + x.a.toNat * 2 ^ 8 + x.b.toNat * 2 ^ 1 + bitN x.h

/-- The fields of a word in the layout of `Cmp`. -/
def decCmp (w : Nat) : Cmp := ⟨fld w 22 3, bit w 21, fld w 18 3, fld w 15 3, fld w 8 7, fld w 1 7, bit w 0⟩

/-- The bits those fields take in a word. -/
def encCmp (x : Cmp) : Nat := x.g.toNat * 2 ^ 22 + bitN x.w * 2 ^ 21 + x.k.toNat * 2 ^ 18 + x.p.toNat * 2 ^ 15 + x.a.toNat * 2 ^ 8 + x.b.toNat * 2 ^ 1 + bitN x.h

/-- The fields of a word in the layout of `Un`. -/
def decUn (w : Nat) : Un := ⟨fld w 22 3, bit w 21, fld w 15 6, fld w 8 7, bit w 0⟩

/-- The bits those fields take in a word. -/
def encUn (x : Un) : Nat := x.g.toNat * 2 ^ 22 + bitN x.w * 2 ^ 21 + x.d.toNat * 2 ^ 15 + x.a.toNat * 2 ^ 8 + bitN x.h

/-- The fields of a word in the layout of `CvtF`. -/
def decCvtF (w : Nat) : CvtF := ⟨fld w 22 3, bit w 21, fld w 15 6, fld w 8 7, fld w 1 4, bit w 0⟩

/-- The bits those fields take in a word. -/
def encCvtF (x : CvtF) : Nat := x.g.toNat * 2 ^ 22 + bitN x.w * 2 ^ 21 + x.d.toNat * 2 ^ 15 + x.a.toNat * 2 ^ 8 + x.f.toNat * 2 ^ 1 + bitN x.h

/-- The fields of a word in the layout of `CvtR`. -/
def decCvtR (w : Nat) : CvtR := ⟨fld w 22 3, fld w 15 6, fld w 8 7, fld w 1 7⟩

/-- The bits those fields take in a word. -/
def encCvtR (x : CvtR) : Nat := x.g.toNat * 2 ^ 22 + x.d.toNat * 2 ^ 15 + x.a.toNat * 2 ^ 8 + x.b.toNat * 2 ^ 1

/-- The fields of a word in the layout of `Plop`. -/
def decPlop (w : Nat) : Plop := ⟨fld w 22 3, bit w 21, fld w 18 3, fld w 15 3, fld w 8 3, fld w 1 3, bit w 0⟩

/-- The bits those fields take in a word. -/
def encPlop (x : Plop) : Nat := x.g.toNat * 2 ^ 22 + bitN x.w * 2 ^ 21 + x.o.toNat * 2 ^ 18 + x.p.toNat * 2 ^ 15 + x.x.toNat * 2 ^ 8 + x.y.toNat * 2 ^ 1 + bitN x.h

/-- The fields of a word in the layout of `Ballot`. -/
def decBallot (w : Nat) : Ballot := ⟨fld w 22 3, bit w 21, fld w 15 6, fld w 8 3, fld w 1 3, bit w 0⟩

/-- The bits those fields take in a word. -/
def encBallot (x : Ballot) : Nat := x.g.toNat * 2 ^ 22 + bitN x.w * 2 ^ 21 + x.d.toNat * 2 ^ 15 + x.p.toNat * 2 ^ 8 + x.wc.toNat * 2 ^ 1 + bitN x.h

/-- The fields of a word in the layout of `Tshfl`. -/
def decTshfl (w : Nat) : Tshfl := ⟨fld w 22 3, fld w 16 6, fld w 9 7, fld w 3 6, fld w 0 3⟩

/-- The bits those fields take in a word. -/
def encTshfl (x : Tshfl) : Nat := x.g.toNat * 2 ^ 22 + x.d.toNat * 2 ^ 16 + x.a.toNat * 2 ^ 9 + x.b.toNat * 2 ^ 3 + x.wc.toNat

/-- The fields of a word in the layout of `Tred`. -/
def decTred (w : Nat) : Tred := ⟨fld w 22 3, bit w 21, fld w 15 6, fld w 8 7, fld w 1 3, bit w 0⟩

/-- The bits those fields take in a word. -/
def encTred (x : Tred) : Nat := x.g.toNat * 2 ^ 22 + bitN x.w * 2 ^ 21 + x.d.toNat * 2 ^ 15 + x.a.toNat * 2 ^ 8 + x.wc.toNat * 2 ^ 1 + bitN x.h

/-- The fields of a word in the layout of `LW`. -/
def decLW (w : Nat) : LW := ⟨fld w 22 3, fld w 16 6, fld w 0 16⟩

/-- The bits those fields take in a word. -/
def encLW (x : LW) : Nat := x.g.toNat * 2 ^ 22 + x.d.toNat * 2 ^ 16 + x.i.toNat

/-- The fields of a word in the layout of `LI`. -/
def decLI (w : Nat) : LI := ⟨fld w 22 3, fld w 15 6, fld w 8 7, fld w 0 8⟩

/-- The bits those fields take in a word. -/
def encLI (x : LI) : Nat := x.g.toNat * 2 ^ 22 + x.d.toNat * 2 ^ 15 + x.a.toNat * 2 ^ 8 + x.i.toNat

/-- The fields of a word in the layout of `ShI`. -/
def decShI (w : Nat) : ShI := ⟨fld w 22 3, fld w 15 6, fld w 8 7, fld w 6 2, fld w 0 5⟩

/-- The bits those fields take in a word. -/
def encShI (x : ShI) : Nat := x.g.toNat * 2 ^ 22 + x.d.toNat * 2 ^ 15 + x.a.toNat * 2 ^ 8 + x.k.toNat * 2 ^ 6 + x.n.toNat

/-- The fields of a word in the layout of `LM`. -/
def decLM (w : Nat) : LM := ⟨fld w 22 3, fld w 16 6, fld w 9 7, fld w 7 2, fld w 0 7⟩

/-- The bits those fields take in a word. -/
def encLM (x : LM) : Nat := x.g.toNat * 2 ^ 22 + x.d.toNat * 2 ^ 16 + x.a.toNat * 2 ^ 9 + x.h.toNat * 2 ^ 7 + x.o.toNat

/-- The fields of a word in the layout of `Atm`. -/
def decAtm (w : Nat) : Atm := ⟨fld w 22 3, fld w 16 6, fld w 9 7, fld w 3 6, fld w 0 3⟩

/-- The bits those fields take in a word. -/
def encAtm (x : Atm) : Nat := x.g.toNat * 2 ^ 22 + x.d.toNat * 2 ^ 16 + x.a.toNat * 2 ^ 9 + x.b.toNat * 2 ^ 3 + x.f.toNat

/-- The fields of a word in the layout of `LB`. -/
def decLB (w : Nat) : LB := ⟨fld w 22 3, bit w 21, fld w 0 21⟩

/-- The bits those fields take in a word. -/
def encLB (x : LB) : Nat := x.p.toNat * 2 ^ 22 + bitN x.i * 2 ^ 21 + x.o.toNat

/-- The fields of a word in the layout of `LC`. -/
def decLC (w : Nat) : LC := ⟨fld w 22 3, fld w 16 6, fld w 0 16⟩

/-- The bits those fields take in a word. -/
def encLC (x : LC) : Nat := x.g.toNat * 2 ^ 22 + x.d.toNat * 2 ^ 16 + x.o.toNat

/-- The fields of a word in the layout of `Jmp`. -/
def decJmp (w : Nat) : Jmp := ⟨fld w 22 3, fld w 9 7⟩

/-- The bits those fields take in a word. -/
def encJmp (x : Jmp) : Nat := x.g.toNat * 2 ^ 22 + x.a.toNat * 2 ^ 9

/-- The fields of a word in the layout of `Nop`. -/
def decNop (w : Nat) : Nop := ⟨fld w 22 3, bit w 0⟩

/-- The bits those fields take in a word. -/
def encNop (x : Nop) : Nat := x.g.toNat * 2 ^ 22 + bitN x.h

/-- The fields of a word in the layout of `BarN`. -/
def decBarN (w : Nat) : BarN := ⟨fld w 8 4⟩

/-- The bits those fields take in a word. -/
def encBarN (x : BarN) : Nat := x.n.toNat * 2 ^ 8

/-- The fields of a word in the layout of `PhI`. -/
def decPhI (w : Nat) : PhI := ⟨fld w 8 7⟩

/-- The bits those fields take in a word. -/
def encPhI (x : PhI) : Nat := x.i.toNat * 2 ^ 8

/-- The fields of a word in the layout of `TrapK`. -/
def decTrapK (w : Nat) : TrapK := ⟨fld w 22 3, fld w 8 7⟩

/-- The bits those fields take in a word. -/
def encTrapK (x : TrapK) : Nat := x.g.toNat * 2 ^ 22 + x.k.toNat * 2 ^ 8

/-- The fields of a word in the layout of `WaitL`. -/
def decWaitL (w : Nat) : WaitL := ⟨fld w 15 6, fld w 8 4⟩

/-- The bits those fields take in a word. -/
def encWaitL (x : WaitL) : Nat := x.d.toNat * 2 ^ 15 + x.k.toNat * 2 ^ 8

/-- The fields of a word in the layout of `Mcst`. -/
def decMcst (w : Nat) : Mcst := ⟨fld w 22 3, fld w 15 6, fld w 8 7⟩

/-- The bits those fields take in a word. -/
def encMcst (x : Mcst) : Nat := x.g.toNat * 2 ^ 22 + x.d.toNat * 2 ^ 15 + x.a.toNat * 2 ^ 8

/-- The fields of a word in the layout of `UR`. -/
def decUR (w : Nat) : UR := ⟨fld w 15 6, fld w 9 6, fld w 3 6, fld w 0 3⟩

/-- The bits those fields take in a word. -/
def encUR (x : UR) : Nat := x.d.toNat * 2 ^ 15 + x.a.toNat * 2 ^ 9 + x.b.toNat * 2 ^ 3 + x.c.toNat

/-- The fields of a word in the layout of `UI`. -/
def decUI (w : Nat) : UI := ⟨fld w 19 6, fld w 13 6, fld w 0 13⟩

/-- The bits those fields take in a word. -/
def encUI (x : UI) : Nat := x.d.toNat * 2 ^ 19 + x.a.toNat * 2 ^ 13 + x.i.toNat

/-- The fields of a word in the layout of `SShI`. -/
def decSShI (w : Nat) : SShI := ⟨fld w 19 6, fld w 13 6, fld w 11 2, fld w 0 5⟩

/-- The bits those fields take in a word. -/
def encSShI (x : SShI) : Nat := x.d.toNat * 2 ^ 19 + x.a.toNat * 2 ^ 13 + x.k.toNat * 2 ^ 11 + x.n.toNat

/-- The fields of a word in the layout of `UW`. -/
def decUW (w : Nat) : UW := ⟨fld w 19 6, fld w 0 19⟩

/-- The bits those fields take in a word. -/
def encUW (x : UW) : Nat := x.d.toNat * 2 ^ 19 + x.i.toNat

/-- The fields of a word in the layout of `SCmp`. -/
def decSCmp (w : Nat) : SCmp := ⟨bit w 24, fld w 21 3, fld w 15 3, fld w 9 6, fld w 3 6, fld w 0 3⟩

/-- The bits those fields take in a word. -/
def encSCmp (x : SCmp) : Nat := bitN x.p * 2 ^ 24 + x.k.toNat * 2 ^ 21 + x.d.toNat * 2 ^ 15 + x.a.toNat * 2 ^ 9 + x.b.toNat * 2 ^ 3 + x.c.toNat

/-- The fields of a word in the layout of `SCop`. -/
def decSCop (w : Nat) : SCop := ⟨fld w 21 3, fld w 15 3, fld w 9 3, fld w 3 3, fld w 0 3⟩

/-- The bits those fields take in a word. -/
def encSCop (x : SCop) : Nat := x.o.toNat * 2 ^ 21 + x.d.toNat * 2 ^ 15 + x.x.toNat * 2 ^ 9 + x.y.toNat * 2 ^ 3 + x.c.toNat

/-- The fields of a word in the layout of `SMovs`. -/
def decSMovs (w : Nat) : SMovs := ⟨fld w 19 6, fld w 0 13⟩

/-- The bits those fields take in a word. -/
def encSMovs (x : SMovs) : Nat := x.d.toNat * 2 ^ 19 + x.i.toNat

/-- The fields of a word in the layout of `SMovw`. -/
def decSMovw (w : Nat) : SMovw := ⟨fld w 13 6, fld w 0 13⟩

/-- The bits those fields take in a word. -/
def encSMovw (x : SMovw) : Nat := x.a.toNat * 2 ^ 13 + x.i.toNat

/-- The fields of a word in the layout of `Sv2s`. -/
def decSv2s (w : Nat) : Sv2s := ⟨bit w 21, fld w 15 6, fld w 9 6, fld w 3 5, fld w 0 3⟩

/-- The bits those fields take in a word. -/
def encSv2s (x : Sv2s) : Nat := bitN x.p * 2 ^ 21 + x.d.toNat * 2 ^ 15 + x.a.toNat * 2 ^ 9 + x.l.toNat * 2 ^ 3 + x.c.toNat

/-- The fields of a word in the layout of `SFCmp`. -/
def decSFCmp (w : Nat) : SFCmp := ⟨fld w 18 3, fld w 15 3, fld w 9 6, fld w 3 6, fld w 0 3⟩

/-- The bits those fields take in a word. -/
def encSFCmp (x : SFCmp) : Nat := x.k.toNat * 2 ^ 18 + x.d.toNat * 2 ^ 15 + x.a.toNat * 2 ^ 9 + x.b.toNat * 2 ^ 3 + x.c.toNat

/-- The fields of a word in the layout of `UB`. -/
def decUB (w : Nat) : UB := ⟨fld w 22 3, bit w 21, fld w 0 21⟩

/-- The bits those fields take in a word. -/
def encUB (x : UB) : Nat := x.c.toNat * 2 ^ 22 + bitN x.i * 2 ^ 21 + x.o.toNat

/-- The fields of a word in the layout of `Ua`. -/
def decUa (w : Nat) : Ua := ⟨fld w 9 6, fld w 0 3⟩

/-- The bits those fields take in a word. -/
def encUa (x : Ua) : Nat := x.a.toNat * 2 ^ 9 + x.c.toNat

/-- The fields of a word in the layout of `SAtm`. -/
def decSAtm (w : Nat) : SAtm := ⟨fld w 21 3, fld w 15 6, fld w 9 6, fld w 3 6, fld w 0 3⟩

/-- The bits those fields take in a word. -/
def encSAtm (x : SAtm) : Nat := x.f.toNat * 2 ^ 21 + x.d.toNat * 2 ^ 15 + x.a.toNat * 2 ^ 9 + x.b.toNat * 2 ^ 3 + x.c.toNat

/-- The fields of a word in the layout of `UE2`. -/
def decUE2 (w : Nat) : UE2 := ⟨fld w 15 6, fld w 9 6, fld w 0 9⟩

/-- The bits those fields take in a word. -/
def encUE2 (x : UE2) : Nat := x.e.toNat * 2 ^ 15 + x.f.toNat * 2 ^ 9 + x.t.toNat

/-- The fields of a word in the layout of `Ud`. -/
def decUd (w : Nat) : Ud := ⟨fld w 15 6, fld w 0 3⟩

/-- The bits those fields take in a word. -/
def encUd (x : Ud) : Nat := x.d.toNat * 2 ^ 15 + x.c.toNat

/-- The fields of a word in the layout of `UPoll`. -/
def decUPoll (w : Nat) : UPoll := ⟨fld w 15 6, fld w 3 3, fld w 0 3⟩

/-- The bits those fields take in a word. -/
def encUPoll (x : UPoll) : Nat := x.d.toNat * 2 ^ 15 + x.b.toNat * 2 ^ 3 + x.c.toNat

/-- The fields of a word in the layout of `UE1`. -/
def decUE1 (w : Nat) : UE1 := ⟨fld w 15 6, fld w 0 9⟩

/-- The bits those fields take in a word. -/
def encUE1 (x : UE1) : Nat := x.e.toNat * 2 ^ 15 + x.t.toNat

/-- The fields of a word in the layout of `UE0`. -/
def decUE0 (w : Nat) : UE0 := ⟨fld w 0 9⟩

/-- The bits those fields take in a word. -/
def encUE0 (x : UE0) : Nat := x.t.toNat

/-- The fields of a word in the layout of `WaitU`. -/
def decWaitU (w : Nat) : WaitU := ⟨fld w 19 6, fld w 13 4⟩

/-- The bits those fields take in a word. -/
def encWaitU (x : WaitU) : Nat := x.d.toNat * 2 ^ 19 + x.k.toNat * 2 ^ 13

/-- The fields of a word in the layout of `UEe`. -/
def decUEe (w : Nat) : UEe := ⟨fld w 15 6⟩

/-- The bits those fields take in a word. -/
def encUEe (x : UEe) : Nat := x.e.toNat * 2 ^ 15

/-- The fields of a word in the layout of `Uc`. -/
def decUc (w : Nat) : Uc := ⟨fld w 0 3⟩

/-- The bits those fields take in a word. -/
def encUc (x : Uc) : Nat := x.c.toNat

/-- Major 0x1B of the per-lane set. -/
def decMajor1B (w : Nat) : Option Instr :=
  if holds w 21 1 0 then some (.dtsum (decLRq w))
  else none

/-- Major 0x1F of the per-lane set. -/
def decMajor1F (w : Nat) : Option Instr :=
  if holds w 1 7 0 then some (.xuFrcp (decUn w))
  else if holds w 1 7 1 then some (.xuFrsq (decUn w))
  else if holds w 1 7 2 then some (.xuFsqrt (decUn w))
  else if holds w 1 7 3 then some (.xuFexp2 (decUn w))
  else if holds w 1 7 4 then some (.xuFlog2 (decUn w))
  else if holds w 1 7 5 then some (.xuFsin (decUn w))
  else if holds w 1 7 6 then some (.xuFcos (decUn w))
  else if holds w 1 7 7 then some (.xuFtanh (decUn w))
  else if holds w 1 7 8 then some (.xuFfloor (decUn w))
  else if holds w 1 7 9 then some (.xuFceil (decUn w))
  else if holds w 1 7 10 then some (.xuFtrunc (decUn w))
  else if holds w 1 7 11 then some (.xuFrint (decUn w))
  else if holds w 1 7 12 then some (.xuFabs (decUn w))
  else if holds w 1 7 13 then some (.xuFneg (decUn w))
  else if holds w 1 7 16 then some (.xuDrcp (decUn w))
  else if holds w 1 7 17 then some (.xuDrsq (decUn w))
  else if holds w 1 7 18 then some (.xuDsqrt (decUn w))
  else if holds w 1 7 19 then some (.xuDabs (decUn w))
  else if holds w 1 7 20 then some (.xuDneg (decUn w))
  else if holds w 1 7 24 then some (.xuPopc (decUn w))
  else if holds w 1 7 25 then some (.xuClz (decUn w))
  else if holds w 1 7 26 then some (.xuBrev (decUn w))
  else if holds w 1 7 27 then some (.xuIneg (decUn w))
  else if holds w 1 7 28 then some (.xuIabs (decUn w))
  else none

/-- Major 0x20 of the per-lane set. -/
def decMajor20 (w : Nat) : Option Instr :=
  if holds w 1 7 0 then some (.cvtS32F32 (decUn w))
  else if holds w 1 7 1 then some (.cvtU32F32 (decUn w))
  else if holds w 1 7 2 then some (.cvtF32S32 (decUn w))
  else if holds w 1 7 3 then some (.cvtF32U32 (decUn w))
  else if holds w 1 7 4 then some (.cvtS64F64 (decUn w))
  else if holds w 1 7 5 then some (.cvtU64F64 (decUn w))
  else if holds w 1 7 6 then some (.cvtF64S64 (decUn w))
  else if holds w 1 7 7 then some (.cvtF64U64 (decUn w))
  else if holds w 1 7 8 then some (.cvtF64F32 (decUn w))
  else if holds w 1 7 9 then some (.cvtF32F64 (decUn w))
  else if holds w 1 7 10 then some (.cvtS32F64 (decUn w))
  else if holds w 1 7 11 then some (.cvtF64S32 (decUn w))
  else if holds w 1 7 12 then some (.cvtS64F32 (decUn w))
  else if holds w 1 7 13 then some (.cvtF32S64 (decUn w))
  else if holds w 5 3 2 then some (.cvtFormatFromF32 (decCvtF w))
  else if holds w 5 3 3 then some (.cvtF32FromFormat (decCvtF w))
  else none

/-- Major 0x21 of the per-lane set. -/
def decMajor21 (w : Nat) : Option Instr :=
  if holds w 0 1 0 && holds w 21 1 0 then some (.cvtrE8m7 (decCvtR w))
  else if holds w 0 1 1 && holds w 21 1 0 then some (.cvtrE5m10 (decCvtR w))
  else if holds w 0 1 0 && holds w 21 1 1 then some (.cvtrE4m3 (decCvtR w))
  else if holds w 0 1 1 && holds w 21 1 1 then some (.cvtrE5m2 (decCvtR w))
  else none

/-- Major 0x22 of the per-lane set. -/
def decMajor22 (w : Nat) : Option Instr :=
  if holds w 4 4 0 && holds w 11 4 0 then some (.plop (decPlop w))
  else none

/-- Major 0x23 of the per-lane set. -/
def decMajor23 (w : Nat) : Option Instr :=
  if holds w 4 4 0 && holds w 11 4 0 then some (.ballot (decBallot w))
  else none

/-- Major 0x26 of the per-lane set. -/
def decMajor26 (w : Nat) : Option Instr :=
  if holds w 4 4 0 then some (.tredAdd (decTred w))
  else if holds w 4 4 1 then some (.tredMin (decTred w))
  else if holds w 4 4 2 then some (.tredMax (decTred w))
  else if holds w 4 4 3 then some (.tredUmin (decTred w))
  else if holds w 4 4 4 then some (.tredUmax (decTred w))
  else if holds w 4 4 5 then some (.tredAnd (decTred w))
  else if holds w 4 4 6 then some (.tredOr (decTred w))
  else if holds w 4 4 7 then some (.tredXor (decTred w))
  else if holds w 4 4 8 then some (.tredFadd (decTred w))
  else if holds w 4 4 9 then some (.tredFmin (decTred w))
  else if holds w 4 4 10 then some (.tredFmax (decTred w))
  else if holds w 4 4 11 then some (.tredDadd (decTred w))
  else none

/-- Major 0x2A of the per-lane set. -/
def decMajor2A (w : Nat) : Option Instr :=
  if holds w 21 1 0 then some (.iaddi (decLI w))
  else none

/-- Major 0x2B of the per-lane set. -/
def decMajor2B (w : Nat) : Option Instr :=
  if holds w 5 1 0 && holds w 21 1 0 then some (.shi (decShI w))
  else none

/-- Major 0x3E of the per-lane set. -/
def decMajor3E (w : Nat) : Option Instr :=
  if holds w 0 9 0 && holds w 16 6 0 then some (.jmp (decJmp w))
  else if holds w 0 9 1 && holds w 16 6 0 then some (.ret (decJmp w))
  else none

/-- Major 0x3F of the per-lane set. -/
def decMajor3F (w : Nat) : Option Instr :=
  if holds w 1 21 0 then some (.nop (decNop w))
  else if holds w 0 25 2 then some .join
  else if holds w 0 25 4 then some .refill
  else if holds w 0 25 6 then some .exit
  else if holds w 0 25 8 then some .gbar
  else if holds w 0 8 10 && holds w 12 13 0 then some (.bar (decBarN w))
  else if holds w 0 8 12 && holds w 12 13 0 then some (.barArrive (decBarN w))
  else if holds w 0 8 14 && holds w 12 13 0 then some (.barWait (decBarN w))
  else if holds w 0 25 16 then some .phaseOpen
  else if holds w 0 25 18 then some .phaseClose
  else if holds w 0 25 20 then some .fenceBlk
  else if holds w 0 25 276 then some .fenceDev
  else if holds w 0 25 532 then some .fenceSys
  else if holds w 0 8 22 && holds w 15 10 0 then some (.phint (decPhI w))
  else if holds w 0 8 24 && holds w 15 7 0 then some (.trap (decTrapK w))
  else if holds w 0 8 26 && holds w 12 3 0 && holds w 21 4 0 then some (.waitcL (decWaitL w))
  else if holds w 0 8 92 && holds w 21 1 0 then some (.mcstW (decMcst w))
  else if holds w 0 8 124 && holds w 21 1 0 then some (.mcstD (decMcst w))
  else if holds w 0 8 156 && holds w 21 1 0 then some (.mcstQ (decMcst w))
  else none

/-- Major 0x00 of the uniform set. -/
def decMajor40 (w : Nat) : Option Instr :=
  if holds w 21 4 0 then some (.saluAdd (decUR w))
  else if holds w 21 4 1 then some (.saluSub (decUR w))
  else if holds w 21 4 2 then some (.saluMul (decUR w))
  else if holds w 21 4 3 then some (.saluMulh (decUR w))
  else if holds w 21 4 4 then some (.saluAnd (decUR w))
  else if holds w 21 4 5 then some (.saluOr (decUR w))
  else if holds w 21 4 6 then some (.saluXor (decUR w))
  else if holds w 21 4 7 then some (.saluShl (decUR w))
  else if holds w 21 4 8 then some (.saluShr (decUR w))
  else if holds w 21 4 9 then some (.saluSar (decUR w))
  else if holds w 21 4 10 then some (.saluMin (decUR w))
  else if holds w 21 4 11 then some (.saluMax (decUR w))
  else if holds w 21 4 12 then some (.saluMinu (decUR w))
  else if holds w 21 4 13 then some (.saluMaxu (decUR w))
  else if holds w 21 4 14 then some (.saluAdd64 (decUR w))
  else if holds w 21 4 15 then some (.saluPadd (decUR w))
  else none

/-- Major 0x04 of the uniform set. -/
def decMajor44 (w : Nat) : Option Instr :=
  if holds w 5 6 0 then some (.sshi (decSShI w))
  else none

/-- Major 0x07 of the uniform set. -/
def decMajor47 (w : Nat) : Option Instr :=
  if holds w 18 3 0 then some (.scmp (decSCmp w))
  else none

/-- Major 0x08 of the uniform set. -/
def decMajor48 (w : Nat) : Option Instr :=
  if holds w 6 3 0 && holds w 12 3 0 && holds w 18 3 0 && holds w 24 1 0 then some (.scop (decSCop w))
  else none

/-- Major 0x09 of the uniform set. -/
def decMajor49 (w : Nat) : Option Instr :=
  if holds w 13 6 0 then some (.smovs (decSMovs w))
  else none

/-- Major 0x0A of the uniform set. -/
def decMajor4A (w : Nat) : Option Instr :=
  if holds w 19 6 0 then some (.smovw (decSMovw w))
  else none

/-- Major 0x0B of the uniform set. -/
def decMajor4B (w : Nat) : Option Instr :=
  if holds w 8 1 0 && holds w 22 3 0 then some (.sv2s (decSv2s w))
  else none

/-- Major 0x0C of the uniform set. -/
def decMajor4C (w : Nat) : Option Instr :=
  if holds w 21 4 0 then some (.sfltFadd (decUR w))
  else if holds w 21 4 1 then some (.sfltFmul (decUR w))
  else if holds w 21 4 2 then some (.sfltFfma (decUR w))
  else if holds w 21 4 3 then some (.sfltFcmp (decSFCmp w))
  else if holds w 21 4 4 then some (.sfltDadd (decUR w))
  else if holds w 21 4 5 then some (.sfltDmul (decUR w))
  else if holds w 21 4 6 then some (.sfltDfma (decUR w))
  else if holds w 21 4 7 then some (.sfltDcmp (decSFCmp w))
  else none

/-- Major 0x0F of the uniform set. -/
def decMajor4F (w : Nat) : Option Instr :=
  if holds w 3 6 0 && holds w 15 10 0 then some (.sjmp (decUa w))
  else if holds w 3 6 0 && holds w 15 10 64 then some (.sjmpRet (decUa w))
  else none

/-- Major 0x14 of the uniform set. -/
def decMajor54 (w : Nat) : Option Instr :=
  if holds w 24 1 0 then some (.satom (decSAtm w))
  else if holds w 24 1 1 then some (.satomAr (decSAtm w))
  else none

/-- Major 0x15 of the uniform set. -/
def decMajor55 (w : Nat) : Option Instr :=
  if holds w 21 4 0 then some (.loopRun (decUE2 w))
  else if holds w 0 25 2097152 then some .loopWait
  else if holds w 0 25 4194304 then some .loopAbort
  else none

/-- Major 0x16 of the uniform set. -/
def decMajor56 (w : Nat) : Option Instr :=
  if holds w 3 6 0 && holds w 15 10 0 then some (.dqPush (decUa w))
  else if holds w 3 12 0 && holds w 21 4 1 then some (.dqPop (decUd w))
  else if holds w 6 9 0 && holds w 21 4 2 then some (.dqPoll (decUPoll w))
  else none

/-- Major 0x17 of the uniform set. -/
def decMajor57 (w : Nat) : Option Instr :=
  if holds w 3 12 0 && holds w 21 4 0 then some (.evqWait (decUd w))
  else if holds w 6 9 0 && holds w 21 4 1 then some (.evqPoll (decUPoll w))
  else none

/-- Major 0x18 of the uniform set. -/
def decMajor58 (w : Nat) : Option Instr :=
  if holds w 21 4 0 then some (.cpG2a (decUE2 w))
  else if holds w 21 4 1 then some (.cpA2g (decUE2 w))
  else if holds w 21 4 2 then some (.cpG2w (decUE2 w))
  else if holds w 21 4 3 then some (.cpA2a (decUE2 w))
  else if holds w 21 4 4 then some (.cpG2g (decUE2 w))
  else if holds w 21 4 5 then some (.cpGather (decUE2 w))
  else if holds w 21 4 6 then some (.cpScatter (decUE2 w))
  else if holds w 21 4 7 then some (.cpFill (decUE2 w))
  else none

/-- Major 0x19 of the uniform set. -/
def decMajor59 (w : Nat) : Option Instr :=
  if holds w 21 4 0 then some (.cpmxG2a (decUE2 w))
  else if holds w 21 4 3 then some (.cpmxA2a (decUE2 w))
  else if holds w 21 4 5 then some (.cpmxGather (decUE2 w))
  else none

/-- Major 0x1A of the uniform set. -/
def decMajor5A (w : Nat) : Option Instr :=
  if holds w 9 6 0 && holds w 21 4 0 then some (.mxLds (decUE1 w))
  else if holds w 9 16 4096 then some (.mxSwap (decUE0 w))
  else if holds w 9 6 0 && holds w 21 4 2 then some (.mxStream (decUE1 w))
  else if holds w 9 6 0 && holds w 21 4 3 then some (.mxGrouped (decUE1 w))
  else if holds w 9 6 0 && holds w 21 4 4 then some (.mxTile (decUE1 w))
  else none

/-- Major 0x1B of the uniform set. -/
def decMajor5B (w : Nat) : Option Instr :=
  if holds w 9 6 0 && holds w 21 4 0 then some (.accAlloc (decUE1 w))
  else if holds w 9 6 0 && holds w 21 4 1 then some (.accTryalloc (decUE1 w))
  else if holds w 9 6 0 && holds w 21 4 2 then some (.accFree (decUE1 w))
  else none

/-- Major 0x1C of the uniform set. -/
def decMajor5C (w : Nat) : Option Instr :=
  if holds w 9 6 0 && holds w 21 4 0 then some (.acceZero (decUE1 w))
  else if holds w 9 6 0 && holds w 21 4 1 then some (.acceOut (decUE1 w))
  else none

/-- Major 0x1D of the uniform set. -/
def decMajor5D (w : Nat) : Option Instr :=
  if holds w 0 13 0 && holds w 17 2 0 then some (.waitc (decWaitU w))
  else none

/-- Major 0x1E of the uniform set. -/
def decMajor5E (w : Nat) : Option Instr :=
  if holds w 9 6 0 && holds w 21 4 0 then some (.rgnMap (decUE1 w))
  else if holds w 9 6 0 && holds w 21 4 1 then some (.rgnFlush (decUE1 w))
  else if holds w 9 6 0 && holds w 21 4 2 then some (.rgnUnmap (decUE1 w))
  else none

/-- Major 0x1F of the uniform set. -/
def decMajor5F (w : Nat) : Option Instr :=
  if holds w 9 6 0 && holds w 21 4 0 then some (.rflSetup (decUE1 w))
  else if holds w 9 6 0 && holds w 21 4 1 then some (.rflRun (decUE1 w))
  else if holds w 0 15 0 && holds w 21 4 2 then some (.rflWait (decUEe w))
  else if holds w 0 15 0 && holds w 21 4 3 then some (.rflState (decUEe w))
  else if holds w 0 25 8388608 then some .rflAbort
  else none

/-- Major 0x20 of the uniform set. -/
def decMajor60 (w : Nat) : Option Instr :=
  if holds w 9 6 0 && holds w 21 4 0 then some (.launch (decUE1 w))
  else none

/-- Major 0x21 of the uniform set. -/
def decMajor61 (w : Nat) : Option Instr :=
  if holds w 9 6 0 && holds w 21 4 0 then some (.signalAdd (decUE1 w))
  else if holds w 9 6 0 && holds w 21 4 1 then some (.signalSet (decUE1 w))
  else none

/-- Major 0x22 of the uniform set. -/
def decMajor62 (w : Nat) : Option Instr :=
  if holds w 3 22 0 then some (.sysTrapret (decUc w))
  else if holds w 3 12 0 && holds w 21 4 1 then some (.sysGflagsRd (decUd w))
  else if holds w 3 6 0 && holds w 15 10 128 then some (.sysGflagsClr (decUa w))
  else if holds w 3 6 0 && holds w 15 10 192 then some (.sysTimerSet (decUa w))
  else if holds w 3 6 0 && holds w 15 10 256 then some (.sysProfmark (decUa w))
  else if holds w 3 22 1310720 then some (.sysHalt (decUc w))
  else if holds w 3 22 1572864 then some (.sysDbgbrk (decUc w))
  else none

/-- The instruction a word of this major opcode (with its set bit, R170 and R182) holds, before the checks of R189
that `Instr.wf` makes. -/
def decodeMajor (m w : Nat) : Option Instr :=
  match m with
  | 0 => some (.iadd (decLR w))
  | 1 => some (.isub (decLR w))
  | 2 => some (.imul (decLR w))
  | 3 => some (.imulh (decLR w))
  | 4 => some (.imulhu (decLR w))
  | 5 => some (.imad (decLR w))
  | 6 => some (.and (decLR w))
  | 7 => some (.or (decLR w))
  | 8 => some (.xor (decLR w))
  | 9 => some (.shl (decLR w))
  | 10 => some (.shr (decLR w))
  | 11 => some (.sar (decLR w))
  | 12 => some (.imin (decLR w))
  | 13 => some (.imax (decLR w))
  | 14 => some (.umin (decLR w))
  | 15 => some (.umax (decLR w))
  | 16 => some (.iadd64 (decLR w))
  | 17 => some (.padd (decLR w))
  | 18 => some (.sel (decLR w))
  | 19 => some (.fadd (decLR w))
  | 20 => some (.fmul (decLR w))
  | 21 => some (.ffma (decLR w))
  | 22 => some (.fmin (decLR w))
  | 23 => some (.fmax (decLR w))
  | 24 => some (.dadd (decLR w))
  | 25 => some (.dmul (decLR w))
  | 26 => some (.dfma (decLR w))
  | 27 => decMajor1B w
  | 28 => some (.icmp (decCmp w))
  | 29 => some (.fcmp (decCmp w))
  | 30 => some (.dcmp (decCmp w))
  | 31 => decMajor1F w
  | 32 => decMajor20 w
  | 33 => decMajor21 w
  | 34 => decMajor22 w
  | 35 => decMajor23 w
  | 36 => some (.tshflIdx (decTshfl w))
  | 37 => some (.tshflXor (decTshfl w))
  | 38 => decMajor26 w
  | 39 => some (.movs (decLW w))
  | 40 => some (.movi (decLW w))
  | 41 => some (.movhi (decLW w))
  | 42 => decMajor2A w
  | 43 => decMajor2B w
  | 44 => some (.ldb (decLM w))
  | 45 => some (.ldbu (decLM w))
  | 46 => some (.ldh (decLM w))
  | 47 => some (.ldhu (decLM w))
  | 48 => some (.ldw (decLM w))
  | 49 => some (.ldd (decLM w))
  | 50 => some (.ldq (decLM w))
  | 51 => some (.stb (decLM w))
  | 52 => some (.sth (decLM w))
  | 53 => some (.stw (decLM w))
  | 54 => some (.std (decLM w))
  | 55 => some (.stq (decLM w))
  | 56 => some (.atom (decAtm w))
  | 57 => some (.atomAcq (decAtm w))
  | 58 => some (.atomRel (decAtm w))
  | 59 => some (.atomAr (decAtm w))
  | 60 => some (.brv (decLB w))
  | 61 => some (.call (decLC w))
  | 62 => decMajor3E w
  | 63 => decMajor3F w
  | 64 => decMajor40 w
  | 65 => some (.saddi (decUI w))
  | 66 => some (.sandi (decUI w))
  | 67 => some (.sori (decUI w))
  | 68 => decMajor44 w
  | 69 => some (.smovi (decUW w))
  | 70 => some (.smovhi (decUW w))
  | 71 => decMajor47 w
  | 72 => decMajor48 w
  | 73 => decMajor49 w
  | 74 => decMajor4A w
  | 75 => decMajor4B w
  | 76 => decMajor4C w
  | 77 => some (.sbr (decUB w))
  | 78 => some (.scall (decUW w))
  | 79 => decMajor4F w
  | 80 => some (.sldw (decUI w))
  | 81 => some (.sldd (decUI w))
  | 82 => some (.sstw (decUI w))
  | 83 => some (.sstd (decUI w))
  | 84 => decMajor54 w
  | 85 => decMajor55 w
  | 86 => decMajor56 w
  | 87 => decMajor57 w
  | 88 => decMajor58 w
  | 89 => decMajor59 w
  | 90 => decMajor5A w
  | 91 => decMajor5B w
  | 92 => decMajor5C w
  | 93 => decMajor5D w
  | 94 => decMajor5E w
  | 95 => decMajor5F w
  | 96 => decMajor60 w
  | 97 => decMajor61 w
  | 98 => decMajor62 w
  | _ => none

/-- The instruction a 32-bit word holds, or none where R189 says it is not one. -/
def decode (w : Nat) : Option Instr :=
  match decodeMajor (w / 2 ^ 25) w with
  | some i => if i.wf then some i else none
  | none => none

/-- A little-endian word from its four bytes (R165). -/
def wordOfBytes (b0 b1 b2 b3 : BitVec 8) : Nat :=
  b0.toNat + b1.toNat * 2 ^ 8 + b2.toNat * 2 ^ 16 + b3.toNat * 2 ^ 24

/-- Decoding from the bytes at the program counter: the instruction and the bytes after it. -/
def decodeBytes : List (BitVec 8) → Option (Instr × List (BitVec 8))
  | b0 :: b1 :: b2 :: b3 :: rest => (decode (wordOfBytes b0 b1 b2 b3)).map fun i => (i, rest)
  | _ => none

/-- The four bytes of a word as memory holds them (R165). -/
def bytesOfWord (w : Nat) : List (BitVec 8) :=
  [BitVec.ofNat 8 w, BitVec.ofNat 8 (w / 2 ^ 8), BitVec.ofNat 8 (w / 2 ^ 16), BitVec.ofNat 8 (w / 2 ^ 24)]

/-- What the decoder reads from a table row's word of nbits bits, laid out as the hardware stores it. Every
instruction is one 32-bit word, so a row of any other length is none. -/
def decodeTableWord (nbits w : Nat) : Option Instr :=
  if nbits = 32 then (decodeBytes (bytesOfWord w)).map (·.1) else none

/-- The word of an instruction, or none for a row of the table that has no encoding. -/
def encode (i : Instr) : Option Nat :=
  match i with
  | .iadd x => some (0x00000000 + encLR x)
  | .isub x => some (0x02000000 + encLR x)
  | .imul x => some (0x04000000 + encLR x)
  | .imulh x => some (0x06000000 + encLR x)
  | .imulhu x => some (0x08000000 + encLR x)
  | .imad x => some (0x0a000000 + encLR x)
  | .and x => some (0x0c000000 + encLR x)
  | .or x => some (0x0e000000 + encLR x)
  | .xor x => some (0x10000000 + encLR x)
  | .shl x => some (0x12000000 + encLR x)
  | .shr x => some (0x14000000 + encLR x)
  | .sar x => some (0x16000000 + encLR x)
  | .imin x => some (0x18000000 + encLR x)
  | .imax x => some (0x1a000000 + encLR x)
  | .umin x => some (0x1c000000 + encLR x)
  | .umax x => some (0x1e000000 + encLR x)
  | .iadd64 x => some (0x20000000 + encLR x)
  | .padd x => some (0x22000000 + encLR x)
  | .sel x => some (0x24000000 + encLR x)
  | .fadd x => some (0x26000000 + encLR x)
  | .fmul x => some (0x28000000 + encLR x)
  | .ffma x => some (0x2a000000 + encLR x)
  | .fmin x => some (0x2c000000 + encLR x)
  | .fmax x => some (0x2e000000 + encLR x)
  | .dadd x => some (0x30000000 + encLR x)
  | .dmul x => some (0x32000000 + encLR x)
  | .dfma x => some (0x34000000 + encLR x)
  | .dtsum x => some (0x36000000 + encLRq x)
  | .icmp x => some (0x38000000 + encCmp x)
  | .fcmp x => some (0x3a000000 + encCmp x)
  | .dcmp x => some (0x3c000000 + encCmp x)
  | .xuFrcp x => some (0x3e000000 + encUn x)
  | .xuFrsq x => some (0x3e000002 + encUn x)
  | .xuFsqrt x => some (0x3e000004 + encUn x)
  | .xuFexp2 x => some (0x3e000006 + encUn x)
  | .xuFlog2 x => some (0x3e000008 + encUn x)
  | .xuFsin x => some (0x3e00000a + encUn x)
  | .xuFcos x => some (0x3e00000c + encUn x)
  | .xuFtanh x => some (0x3e00000e + encUn x)
  | .xuFfloor x => some (0x3e000010 + encUn x)
  | .xuFceil x => some (0x3e000012 + encUn x)
  | .xuFtrunc x => some (0x3e000014 + encUn x)
  | .xuFrint x => some (0x3e000016 + encUn x)
  | .xuFabs x => some (0x3e000018 + encUn x)
  | .xuFneg x => some (0x3e00001a + encUn x)
  | .xuDrcp x => some (0x3e000020 + encUn x)
  | .xuDrsq x => some (0x3e000022 + encUn x)
  | .xuDsqrt x => some (0x3e000024 + encUn x)
  | .xuDabs x => some (0x3e000026 + encUn x)
  | .xuDneg x => some (0x3e000028 + encUn x)
  | .xuPopc x => some (0x3e000030 + encUn x)
  | .xuClz x => some (0x3e000032 + encUn x)
  | .xuBrev x => some (0x3e000034 + encUn x)
  | .xuIneg x => some (0x3e000036 + encUn x)
  | .xuIabs x => some (0x3e000038 + encUn x)
  | .cvtS32F32 x => some (0x40000000 + encUn x)
  | .cvtU32F32 x => some (0x40000002 + encUn x)
  | .cvtF32S32 x => some (0x40000004 + encUn x)
  | .cvtF32U32 x => some (0x40000006 + encUn x)
  | .cvtS64F64 x => some (0x40000008 + encUn x)
  | .cvtU64F64 x => some (0x4000000a + encUn x)
  | .cvtF64S64 x => some (0x4000000c + encUn x)
  | .cvtF64U64 x => some (0x4000000e + encUn x)
  | .cvtF64F32 x => some (0x40000010 + encUn x)
  | .cvtF32F64 x => some (0x40000012 + encUn x)
  | .cvtS32F64 x => some (0x40000014 + encUn x)
  | .cvtF64S32 x => some (0x40000016 + encUn x)
  | .cvtS64F32 x => some (0x40000018 + encUn x)
  | .cvtF32S64 x => some (0x4000001a + encUn x)
  | .cvtFormatFromF32 x => some (0x40000040 + encCvtF x)
  | .cvtF32FromFormat x => some (0x40000060 + encCvtF x)
  | .cvtrE8m7 x => some (0x42000000 + encCvtR x)
  | .cvtrE5m10 x => some (0x42000001 + encCvtR x)
  | .cvtrE4m3 x => some (0x42200000 + encCvtR x)
  | .cvtrE5m2 x => some (0x42200001 + encCvtR x)
  | .plop x => some (0x44000000 + encPlop x)
  | .ballot x => some (0x46000000 + encBallot x)
  | .tshflIdx x => some (0x48000000 + encTshfl x)
  | .tshflXor x => some (0x4a000000 + encTshfl x)
  | .tredAdd x => some (0x4c000000 + encTred x)
  | .tredMin x => some (0x4c000010 + encTred x)
  | .tredMax x => some (0x4c000020 + encTred x)
  | .tredUmin x => some (0x4c000030 + encTred x)
  | .tredUmax x => some (0x4c000040 + encTred x)
  | .tredAnd x => some (0x4c000050 + encTred x)
  | .tredOr x => some (0x4c000060 + encTred x)
  | .tredXor x => some (0x4c000070 + encTred x)
  | .tredFadd x => some (0x4c000080 + encTred x)
  | .tredFmin x => some (0x4c000090 + encTred x)
  | .tredFmax x => some (0x4c0000a0 + encTred x)
  | .tredDadd x => some (0x4c0000b0 + encTred x)
  | .movs x => some (0x4e000000 + encLW x)
  | .movi x => some (0x50000000 + encLW x)
  | .movhi x => some (0x52000000 + encLW x)
  | .iaddi x => some (0x54000000 + encLI x)
  | .shi x => some (0x56000000 + encShI x)
  | .ldb x => some (0x58000000 + encLM x)
  | .ldbu x => some (0x5a000000 + encLM x)
  | .ldh x => some (0x5c000000 + encLM x)
  | .ldhu x => some (0x5e000000 + encLM x)
  | .ldw x => some (0x60000000 + encLM x)
  | .ldd x => some (0x62000000 + encLM x)
  | .ldq x => some (0x64000000 + encLM x)
  | .stb x => some (0x66000000 + encLM x)
  | .sth x => some (0x68000000 + encLM x)
  | .stw x => some (0x6a000000 + encLM x)
  | .std x => some (0x6c000000 + encLM x)
  | .stq x => some (0x6e000000 + encLM x)
  | .atom x => some (0x70000000 + encAtm x)
  | .atomAcq x => some (0x72000000 + encAtm x)
  | .atomRel x => some (0x74000000 + encAtm x)
  | .atomAr x => some (0x76000000 + encAtm x)
  | .brv x => some (0x78000000 + encLB x)
  | .call x => some (0x7a000000 + encLC x)
  | .jmp x => some (0x7c000000 + encJmp x)
  | .ret x => some (0x7c000001 + encJmp x)
  | .nop x => some (0x7e000000 + encNop x)
  | .join => some (0x7e000002)
  | .refill => some (0x7e000004)
  | .exit => some (0x7e000006)
  | .gbar => some (0x7e000008)
  | .bar x => some (0x7e00000a + encBarN x)
  | .barArrive x => some (0x7e00000c + encBarN x)
  | .barWait x => some (0x7e00000e + encBarN x)
  | .phaseOpen => some (0x7e000010)
  | .phaseClose => some (0x7e000012)
  | .fenceBlk => some (0x7e000014)
  | .fenceDev => some (0x7e000114)
  | .fenceSys => some (0x7e000214)
  | .phint x => some (0x7e000016 + encPhI x)
  | .trap x => some (0x7e000018 + encTrapK x)
  | .waitcL x => some (0x7e00001a + encWaitL x)
  | .mcstW x => some (0x7e00005c + encMcst x)
  | .mcstD x => some (0x7e00007c + encMcst x)
  | .mcstQ x => some (0x7e00009c + encMcst x)
  | .saluAdd x => some (0x80000000 + encUR x)
  | .saluSub x => some (0x80200000 + encUR x)
  | .saluMul x => some (0x80400000 + encUR x)
  | .saluMulh x => some (0x80600000 + encUR x)
  | .saluAnd x => some (0x80800000 + encUR x)
  | .saluOr x => some (0x80a00000 + encUR x)
  | .saluXor x => some (0x80c00000 + encUR x)
  | .saluShl x => some (0x80e00000 + encUR x)
  | .saluShr x => some (0x81000000 + encUR x)
  | .saluSar x => some (0x81200000 + encUR x)
  | .saluMin x => some (0x81400000 + encUR x)
  | .saluMax x => some (0x81600000 + encUR x)
  | .saluMinu x => some (0x81800000 + encUR x)
  | .saluMaxu x => some (0x81a00000 + encUR x)
  | .saluAdd64 x => some (0x81c00000 + encUR x)
  | .saluPadd x => some (0x81e00000 + encUR x)
  | .saddi x => some (0x82000000 + encUI x)
  | .sandi x => some (0x84000000 + encUI x)
  | .sori x => some (0x86000000 + encUI x)
  | .sshi x => some (0x88000000 + encSShI x)
  | .smovi x => some (0x8a000000 + encUW x)
  | .smovhi x => some (0x8c000000 + encUW x)
  | .scmp x => some (0x8e000000 + encSCmp x)
  | .scop x => some (0x90000000 + encSCop x)
  | .smovs x => some (0x92000000 + encSMovs x)
  | .smovw x => some (0x94000000 + encSMovw x)
  | .sv2s x => some (0x96000000 + encSv2s x)
  | .sfltFadd x => some (0x98000000 + encUR x)
  | .sfltFmul x => some (0x98200000 + encUR x)
  | .sfltFfma x => some (0x98400000 + encUR x)
  | .sfltFcmp x => some (0x98600000 + encSFCmp x)
  | .sfltDadd x => some (0x98800000 + encUR x)
  | .sfltDmul x => some (0x98a00000 + encUR x)
  | .sfltDfma x => some (0x98c00000 + encUR x)
  | .sfltDcmp x => some (0x98e00000 + encSFCmp x)
  | .sbr x => some (0x9a000000 + encUB x)
  | .scall x => some (0x9c000000 + encUW x)
  | .sjmp x => some (0x9e000000 + encUa x)
  | .sjmpRet x => some (0x9e200000 + encUa x)
  | .sldw x => some (0xa0000000 + encUI x)
  | .sldd x => some (0xa2000000 + encUI x)
  | .sstw x => some (0xa4000000 + encUI x)
  | .sstd x => some (0xa6000000 + encUI x)
  | .satom x => some (0xa8000000 + encSAtm x)
  | .satomAr x => some (0xa9000000 + encSAtm x)
  | .loopRun x => some (0xaa000000 + encUE2 x)
  | .loopWait => some (0xaa200000)
  | .loopAbort => some (0xaa400000)
  | .dqPush x => some (0xac000000 + encUa x)
  | .dqPop x => some (0xac200000 + encUd x)
  | .dqPoll x => some (0xac400000 + encUPoll x)
  | .evqWait x => some (0xae000000 + encUd x)
  | .evqPoll x => some (0xae200000 + encUPoll x)
  | .cpG2a x => some (0xb0000000 + encUE2 x)
  | .cpA2g x => some (0xb0200000 + encUE2 x)
  | .cpG2w x => some (0xb0400000 + encUE2 x)
  | .cpA2a x => some (0xb0600000 + encUE2 x)
  | .cpG2g x => some (0xb0800000 + encUE2 x)
  | .cpGather x => some (0xb0a00000 + encUE2 x)
  | .cpScatter x => some (0xb0c00000 + encUE2 x)
  | .cpFill x => some (0xb0e00000 + encUE2 x)
  | .cpmxG2a x => some (0xb2000000 + encUE2 x)
  | .cpmxA2a x => some (0xb2600000 + encUE2 x)
  | .cpmxGather x => some (0xb2a00000 + encUE2 x)
  | .mxLds x => some (0xb4000000 + encUE1 x)
  | .mxSwap x => some (0xb4200000 + encUE0 x)
  | .mxStream x => some (0xb4400000 + encUE1 x)
  | .mxGrouped x => some (0xb4600000 + encUE1 x)
  | .mxTile x => some (0xb4800000 + encUE1 x)
  | .accAlloc x => some (0xb6000000 + encUE1 x)
  | .accTryalloc x => some (0xb6200000 + encUE1 x)
  | .accFree x => some (0xb6400000 + encUE1 x)
  | .acceZero x => some (0xb8000000 + encUE1 x)
  | .acceOut x => some (0xb8200000 + encUE1 x)
  | .waitc x => some (0xba000000 + encWaitU x)
  | .rgnMap x => some (0xbc000000 + encUE1 x)
  | .rgnFlush x => some (0xbc200000 + encUE1 x)
  | .rgnUnmap x => some (0xbc400000 + encUE1 x)
  | .rflSetup x => some (0xbe000000 + encUE1 x)
  | .rflRun x => some (0xbe200000 + encUE1 x)
  | .rflWait x => some (0xbe400000 + encUEe x)
  | .rflState x => some (0xbe600000 + encUEe x)
  | .rflAbort => some (0xbe800000)
  | .launch x => some (0xc0000000 + encUE1 x)
  | .signalAdd x => some (0xc2000000 + encUE1 x)
  | .signalSet x => some (0xc2200000 + encUE1 x)
  | .sysTrapret x => some (0xc4000000 + encUc x)
  | .sysGflagsRd x => some (0xc4200000 + encUd x)
  | .sysGflagsClr x => some (0xc4400000 + encUa x)
  | .sysTimerSet x => some (0xc4600000 + encUa x)
  | .sysProfmark x => some (0xc4800000 + encUa x)
  | .sysHalt x => some (0xc4a00000 + encUc x)
  | .sysDbgbrk x => some (0xc4c00000 + encUc x)
  | .versionCommitComplete _ => none
  | .phaseCloseComplete _ => none
  | .fenceSysComplete _ => none
  | .joinRelease _ => none
  | .gbarComplete _ => none
  | .barrierDeparture _ => none
  | .teamOperationExecute _ => none
  | .waitcSatisfied _ => none
  | .refillUnit _ => none
  | .gtimerDeadline _ => none
  | .stalledPushResume _ => none
  | .copyComplete _ => none
  | .matrixOperationStart _ => none
  | .matrixOperationComplete _ => none
  | .groupedEntryReached _ => none
  | .tileStep _ => none
  | .accAllocGrant _ => none
  | .accumulatorOperationComplete _ => none
  | .regionOperationComplete _ => none
  | .granuleFillComplete _ => none
  | .granuleFillError _ => none
  | .writeBackStart _ => none
  | .writeBackComplete _ => none
  | .launchSlotWrite _ => none
  | .launchComplete _ => none
  | .signalComplete _ => none
  | .loopWalkPush _ => none
  | .loopWalkComplete _ => none
  | .rflSetupBind _ => none
  | .rflInit _ => none
  | .rflConvert _ => none
  | .rflFactor _ => none
  | .rflSolve _ => none
  | .rflUpdate _ => none
  | .rflResidual _ => none
  | .rflTest _ => none
  | .rflDone _ => none
  | .launchGrid _ => none
  | .leaseGrant _ => none
  | .pageMigration _ => none
  | .copyPacket _ => none
  | .waitPacket _ => none
  | .waitWake _ => none
  | .signalPacket _ => none
  | .condPacket _ => none
  | .graphPacket _ => none
  | .graphNodeComplete _ _ _ => none
  | .interruptPacket _ => none
  | .markerPacket _ => none
  | .replSync _ => none
  | .preload _ => none
  | .packetCompletion _ _ => none
  | .queueMap _ => none
  | .waitCycleTimeout _ => none
  | .tryPlace _ _ => none
  | .blockRestore _ _ => none
  | .tsliceExpiry _ => none
  | .graceWindowExpiry _ => none
  | .groupSave _ => none
  | .tregalEnqueue _ _ => none
  | .tregalPick _ => none
  | .tregalTick _ => none
  | .tregalBlock _ _ => none
  | .tregalWake _ _ _ => none
  | .tregalMigrate _ _ => none
  | .policyWatchdogOverrun _ => none
  | .sketchCountBurst _ _ _ => none
  | .sketchIntervalClose _ => none
  | .uncorrectableError _ => none
  | .tlbiGo _ _ => none
  | .tlbiComplete _ => none
  | .skctlWrite _ _ => none
  | .dbellWrite _ _ => none
  | .qcbUpdate _ => none
  | .prrespWrite _ _ => none
  | .intpendClear _ _ => none
  | .interruptMessage _ _ => none
  | .qownWrite _ _ => none
  | .qownChange _ => none
  | .ptpoolSizeWrite _ => none
  | .trseedWrite _ _ => none
  | .tregalLoad _ _ => none
  | .resetQueue _ _ => none
  | .resetContext _ _ => none
  | .resetEngine _ _ => none
  | .resetPartition _ _ => none
  | .resetDevice _ _ => none
  | .resetRungTimeout _ => none
  | .resetComplete _ => none
  | .functionLevelReset _ => none
  | .powerOn _ => none
  | .thermalLimitExceeded _ => none
  | .atsInvalidation _ _ => none
  | .hostMemoryAccess _ => none
  | .peerAccess _ => none
  | .getVersion => none
  | .getCapabilities => none
  | .negotiateAlgorithms => none
  | .getDigests => none
  | .getCertificate => none
  | .challenge => none
  | .getMeasurements _ => none
  | .spdmUnsupportedRequest _ => none
  | .debugStop _ => none
  | .debugRun _ => none
  | .debugDump _ => none
  | .monitorClear _ _ => none
  | .registerWrite _ _ => none
  | .priResponse _ _ => none
  | .correctableError _ => none
  | .jxLinkPortDown _ _ => none
  | .peerStoreRejected _ _ => none
  | .hostCacheSnoop _ => none

end Sys2Proof
end

