-- ==== Sys2Proof/Machine/Fetch.lean ====
section
/-!
DEFINITION. From an agent to its instruction: residency and eligibility (R145, R325), fragments, the fetch through the
grid's X ranges, translation and the instruction cache (R56, R57, R77, R165), and what the word's bits fault by
themselves (R187, R189).
-/
namespace Sys2Proof.Machine

/-- Whether a block stands on its cores. -/
def Block.resident (b : Block) : Bool := b.pre != .swapped

/-- Whether the quadrant of a member is under a debug stop (R367). -/
def State.frozen (s : State) (b : Block) (ctx rank quad : Nat) : Bool :=
  let core := b.coreOf rank
  (s.quadHw (quadNo core (s.physQuad core (s.ctxFn ctx) quad))).stopped

/-- A thread that may issue: RUNNING or TRAPPED, at no wait (R325). -/
def Thread.canIssue (t : Thread) : Bool := t.present && t.wait == .none

/-- The lanes of a group that may issue at a program counter: the fragment (R145). -/
def Group.fragmentAt (g : Group) (pc : Nat) : List Nat :=
  (List.range 32).filter fun i => ((g.thread? i).map fun t => t.canIssue && t.pc == pc).getD false

/-- The fragment that an issue turn for some lanes of a group stands for: every eligible thread at the program counter
of the lowest named lane that may issue; a chain in progress on the group keeps its own lanes together (R186). -/
def Group.fragmentOf (g : Group) (m : BitVec 32) : Option (List Nat × Nat) :=
  match (lanesOf m).filter fun i => ((g.thread? i).map Thread.canIssue).getD false with
  | [] => none
  | l :: _ =>
    (g.thread? l).map fun t =>
      match g.chain with
      | some c => if bitOf c.lanes.toNat l then (lanesOf c.lanes, t.pc)
                  else ((g.fragmentAt t.pc).filter fun i => !bitOf c.lanes.toNat i, t.pc)
      | none => (g.fragmentAt t.pc, t.pc)

/-- The agent of a turn as it stands: its whole fragment, none where it may not issue. -/
def State.ready (s : State) (a : Agent) : Option Agent :=
  match a with
  | .none => none
  | .frag b g m =>
    (s.block? b).bind fun blk => (s.grid? blk.grid).bind fun gr => (blk.group? g).bind fun grp =>
      if !blk.resident || grp.retired || grp.saved || s.frozen blk gr.ctx (blk.rankOf g) (blk.quadOf g) ||
          (blk.pre == .hard && grp.chain.isNone) then none
      else (grp.fragmentOf m).map fun f => .frag b g (maskOf f.1)
  | .ctl b rank quad =>
    (s.block? b).bind fun blk => (s.grid? blk.grid).bind fun gr => (blk.ctl? rank quad).bind fun c =>
      if !blk.resident || s.frozen blk gr.ctx rank quad || blk.pre != .none then none
      else if (c.st == .running || c.st == .trapped) && c.wait == .none then some (.ctl b rank quad) else none

/-- The group whose chain occupies the per-lane pipe of a quadrant (R186). -/
def Block.chainOn (b : Block) (rank quad : Nat) : Option Group :=
  b.groups.find? fun g => g.chain.isSome && b.rankOf g.num == rank && b.quadOf g.num == quad && !g.retired

/-- The chain in progress on a core's quadrant, as the agent that issues next on its per-lane pipe. -/
def State.pipeChain (s : State) (core physq : Nat) : Option Agent :=
  (s.blocks.filterMap fun b =>
    if !b.resident then none
    else
      b.groups.findSome? fun g =>
        match g.chain with
        | none => none
        | some c =>
          let k := b.coreOf (b.rankOf g.num)
          let fn := ((s.grid? b.grid).map fun x => s.ctxFn x.ctx).getD 0
          if k == core && s.physQuad k fn (b.quadOf g.num) == physq then some (Agent.frag b.id g.num c.lanes) else none).head?

/-- What a fetch gives: the word, or the fault of the fetch (R57, R79). -/
inductive Fetched where
  | word (w : Nat)
  | bad (c : Cause)
deriving DecidableEq, Repr

/-- The fetch of the word at a program counter by a core for a grid (R165): its X lease, its translation, the core's
instruction cache, which a miss fills from the home; one that a peer rejects faults as a load does (DESIGN CHOICE, log 97). -/
def State.fetch (s : State) (x : Site) (pc : Nat) : State × Fetched :=
  if !x.grid.leased .x pc 4 then (s, .bad .leaseViolation)
  else
    let (s1, t) := s.globPlace x pc false
    match t with
    | .error c => (s1, .bad c)
    | .ok p =>
      let key := match p with
        | .glob k _ _ _ => k
        | .peer k => k
        | .buf k => k
        | .cell k => k
        | .konst k => k
      let here (l : IcLine) : Bool := l.is x.ctx (key / 128)
      match ((s1.coreHw x.core).ic.find? here).bind fun l => heldBytes l.bytes (key % 128) 4 with
      | some bs => (s1.modCoreHw x.core fun h => { h with ic := toFront here id h.ic }, .word (ofBytes bs))
      | none =>
        if s1.poisoned key 4 then (s1, .bad .engineFault)
        else if let .peer k := p then
          match s1.peerFault .read k with
          | some c => (s1, .bad c)
          | none => (s1.icFill x.core x.ctx (key / 128), .word (ofBytes (s1.readMem key 4)))
        else (s1.icFill x.core x.ctx (key / 128), .word (ofBytes (s1.readMem key 4)))

/-- The fault of a word that decodes to no instruction: CHAIN_VIOLATION for a SYNC other than NOP whose only flaw is
h = 1 (R187, R238), ILLEGAL_ENCODING otherwise, and for every per-lane word of a control thread (R165, R189). -/
def badWord (ctl : Bool) (w : Nat) : Cause :=
  if !ctl && w / 2 ^ 25 == 0x3F && w % 2 == 1 && (decode (w - 1)).isSome then .chainViolation else .illegalEncoding

/-- Whether a word of no instruction has its chain bit set: its major's format has one (R167, R170 to R173, R179). -/
def chainBit (w : Nat) : Bool :=
  let m := w / 2 ^ 25
  (decide (m ≤ 0x20) || m == 0x22 || m == 0x23 || m == 0x26 || m == 0x3F) && w % 2 == 1

/-- The fault of the issuer's word itself (R166): inside a chain it aborts the chain. -/
def State.wordFault (s : State) (w : Who) (c : Cause) (h : Bool) : State :=
  match w.grp with
  | some g => s.laneFaultAll w g h c
  | none => s.faultHere w c

/-- An issue noted for the ages of R325 and the per-lane issue cycles of R335. -/
def State.noteIssue (s : State) (w : Who) (uni : Bool) : State :=
  match w.grp, w.ctl with
  | some g, _ =>
    let s1 := s.modLanes w.blk.id g.num w.lanes fun _ t =>
      if uni then { t with lastUni := some s.cycle } else { t with lastLane := some s.cycle }
    if uni then s1 else s1.modCoreHw w.core fun h => { h with issues := h.issues + 1 }
  | none, some c => s.modCtl w.blk.id c.rank c.quad fun x => { x with lastUni := some s.cycle }
  | none, none => s

/-- GTIMER of a resident agent counts ACLK cycles (R361). -/
def Uni.count (u : Uni) (n : Nat) : Uni := { u with gtimer := u.gtimer + BitVec.ofNat 64 n }

/-- A group whose quadrant stands stopped while n cycles pass: its ages keep their distance to the present (R367). -/
def Group.held (g : Group) (n : Nat) : Group :=
  { g with
    placedAt := g.placedAt + n,
    threads := g.threads.map fun t => { t with lastLane := t.lastLane.map (· + n), lastUni := t.lastUni.map (· + n) } }
/-- A control thread in the same case. -/
def Ctl.held (c : Ctl) (n : Nat) : Ctl := { c with placedAt := c.placedAt + n, lastUni := c.lastUni.map (· + n) }

/-- Whether any quadrant of a block stands under a debug stop. -/
def State.anyFrozen (s : State) (b : Block) (ctx : Nat) : Bool := b.pairs.any fun p => s.frozen b ctx p.rank p.quad

/-- A resident block while n cycles pass, m of the time unit: GTIMERs count (R361), a stopped quadrant's agents keep their
ages and hold back the grace window (R358, R367). -/
def State.blockTime (s : State) (b : Block) (n m : Nat) : Block :=
  let ctx := ((s.grid? b.grid).map (·.ctx)).getD 0
  { b with
    groups := b.groups.map fun g =>
      if s.frozen b ctx (b.rankOf g.num) (b.quadOf g.num) then g.held n else { g with uni := g.uni.count n },
    ctls := b.ctls.map fun c => if s.frozen b ctx c.rank c.quad then c.held n else { c with uni := c.uni.count n },
    pre := match b.pre with
      | .soft e => if s.anyFrozen b ctx then .soft (e + m) else .soft e
      | p => p }

/-- The time n cycles take, in seventeenths of a nanosecond: 10 each, and by an open amount more where a die's ACLK has been
lowered (R384). -/
def State.cycleTime (s : State) (n : Nat) : Nat :=
  if s.dies.any (·.2.slowed) then 10 * n + (Config.freeDWord s.fresh).toNat else 10 * n

/-- ACLK cycles passing: CLK64 (R359) and what counts with them. -/
def State.passCycles (s : State) (n : Nat) : State :=
  let m := s.cycleTime n
  { s with
    cycle := s.cycle + n,
    clk17 := s.clk17 + m,
    fresh := if s.dies.any (·.2.slowed) then s.fresh + 1 else s.fresh,
    blocks := s.blocks.map fun b => if b.resident then s.blockTime b n m else b }

/-- The lanes of a fragment whose FLAG_TRAP is due before their next instruction (R112, R186), with its address. -/
def Who.dueFlags (w : Who) : List (Nat × Nat) := w.threads.filterMap fun (l, t) => t.flagDue.map fun a => (l, a)

/-- Those lanes trap, at their present program counter as the resume point. -/
def State.takeDueFlags (s : State) (w : Who) (g : Group) (ds : List (Nat × Nat)) : State :=
  let s1 := s.modLanes w.blk.id g.num (ds.map (·.1)) fun _ t => { t with flagDue := none }
  s1.takeTraps w.blk.id g.num false
    (ds.map fun (l, a) => ⟨l, .flagTrap, 0, BitVec.ofNat 64 a, w.pc, false⟩)

/-- A branch's outcome and the profiling marks are counted by the instruction; the age of an agent at an instant (R325). -/
def ageOf (now placed : Nat) (last : Option Nat) : Nat := min 65535 (now - (last.getD placed))

end Sys2Proof.Machine
end

