-- ==== Sys2Proof/Machine/Blocks.lean ====
section
/-!
DEFINITION. The parts of a block as its first placement makes them (R147, R149, R150, R253), and the smallest setting in
which one word issues next, for `State.withFetchWord`.
-/
namespace Sys2Proof.Machine

/-- Uniform state at a start: registers zero, conditions false, GCTL at reset, GFLAGS, CBSEL and GTIMER zero (R147). -/
def Uni.start (n : Nat) : Uni := ⟨List.replicate n 0, 0, 0, 0, 0, 0, 0, []⟩

/-- A thread at its start (R147, R155): no item. -/
def Thread.start (d : GridDesc) : Thread :=
  { pc := d.groupEntry, v := List.replicate d.vCount 0, p := 0, st := .running, wait := .none, item := none, icnt := 0,
    trap := {}, arr := List.replicate 16 none, skipWatch := false, flagDue := none, lastLane := none, lastUni := none }

/-- A group at its first placement. -/
def Group.start (d : GridDesc) (num slot now : Nat) : Group :=
  { num := num, slot := slot, uni := Uni.start d.uCount, threads := List.replicate 32 (Thread.start d), chain := none,
    placedAt := now, retired := false, saved := false }

/-- A control thread at its start (R253): s0 to s63 whatever the launch declares; its TITEM reads as R345 says. -/
def Ctl.start (d : GridDesc) (rank quad now : Nat) : Ctl :=
  { rank := rank, quad := quad, pc := d.ctlEntry, uni := Uni.start 64, st := .running, wait := .none,
    trap := { titem := BitVec.ofNat 64 (2 ^ 63) }, placedAt := now, lastUni := none }

/-- A pair at the block's first placement (R150, R256, R258). -/
def Pair.start (rank quad : Nat) : Pair :=
  { rank := rank, quad := quad, k := List.replicate 16 0, dq := [], evq := [], evqdrop := 0, seq := 0, log := [],
    loadsFrom := 0, savedActive := none, savedShadow := none, unjoined := [], bind := none, bindView := false, bindMask := 0, run := none, lastRun := none }

/-- A block barrier before any arrival (R241). -/
def Barrier.start (groups : Nat) : Barrier := ⟨0, List.replicate groups 0, List.replicate groups false⟩

/-- The (member, logical quadrant) pairs to which R149 gives a group, in order. -/
def occupied (g m : Nat) : List (Nat × Nat) :=
  (List.range m).flatMap fun r => ((List.range 4).filter fun q => decide (q * m + r < g)).map fun q => (r, q)

/-- A block as a first placement on some cores makes it. -/
def Block.start (d : GridDesc) (id grid num : Nat) (cores : List Nat) (cbase : Nat) (slots : List Nat) (priv : Option Nat)
    (now ns : Nat) : Block :=
  let pairs := occupied d.g cores.length
  { id := id, grid := grid, num := num, cores := cores, cluster := clusterOf (cores.getD 0 0), cbase := cbase,
    groups := (List.range d.g).map fun i => Group.start d i (slots.getD i 0) now,
    ctls := if d.ctlEntry == 0 then [] else pairs.map fun (r, q) => Ctl.start d r q now,
    pairs := pairs.map fun (r, q) => Pair.start r q,
    bars := List.replicate 16 (Barrier.start d.g), regions := [], cb := [], doms := List.replicate cores.length [],
    priv := priv, privPins := [], pre := .none, placedNs := ns, frame := none }

/-- A block for which loads of its quadrants' planes count from an instant on (R266). -/
def Block.loadsCount (b : Block) (at_ : Nat) : Block :=
  { b with pairs := b.pairs.map fun p => { p with loadsFrom := at_ } }

/-- CLK64 in nanoseconds (R359). -/
def State.ns (s : State) : Nat := s.clk17 / 17

-- The setting of `withFetchWord` where nothing issues: one context, one page at VA 0 with every right, one block.

/-- The descriptor of that grid: code base 0, entries at 0x40, all 64 registers. -/
def bootDesc (ctl : Bool) : GridDesc :=
  { codeBase := 0, groupEntry := 0x40, ctlEntry := if ctl then 0x40 else 0, handler := 0x80, refillSite := some 0x40,
    vCount := 64, uCount := 64, unit := 32, vers := false, power := false, cls := 0, vlo := 0, vhi := 0,
    clear := false, g := 1, m := 1, c := 1, cbHint := 0, maxBlocks := 1, items := 64, leasePtr := 0, argPtr := 0,
    argLen := 0, ablim := 0, constPtr := 0, privBase := 0, privLen := 0, recs := 0 }

/-- Its page tables: three table pointers and one 4 KiB leaf, V LF RD WR EX AC DT. -/
def bootTables : List (Nat × Nat) :=
  [(0x10000, 0x14001), (0x14000, 0x18001), (0x18000, 0x1C001), (0x1C000, 0x20C73)]

/-- That setting over a state: context 1 of function 0, its root, a granted lease over the page, one resident block of
one group on core 0. Other blocks, agenda and grids are out of the way. -/
def State.bootOver (s : State) (ctl : Bool) : State :=
  let d := bootDesc ctl
  let lease : LeaseRange := ⟨0, 4096, true, true, true, true, false, 0, 0, 0⟩
  let gr : Grid :=
    { id := 0, ctx := 1, queue := 0, index := 0, node := none, desc := d, leases := [lease], lease := .granted,
      pins := [], sidePins := [], ctr := 0, nextBlock := 1, live := 1, priv := [], prio := 0, offers := [],
      offered := true, pass := 0, reserved := false, reservedAt := 0, complete := false }
  { s with
    ctxs := tabSet s.ctxs 1 ⟨BitVec.ofNat 64 0x10001, BitVec.ofNat 32 (1 + 2 ^ 31), 0xFFFF⟩,
    mem := bootTables.foldl (fun m e => memWrite m e.1 (toBytes 8 e.2)) s.mem,
    poison := [], regPoison := [], ops := [], wq := {}, grids := [gr],
    blocks := [(Block.start d 0 0 0 [0] 0x1F0000 [0] none s.cycle s.ns).loadsCount s.seq],
    cores := tabSet s.cores 0 {}, quads := tabSet s.quads 0 {},
    agenda := [.issue (if ctl then .ctl 0 0 0 else .frag 0 0 0xFFFFFFFF)], cur := .none }

/-- The word a fetch at a physical place finds, written there and dropped from every instruction cache. -/
def State.putWord (s : State) (key w : Nat) : State :=
  let s1 := s.homeWrite key (toBytes 4 w)
  { s1 with cores := s1.cores.map fun c => (c.1, { c.2 with ic := c.2.ic.filter fun l => l.line != key / 128 }) }

/-- The place an agent's next fetch reads, none where the lease or the translation fails. -/
def State.fetchPlace (s : State) (w : Who) : Option Nat :=
  if !w.grid.leased .x w.pc 4 then none
  else
    match (s.globPlace w.site w.pc false).2 with
    | .ok (.glob k _ _ _) => some k
    | .ok (.peer k) => some k
    | _ => none

/-- Instructions that only a control thread may issue (R151, R280). -/
def ctlOnly (i : Instr) : Bool :=
  match i with
  | .loopRun _ => true
  | .loopWait => true
  | .loopAbort => true
  | .dqPush _ => true
  | .evqWait _ => true
  | .evqPoll _ => true
  | .sysHalt _ => true
  | _ => false

end Sys2Proof.Machine
end

