-- ==== Sys2Proof/Machine/Frames.lean ====
section
/-!
DEFINITION. Frames and the spill area (14_traps_preemption_debug.md R356): the image of a saved member that the shadow store has no
frame for, written to HBM and read back. Of a frame's layout every part but the header has contents that the spec names; the header,
where R356 gives no place to any of its fields, is the block's own record, and reads of it from outside are free (logs 25, 90).
-/
namespace Sys2Proof.Machine

/-- The bytes of a frame. -/
def frameBytes : Nat := 6 * 2 ^ 20

/-- The offset of a thread's vector registers in a frame: slots of the core's quadrants in order, then lanes. -/
def vOffset (quad slot lane : Nat) : Nat := 0x10000 + ((quad * 48 + slot) * 32 + lane) * 256
/-- The offset of a group's uniform registers; those of control threads follow (log 90). -/
def sOffset (quad slot : Nat) : Nat := 0x190000 + (quad * 48 + slot) * 256
def ctlOffset (quad : Nat) : Nat := 0x190000 + (192 + quad) * 256

/-- The offset of a saved byte of a member's storage: CLS, CB cells of five bytes, AB ranges at their own addresses (log 90). -/
def storageOffset (kind off : Nat) : Nat :=
  match kind with
  | 0 => 0x270000 + off
  | 1 => 0x1A0000 + off / 65536 * 40960 + off % 65536 / 8 * 5 + off % 8
  | _ => 0x370000 + off

/-- The kind and offset of the storage that a frame's offset holds, none in its other parts. -/
def storageAt (off : Nat) : Option (Nat × Nat) :=
  if 0x1A0000 ≤ off && off < 0x240000 then
    let o := off - 0x1A0000
    some (1, o / 40960 * 65536 + o % 40960 / 5 * 8 + o % 5)
  else if 0x270000 ≤ off && off < 0x370000 then some (0, off - 0x270000)
  else if 0x370000 ≤ off && off < 0x570000 then some (2, off - 0x370000)
  else none

/-- The offset of the entry of a member's i-th bank: SATI, SATO, NANW, and the logical bank number with bit 31 set (log 90). -/
def counterOffset (i : Nat) : Nat := 0x240000 + 16 * i
/-- The offset of a plane's latches: format, slice count and column count, 16 bytes for each plane of each quadrant (log 90). -/
def latchOffset (quad plane : Nat) : Nat := 0x240100 + (2 * quad + plane) * 16
/-- The offset of a column of a plane. -/
def colOffset (quad plane col : Nat) : Nat := 0x250000 + (2 * quad + plane) * 6144 + col * 48
/-- The offset of the scale segment of a column's slice. -/
def scaleOffset (quad plane col slice : Nat) : Nat := 0x25C000 + (2 * quad + plane) * 8192 + (col * 4 + slice) * 16

/-- Whether a frame's offset lies in a part whose contents the layout does not place: the header, and what is reserved. -/
def frameHole (off : Nat) : Bool := off < 0x10000 || 0x570000 ≤ off

/-- A register file's words at a place of memory. -/
def wordBytes (ws : List Word) : List Byte := ws.flatMap fun w => toBytes 4 w.toNat

/-- A block's groups of a member that have not retired. -/
def Block.groupsOf (b : Block) (rank : Nat) : List Group := b.groups.filter fun g => !g.retired && b.rankOf g.num == rank

/-- The register files of a member's image, from a base on. -/
def State.putFiles (s : State) (b : Block) (rank base : Nat) : State :=
  let s1 := (b.groupsOf rank).foldl (fun (s : State) g =>
    let q := b.quadOf g.num
    let s1 := (List.range 32).foldl (fun (s : State) i =>
      match g.thread? i with
      | some t => s.writeMem (base + vOffset q g.slot i) (wordBytes t.v)
      | none => s) s
    s1.writeMem (base + sOffset q g.slot) (wordBytes g.uni.s)) s
  (b.ctls.filter (·.rank == rank)).foldl (fun (s : State) c => s.writeMem (base + ctlOffset c.quad) (wordBytes c.uni.s)) s1

/-- The counters of the banks that a member's save keeps. -/
def Frame.countersOf (f : Frame) (rank : Nat) : List (Nat × Nat × Nat × Nat × Nat) := f.counters.filter (·.1 == rank)

/-- The bank counters of a member's image, from a base on. -/
def State.putCounters (s : State) (f : Frame) (rank base : Nat) : State :=
  ((List.range 16).zip (f.countersOf rank)).foldl (fun (s : State) x =>
    let c := x.2.2.2
    s.writeMem (base + counterOffset x.1) ([c.1, c.2.1, c.2.2, 2 ^ 31 + x.2.2.1].flatMap (toBytes 4))) s

/-- One plane of a member's image, from a base on: its latches, columns and scale segments. -/
def State.putPlane (s : State) (base quad plane : Nat) (x : Option Plane) : State :=
  match x with
  | none => s
  | some p =>
    let s1 := s.writeMem (base + latchOffset quad plane) ([p.fmt, p.slices, p.n].flatMap (toBytes 4))
    (List.range p.n).foldl (fun (s : State) c =>
      (List.range (min 4 p.slices)).foldl (fun (s : State) k =>
        s.writeMem (base + scaleOffset quad plane c k) ((p.scales.getD c []).getD k []))
        (s.writeMem (base + colOffset quad plane c) (p.cols.getD c []))) s1

/-- The planes of a member's image: of each quadrant the active one, then the shadow. -/
def State.putPlanes (s : State) (b : Block) (rank base : Nat) : State :=
  (b.pairs.filter (·.rank == rank)).foldl (fun (s : State) p =>
    (s.putPlane base p.quad 0 p.savedActive).putPlane base p.quad 1 p.savedShadow) s

/-- A saved member's image in HBM: cleared, then the register files, the bank counters, the planes, and the storage that is not
zero. -/
def State.putImage (s : State) (b : Block) (f : Frame) (rank base : Nat) : State :=
  let s1 := { s.unshareAll base frameBytes with
    mem := s.mem.filter fun c => !(decide (base ≤ c.1) && decide (c.1 < base + frameBytes)),
    poison := s.poison.filter fun p => !(decide (base ≤ p.1) && decide (p.1 < base + frameBytes)) }
  (f.bytes.filter (·.rank == rank)).foldl (fun (s : State) x =>
    { s with mem := memSet s.mem (base + storageOffset x.kind x.off) x.val })
      (((s1.putFiles b rank base).putCounters f rank base).putPlanes b rank base)

/-- n words of memory from a place on. -/
def State.wordsAt (s : State) (k n : Nat) : List Word := (List.range n).map fun i => BitVec.ofNat 32 (ofBytes (s.readMem (k + 4 * i) 4))

/-- Whether a block's save keeps a byte of a member's storage. -/
def Block.savesAt (b : Block) (f : Frame) (c rank kind off : Nat) : Bool :=
  match kind with
  | 0 => decide (off < c * 2 ^ 16)
  | 1 => b.cb.contains (rank, off / 65536)
  | _ => f.ranges.any fun x => x.1 == rank && decide (x.2.1 ≤ off) && decide (off < x.2.1 + x.2.2)

/-- The storage of a member's image that is not zero. -/
def State.imageBytes (s : State) (b : Block) (f : Frame) (c rank base : Nat) : List SavedByte :=
  s.mem.filterMap fun (x : Nat × Byte) =>
    if x.1 < base || base + frameBytes ≤ x.1 then none
    else
      (storageAt (x.1 - base)).bind fun k =>
        if b.savesAt f c rank k.1 k.2 then some ⟨rank, k.1, k.2, x.2⟩ else none

/-- A block's register files of a member as its image now holds them. -/
def State.getFiles (s : State) (rank base : Nat) (b : Block) : Block :=
  { b with
    groups := b.groups.map fun g =>
      let q := b.quadOf g.num
      if g.retired || b.rankOf g.num != rank then g
      else
        { g with
          threads := (List.range g.threads.length).filterMap fun i =>
            (g.thread? i).map fun t => { t with v := s.wordsAt (base + vOffset q g.slot i) t.v.length },
          uni := { g.uni with s := s.wordsAt (base + sOffset q g.slot) g.uni.s.length } },
    ctls := b.ctls.map fun c =>
      if c.rank == rank then { c with uni := { c.uni with s := s.wordsAt (base + ctlOffset c.quad) c.uni.s.length } } else c }

/-- A member's bank counters as its image now holds them. -/
def State.getCounters (s : State) (f : Frame) (rank base : Nat) : List (Nat × Nat × Nat × Nat × Nat) :=
  (List.range (f.countersOf rank).length).map fun i =>
    let w := (s.wordsAt (base + counterOffset i) 4).map BitVec.toNat
    (rank, w.getD 3 0 % 16, w.getD 0 0, w.getD 1 0, w.getD 2 0)

/-- A saved plane as its image now holds it. -/
def State.getPlane (s : State) (base quad plane : Nat) (p : Plane) : Plane :=
  let w := (s.wordsAt (base + latchOffset quad plane) 3).map BitVec.toNat
  let n := min 128 (w.getD 2 0)
  let k := min 4 (w.getD 1 0)
  { p with
    fmt := w.getD 0 0, slices := k, n := n,
    cols := (List.range n).map fun c => s.readMem (base + colOffset quad plane c) 48,
    scales := (List.range n).map fun c => (List.range k).map fun i => s.readMem (base + scaleOffset quad plane c i) 16 }

/-- A block's saved planes of a member as its image now holds them. -/
def State.getPlanes (s : State) (rank base : Nat) (b : Block) : Block :=
  { b with
    pairs := b.pairs.map fun p =>
      if p.rank == rank then
        { p with savedActive := p.savedActive.map (s.getPlane base p.quad 0), savedShadow := p.savedShadow.map (s.getPlane base p.quad 1) }
      else p }

/-- The members of a saved block that lie in the spill area, each with where its image begins. -/
def Frame.images (f : Frame) : List (Nat × Nat) :=
  (List.range f.spilled.length).filterMap fun r => if f.spilled.getD r false then some (r, f.spillAt.getD r 0) else none

/-- A block as its images in the spill area now hold it. -/
def State.unspill (s : State) (b : Block) (c : Nat) : Block :=
  match b.frame with
  | none => b
  | some f =>
    let b1 := f.images.foldl (fun (b : Block) (i : Nat × Nat) => s.getPlanes i.1 i.2 (s.getFiles i.1 i.2 b)) b
    let cs := (List.range f.spilled.length).flatMap fun r =>
      if f.spilled.getD r false then s.getCounters f r (f.spillAt.getD r 0) else f.countersOf r
    { b1 with frame := some { f with counters := cs, bytes := f.bytes ++ f.images.flatMap fun i => s.imageBytes b f c i.1 i.2 } }

/-- Whether an uncorrectable error lies in a saved block: in a frame, or in an image. -/
def State.savePoisoned (s : State) (f : Frame) : Bool :=
  f.poisoned || f.images.any fun i => s.poison.any fun p => decide (p.1 < i.2 + frameBytes) && decide (i.2 < p.1 + p.2)

/-- The images that saved blocks have in the spill areas. -/
def State.imagesHeld (s : State) : List Nat :=
  s.blocks.flatMap fun b => if b.pre == .swapped then ((b.frame.map fun f => f.images.map (·.2)).getD []) else []

/-- The first free places for n images in a function's spill area. -/
def State.spillRoom (s : State) (fn n : Nat) : List Nat :=
  let r := s.fnRegs fn
  let held := s.imagesHeld
  let free (a : Nat) : Bool := !(held.any fun h => decide (h < a + frameBytes) && decide (a < h + frameBytes))
  (((List.range (r.spillSize.toNat / frameBytes)).map fun i => r.spillBase.toNat + i * frameBytes).filter free).take n

end Sys2Proof.Machine
end

