-- ==== Sys2Proof/Machine/Pages.lean ====
section
/-!
DEFINITION. The queue processors' side of translation (02_translation_and_leases.md R44, R49, R53, R59 to R61, R65 to R67;
12_dispatch_and_issue.md R406; 15_host_and_platform.md R374, R375): their accesses, page requests, frames and pins,
leaves rewritten, pages moved, replicated and collapsed.
-/
namespace Sys2Proof.Machine

-- Where a leaf stands.

/-- A leaf's table, level and entry. -/
structure Slot where
  table : Nat
  level : Nat
  entry : DWord

/-- What a walk by a queue processor meets. -/
inductive LeafAt where
  | leaf (x : Slot)
  | absent
  | err

/-- The walk from a level's table down. -/
def State.slotFrom (s : State) (va : Nat) : Nat → Nat → LeafAt
  | 0, _ => .err
  | l + 1, table =>
    let e := s.walkEntry table (l + 1) va
    if !isHbm table then .err
    else
      match pteKind (l + 1) e with
      | .absent => .absent
      | .err => .err
      | .leaf => .leaf ⟨table, l + 1, e⟩
      | .table => s.slotFrom va l (ptePa e)

/-- The leaf of a VA, read from the tables. -/
def State.leafOf (s : State) (ctx va : Nat) : LeafAt :=
  match rootTable (s.ctxDesc ctx).root with
  | none => .err
  | some t => s.slotFrom va 4 t

def Slot.bits (x : Slot) : Nat := leafBits x.level x.entry
/-- The first VA of the leaf's page. -/
def Slot.first (x : Slot) (va : Nat) : Nat := va / 2 ^ x.bits * 2 ^ x.bits
/-- The physical base of the page. -/
def Slot.base (x : Slot) : Nat := leafBase x.bits x.entry
/-- The place of the page's frame. -/
def Slot.key (x : Slot) : Nat := mtPlace (pteMt x.entry) x.base
/-- The place of an address of the page. -/
def Slot.at (x : Slot) (va : Nat) : Nat := x.key + va % 2 ^ x.bits

/-- The compare-and-swaps of a leaf's run (R43, R44): each entry takes what `f` makes of the value it now has, none where the
queue processor leaves that value alone. -/
def State.casLeaf (s : State) (x : Slot) (va : Nat) (f : DWord → Option DWord) : State :=
  let n := 4 ^ pteSpan x.entry
  let base := vaIndex x.level va / n * n
  (List.range n).foldl (fun (s : State) i =>
    let at_ := x.table + 8 * (base + i)
    match f (s.entryAt at_) with
    | some e => s.homeWrite at_ (toBytes 8 e.toNat)
    | none => s) s

/-- A new leaf in the place of the one that was read (R44): an entry that software has changed stays. -/
def State.putLeaf (s : State) (x : Slot) (va : Nat) (e : DWord) : State :=
  s.casLeaf x va fun old => if old == x.entry then some e else none

-- Invalidation (R49).

/-- Translations of a context that touch a range, dropped from every cache of the device. -/
def State.dropXlat (s : State) (p : Nat → Bool) (va n : Nat) : State :=
  let hit (e : TlbEntry) : Bool := p e.ctx && decide (e.va < va + n) && decide (va < e.va + 2 ^ e.bits)
  let ptr (e : PtrEntry) : Bool :=
    p e.ctx && decide (e.key * 2 ^ levelBits e.level < va + n) && decide (va < (e.key + 1) * 2 ^ levelBits e.level)
  { s with cores := s.cores.map fun c =>
      (c.1, { c.2 with tlb := c.2.tlb.filter fun e => !hit e, slice := c.2.slice.filter fun e => !hit e,
                       ptrs := c.2.ptrs.filter fun e => !ptr e }) }

-- Page requests (R54, R374, R375).

def pageOf (va : Nat) : Nat := va / 4096 * 4096

/-- Bytes 0 to 31 of a page request record. -/
def requestRecord (tag gen ctx va : Nat) : List Byte :=
  toBytes 4 tag ++ toBytes 2 gen ++ toBytes 2 (ctx % 4096) ++ toBytes 8 va ++ List.replicate 16 0

/-- The lowest PRI index that is not outstanding. -/
def freePri (rs : List PageReq) : Option Nat :=
  (List.range 512).find? fun i => rs.all fun r => !r.pri || r.tag != i

/-- Whether a request for a page of a context stands that the host may still answer: one of an older generation does not
(R375). -/
def State.asked (s : State) (ctx va : Nat) (pri : Bool) : Bool :=
  let fn := s.ctxFn ctx
  s.pageReqs.any fun q =>
    q.ctx == ctx && q.va == pageOf va && q.pri == pri && q.fn == fn && q.gen == (s.fnRegs fn).fngen.toNat

/-- A page asked of the host, once: by PRI for a HOST leaf, else by a record in the function's ring. A full ring, or no
free index, leaves the access waiting. The ring's base is an address of host memory (log 23). -/
def State.askPage (s : State) (ctx va : Nat) (pri : Bool) : State :=
  let fn := s.ctxFn ctx
  let r := s.fnRegs fn
  if s.asked ctx va pri then s
  else if pri then
    match freePri s.pageReqs with
    | none => s
    | some i => { s with pageReqs := s.pageReqs ++ [(⟨i, true, fn, r.fngen.toNat, ctx, pageOf va, false⟩ : PageReq)] }
  else
    let out := (s.pageReqs.filter fun q => !q.pri && q.fn == fn && q.gen == r.fngen.toNat && !q.refused).length
    if r.prqSize.toNat ≤ out then s
    else
      let tag := r.prqTail % 2 ^ 32
      let at_ := r.prqBase.toNat + 32 * (r.prqTail % r.prqSize.toNat)
      let s1 := s.writeMem (hostPlace at_) (requestRecord tag r.fngen.toNat ctx (pageOf va))
      (({ s1 with pageReqs := s1.pageReqs ++ [(⟨tag, false, fn, r.fngen.toNat, ctx, pageOf va, false⟩ : PageReq)] }).modFn fn
        fun f => { f with prqTail := f.prqTail + 1 }).tick

/-- Whether the host has refused a page, and the state once the waiting access has seen it. -/
def State.seeRefusal (s : State) (ctx va : Nat) : Option State :=
  let mine (q : PageReq) : Bool := q.refused && q.ctx == ctx && q.va == pageOf va
  if s.pageReqs.any mine then some { s with pageReqs := s.pageReqs.filter fun q => !mine q } else none

-- Accesses of queue processors (R406).

/-- The queue errors (R308). -/
def qePacket : Nat := 1
def qeDesc : Nat := 2
def qeLease : Nat := 3
def qeUnresolved : Nat := 4
def qeLimit : Nat := 5
def qeCycle : Nat := 6
def qeAccess : Nat := 7

/-- What an access by a queue processor comes to. -/
inductive QpRes (α : Type) where
  | ok (x : α)
  | wait
  | fail (code : Nat)

/-- The first VA of [va, va + n) of a HOST leaf whose host translation is absent. -/
def State.hostHole (s : State) (x : Slot) (va n : Nat) : Option Nat :=
  let pa := x.base + va % 2 ^ x.bits
  if pteMt x.entry != 1 then none
  else (s.hostGone.find? fun g => decide (g.1 < pa + n) && decide (pa < g.1 + g.2)).map fun g => va + (g.1 - pa)

/-- A host translation asked for, or found refused. -/
def State.askHost (s : State) (ctx va : Nat) : State × QpRes Slot :=
  match s.seeRefusal ctx va with
  | some s1 => (s1, .fail qeUnresolved)
  | none => (s.askPage ctx va true, .wait)

/-- The leaf a queue processor meets at a VA with the rights it needs (R406), `whole` where all of it must stand (R53) and else
the 4 KiB page; an absent page is asked of the host. -/
def State.qpLeaf (s : State) (whole : Bool) (ctx va : Nat) (rights : DWord → Bool) (lacks : Nat) : State × QpRes Slot :=
  match s.seeRefusal ctx va with
  | some s1 => (s1, .fail qeUnresolved)
  | none =>
    match s.leafOf ctx va with
    | .err => (s, .fail qeUnresolved)
    | .absent => (s.askPage ctx va false, .wait)
    | .leaf x =>
      if !rights x.entry then (s, .fail lacks)
      else
        match (if whole then s.hostHole x (x.first va) (2 ^ x.bits) else s.hostHole x (pageOf va) 4096) with
        | some v => s.askHost ctx v
        | none => (s, .ok x)

/-- RD, WR or both, as an access needs them. -/
def needs (rd wr : Bool) (e : DWord) : Bool := (!rd || pteRd e) && (!wr || pteWr e)

/-- Whether a peer, or a port that is down, keeps a queue processor's access from a PEER leaf (R380). -/
def State.qpPeer (s : State) (x : Slot) (va : Nat) (rd wr : Bool) : Bool :=
  pteMt x.entry == 2 && ((rd && (s.peerFault .read (x.at va)).isSome) || (wr && (s.peerFault .write (x.at va)).isSome))

/-- The leaf of an access by a queue processor that a peer does not reject: one that it rejects fails with ACCESS (DESIGN CHOICE,
log 97). -/
def State.qpReach (s : State) (ctx va : Nat) (rd wr : Bool) : State × QpRes Slot :=
  match s.qpLeaf false ctx va (needs rd wr) qeAccess with
  | (s1, .ok x) => (s1, if s1.qpPeer x va rd wr then .fail qeAccess else .ok x)
  | o => o

/-- The pieces of a range of GLOBAL memory by 4 KiB units: place and length of each. -/
def State.qpSpan (s : State) (ctx : Nat) (rd wr : Bool) : Nat → Nat → Nat → State × QpRes (List (Nat × Nat))
  | _, _, 0 => (s, .ok [])
  | 0, _, _ => (s, .ok [])
  | fuel + 1, va, n =>
    match s.qpReach ctx va rd wr with
    | (s1, .wait) => (s1, .wait)
    | (s1, .fail c) => (s1, .fail c)
    | (s1, .ok x) =>
      let m := min n (4096 - va % 4096)
      match s1.qpSpan ctx rd wr fuel (va + m) (n - m) with
      | (s2, .ok r) => (s2, .ok ((x.at va, m) :: r))
      | o => o

/-- n bytes read at a place by a queue processor; what a poisoned sector gives it is a free value (log 25). -/
def State.homeBytes (s : State) (k n : Nat) : State × List Byte :=
  if s.poisoned k n then
    ({ s with fresh := s.fresh + n }, (List.range n).map fun (i : Nat) => Config.freeByte (s.fresh + i))
  else (s, s.readMem k n)

/-- The bytes of some pieces in order. -/
def State.homePieces (s : State) : List (Nat × Nat) → State × List Byte
  | [] => (s, [])
  | (k, n) :: r =>
    let (s1, b) := s.homeBytes k n
    let (s2, bs) := s1.homePieces r
    (s2, b ++ bs)

/-- n bytes of GLOBAL memory read by a queue processor at their homes. -/
def State.qpRead (s : State) (ctx va n : Nat) : State × QpRes (List Byte) :=
  match s.qpSpan ctx true false (n / 4096 + 2) va n with
  | (s1, .ok ps) => let (s2, bs) := s1.homePieces ps; (s2.tick, .ok bs)
  | (s1, .wait) => (s1, .wait)
  | (s1, .fail c) => (s1, .fail c)

/-- Bytes written by a queue processor within one 4 KiB unit. -/
def State.qpWrite (s : State) (ctx va : Nat) (bs : List Byte) : State × QpRes Unit :=
  match s.qpReach ctx va false true with
  | (s1, .ok x) => ((s1.homeWrite (x.at va) bs).tick, .ok ())
  | (s1, .wait) => (s1, .wait)
  | (s1, .fail c) => (s1, .fail c)

-- Pins and frames (R53).

/-- The pin count of a frame. -/
def State.pinsOf (s : State) (key : Nat) : Nat := ((s.frames.find? (·.pa == key)).map (·.pins)).getD 0

/-- A pin count raised. -/
def State.pin (s : State) (p : Pin) : State :=
  if s.frames.any (·.pa == p.key) then
    { s with frames := modIf s.frames (·.pa == p.key) fun f => { f with pins := f.pins + 1 } }
  else { s with frames := s.frames ++ [⟨p.key, 1, false⟩] }

/-- A pin count lowered; a frame nothing pins leaves the table. -/
def State.unpin (s : State) (p : Pin) : State :=
  { s with frames := (modIf s.frames (·.pa == p.key) fun f => { f with pins := f.pins - 1 }).filter fun f =>
      f.pins != 0 || f.migrating }

def State.pinAll (s : State) (ps : List Pin) : State := ps.foldl State.pin s
def State.unpinAll (s : State) (ps : List Pin) : State := ps.foldl State.unpin s

/-- Distinct pins. -/
def distinctPins (ps : List Pin) : List Pin :=
  ps.foldl (fun acc p => if acc.contains p then acc else acc ++ [p]) []

/-- A free HBM frame of a size on a die. -/
def State.frameOn (s : State) (die bits : Nat) : Option Nat :=
  (s.freeFrames.find? fun f => f.1 == die && f.2.2 == bits).map (·.2.1)

def State.takeFrame (s : State) (die pa bits : Nat) : State :=
  { s with freeFrames := s.freeFrames.filter fun f => f != (die, pa, bits) }
def State.giveFrame (s : State) (pa bits : Nat) : State :=
  { s with freeFrames := s.freeFrames ++ [(hbmDie pa, pa, bits)] }

/-- Bytes copied from place to place, whole. -/
def State.copyPlace (s : State) (src dst n : Nat) : State :=
  let cells := (s.mem.filter fun c => decide (src ≤ c.1) && decide (c.1 < src + n)).map fun c => (c.1 - src + dst, c.2)
  let cleared := s.mem.filter fun c => !(decide (dst ≤ c.1) && decide (c.1 < dst + n))
  { s.unshareAll dst n with
    mem := cells.foldl (fun m c => memSet m c.1 c.2) cleared,
    poison := (s.poison.filter fun p => !(decide (dst ≤ p.1) && decide (p.1 + p.2 ≤ dst + n))) ++
      ((s.poison.filter fun p => decide (src ≤ p.1) && decide (p.1 + p.2 ≤ src + n)).map fun p => (p.1 - src + dst, p.2)) }

/-- The same frame offset on another die (R59). -/
def onDie (pa die : Nat) : Nat := pa % 2 ^ 40 + die * 2 ^ 40

/-- An entry with its PA, memory type and replica mask set. -/
def pteSet (e : DWord) (pa mt mask : Nat) : DWord :=
  BitVec.ofNat 64 (bitsOf e.toNat 63 56 * 2 ^ 56 + mask % 16 * 2 ^ 52 + pa / 4096 % 2 ^ 40 * 4096 +
    bitsOf e.toNat 11 10 * 2 ^ 10 + mt * 2 ^ 8 + bitsOf e.toNat 7 0)

/-- What becomes of a request to move a page (R65). -/
inductive MoveRes where
  | done
  | wait
  | refused
deriving DecidableEq, Repr

/-- Whether a page may be moved or replicated (R65): MG set, nothing pins it, and it is not migrating. -/
def State.mayMove (s : State) (x : Slot) : Bool :=
  pteMg x.entry && s.pinsOf x.key == 0 && !(s.frames.any fun f => f.pa == x.key && f.migrating)

/-- Whether the copies of a page cannot be read now: a host translation is absent, or the peer does not answer (log 84). -/
def State.sourceGone (s : State) (x : Slot) (va : Nat) : Bool :=
  (s.hostHole x (x.first va) (2 ^ x.bits)).isSome ||
    (pteMt x.entry == 2 && (s.portsDown.contains (peerPort x.key) || s.peerDenied .read x.key))

/-- A page copied to a frame of its size on a die, which is taken. -/
def State.copyFrame (s : State) (bits src die dst : Nat) : State := (s.takeFrame die dst bits).copyPlace src dst (2 ^ bits)

/-- The leaf of a page that has new copies, and the page invalidated (R66). -/
def State.moveLeaf (s : State) (ctx va : Nat) (x : Slot) (pa mask : Nat) : State :=
  (s.putLeaf x va (pteSet x.entry pa 0 mask)).dropXlat (· == ctx) (x.first va) (2 ^ x.bits)

/-- The dies of a replica mask. -/
def maskDies (m : Nat) : List Nat := (List.range 4).filter (bitOf m)

/-- A page's primary moved to a frame of a die. The copies of a replicated page keep one offset on all their dies (R59): those
that the request names go along, and those whose new frame is taken, or that it does not name, go (log 84). -/
def State.movePrimary (s : State) (ctx va die copies f : Nat) (x : Slot) : State :=
  let mask := pteRmask x.entry
  let others := (maskDies mask).filter fun e => e != hbmDie x.base && e != die && bitOf copies e &&
    s.freeFrames.contains (e, onDie f e, x.bits)
  let s1 := others.foldl (fun (s : State) e => s.copyFrame x.bits (onDie x.base e) e (onDie f e)) (s.copyFrame x.bits x.key die f)
  let s2 := s1.moveLeaf ctx va x f (if mask == 0 then 0 else others.foldl (fun m e => m ||| 2 ^ e) (2 ^ die))
  if pteMt x.entry != 0 then s2
  else if mask == 0 then s2.giveFrame x.base x.bits
  else (maskDies mask).foldl (fun (s : State) e => s.giveFrame (onDie x.base e) x.bits) s2

/-- A copy other than the primary moved to a die at its offset. -/
def State.moveCopy (s : State) (ctx va die src : Nat) (x : Slot) : State :=
  (((s.copyFrame x.bits (onDie x.base src) die (onDie x.base die)).moveLeaf ctx va x (ptePa x.entry)
    (pteRmask x.entry - 2 ^ src + 2 ^ die)).giveFrame (onDie x.base src) x.bits)

/-- A page moved to HBM of a die (R65 to R67): frame, copy, leaf, invalidation, old frame freed. The request names the dies
whose copies of a replicated page it moves; what already lies there stays. -/
def State.movePage (s : State) (ctx va die copies : Nat) : State × MoveRes :=
  match s.leafOf ctx va with
  | .leaf x =>
    let mask := pteRmask x.entry
    if !s.mayMove x then (s, .refused)
    else if mask != 0 && !bitOf copies (hbmDie x.base) then
      match (maskDies mask).find? fun e => bitOf copies e && e != die with
      | none => (s, .done)
      | some e =>
        if bitOf mask die then (s, .done)
        else if s.freeFrames.contains (die, onDie x.base die, x.bits) then ((s.moveCopy ctx va die e x).tick, .done)
        else (s, .wait)
    else if pteMt x.entry == 0 && hbmDie x.base == die then (s, .done)
    else if s.sourceGone x va then
      (match s.hostHole x (x.first va) (2 ^ x.bits) with
       | some v => s.askPage ctx v true
       | none => s, .wait)
    else
      match s.frameOn die x.bits with
      | none => (s, .wait)
      | some f => ((s.movePrimary ctx va die copies f x).tick, .done)
  | _ => (s, .refused)

/-- Every copy of a page. -/
def allDies : Nat := 15

/-- A page replicated to the dies of a mask beside those that hold it (R59): at the same offset, a die whose frame is taken left
out. -/
def State.replicate (s : State) (ctx va mask : Nat) : State :=
  match s.leafOf ctx va with
  | .leaf x =>
    if !s.mayMove x || pteMt x.entry != 0 then s
    else
      let held := pteRmask x.entry ||| 2 ^ hbmDie x.base
      let dies := (maskDies mask).filter fun e => !bitOf held e && s.freeFrames.contains (e, onDie x.base e, x.bits)
      let m := dies.foldl (fun m e => m ||| 2 ^ e) held
      if m == pteRmask x.entry then s
      else
        ((dies.foldl (fun (s : State) e => s.copyFrame x.bits x.base e (onDie x.base e)) s).moveLeaf ctx va x (ptePa x.entry) m).tick
  | _ => s

/-- A replicated page that nothing pins collapsed to its primary (R61). -/
def State.collapse (s : State) (ctx va : Nat) : State :=
  match s.leafOf ctx va with
  | .leaf x =>
    if pteRmask x.entry == 0 || s.pinsOf x.key != 0 then s
    else
      let s1 := ((maskDies (pteRmask x.entry)).filter fun e => e != hbmDie x.base).foldl
        (fun (s : State) e => s.giveFrame (onDie x.base e) x.bits) s
      (s1.moveLeaf ctx va x (ptePa x.entry) 0).tick
  | _ => s

/-- PAGE_MIGRATION (R65, R66): a request that breaks a condition is refused and counted. -/
def execPageMigration (x : MigrateReq) (s : State) : Host.Outcome State Fault Refusal :=
  .next <|
    match s.movePage x.ctx x.va x.die x.copies with
    | (s1, .refused) => { s1 with migRefused := s1.migRefused + 1 }
    | (s1, _) => s1

end Sys2Proof.Machine
end

