-- ==== Sys2Proof/Machine/Queues.lean ====
section
/-!
DEFINITION. Queues (12_dispatch_and_issue.md R302 to R310, R406; 15_host_and_platform.md R377): control block fields,
interrupts, the status line, errors, the indices, packets read and completed.
-/
namespace Sys2Proof.Machine

-- Queues and their fields.

def State.queue? (s : State) (id : Nat) : Option Queue := s.queues.find? (·.id == id)
def State.modQueue (s : State) (id : Nat) (f : Queue → Queue) : State := { s with queues := modIf s.queues (·.id == id) f }
/-- The queue of a context by its number; V = 0 of the context refuses it (R302). -/
def State.queueNamed (s : State) (ctx num : Nat) : Option Queue :=
  if (s.ctxDesc ctx).valid then s.queues.find? fun q => q.ctx == ctx && q.num == num else none

def Queue.entries (q : Queue) : Nat := 2 ^ bitsOf q.qcbh.ctrl.toNat 4 0
/-- PRODUCER: the device. -/
def Queue.device (q : Queue) : Bool := bitOf q.qcbh.ctrl.toNat 8
def Queue.prio (q : Queue) : Nat := bitsOf q.qcbh.ctrl.toNat 11 10
def Queue.die (q : Queue) : Nat := bitsOf q.qcbh.ctrl.toNat 13 12
def Queue.slotVa (q : Queue) (i : Nat) : Nat := q.qcbh.ringBase.toNat + 64 * (i % q.entries)
/-- The state codes of R307. -/
def QState.code : QState → Nat
  | .unmapped => 0
  | .idle => 1
  | .active => 2
  | .blocked => 3
  | .error => 4

-- Interrupts.

/-- A raise of a vector (R377): merged into a pending one, else pending with a message to send. A number that no vector
has raises nothing. -/
def State.raiseIrq (s : State) (fn vec : Nat) : State :=
  if 64 ≤ vec then s
  else
    s.modFn fn fun r =>
      if bitOf r.intPend.toNat vec then r
      else { r with intPend := r.intPend ||| BitVec.ofNat 64 (2 ^ vec), unsent := tabMod r.unsent vec 0 (· + 1) }

-- The status line (R305).

/-- The 64 bytes of the status line. -/
def Queue.statusBytes (q : Queue) : List Byte :=
  let node := match q.errNode with
    | some n => n % 2 ^ 13 * 2 ^ 16 + 2 ^ 31
    | none => 0
  toBytes 8 q.ridx ++ toBytes 8 q.didx ++ toBytes 8 (q.state.code + q.err * 2 ^ 8 + node) ++ toBytes 8 q.errIndex ++
    toBytes 8 q.marker ++ toBytes 8 q.markerClk ++ toBytes 8 q.rearms ++ toBytes 8 (q.statusSeq + 1)

/-- The error fields set and the error vector raised (R308); a queue already in ERROR keeps its first error. -/
def State.markError (s : State) (q : Queue) (code idx : Nat) (node : Option Nat) : State :=
  if q.state == .error then s
  else
    (s.modQueue q.id fun x => { x with state := .error, err := code, errIndex := idx, errNode := node }).raiseIrq
      (s.ctxFn q.ctx) q.qcbh.errVector.toNat

/-- The status line written after a change of QCBM; a write that fails puts the queue into ERROR (R406), and one that
waits for its page is owed. -/
def State.statusLine (s : State) (id : Nat) : State :=
  match s.queue? id with
  | none => s
  | some q =>
    match s.qpWrite q.ctx q.qcbh.statusLine.toNat q.statusBytes with
    | (s1, .ok _) => s1.modQueue id fun x => { x with statusSeq := x.statusSeq + 1, statusBad := false }
    | (s1, .wait) => s1.modQueue id fun x => { x with statusBad := true }
    | (s1, .fail c) => s1.markError q c q.ridx none

/-- A queue error (R308). -/
def State.queueError (s : State) (id code idx : Nat) (node : Option Nat) : State :=
  match s.queue? id with
  | none => s
  | some q => if q.state == .error then s else (s.markError q code idx node).statusLine id

-- The indices (R304, R306, R310).

/-- Whether a slot is marked ready as void. -/
def Queue.voidAt (q : Queue) (i : Nat) : Bool := q.ready.any fun r => r.1 == i && r.2

/-- Skipped packets and void slots passed at the read index, in order, while they lie below the write index. -/
def Queue.pass (q : Queue) : Nat → Queue
  | 0 => q
  | k + 1 =>
    if decide (q.ridx < q.widx) && (q.skip != 0 || q.voidAt q.ridx) then
      ({ q with ridx := q.ridx + 1, skip := q.skip - 1 } : Queue).pass k
    else q

/-- The instants kept for unread packets after the write index rose. -/
def Queue.made (q : Queue) (old now : Nat) : Queue := if old < q.widx then { q with avail := q.avail ++ [(q.widx, now)] } else q

/-- Since when the oldest unread packet has been available. -/
def Queue.oldestAt (q : Queue) : Option Nat := (q.avail.find? fun e => decide (q.ridx < e.1)).map (·.2)

/-- The write index advanced over ready slots (R306). -/
def Queue.advance (q : Queue) : Nat → Queue
  | 0 => q
  | k + 1 => if q.ready.any (·.1 == q.widx) then ({ q with widx := q.widx + 1 } : Queue).advance k else q

/-- The ring packet that waits at a WAIT. -/
def Queue.waiting (q : Queue) : Option Running :=
  q.run.find? fun r => !r.done && !r.failed && (r.raw.getD 0 0).toNat % 2 ^ 16 == 3

/-- Whether a queue's thread reads packets: not while a WAIT of it is to be evaluated. -/
def Queue.reads (q : Queue) : Bool := q.mapped && (q.state == .idle || q.state == .active) && q.waiting.isNone

/-- The indices and the state a queue has after a change: what can be passed is passed, the done index stands below the
first packet that has not completed, and IDLE means read = write. -/
def Queue.settle (q : Queue) (now : Nat) : Queue :=
  let q1 := if q.reads then q.pass (q.widx - q.ridx) else q
  let q2 := { q1 with ready := q1.ready.filter (fun r => decide (q1.ridx ≤ r.1)),
                      avail := q1.avail.filter (fun r => decide (q1.ridx < r.1)) }
  let done := q2.run.foldl (fun m r => min m r.index) q2.ridx
  let st := if q2.reads then (if q2.ridx == q2.widx then QState.idle else .active) else q2.state
  { q2 with didx := done, state := st, since := if st == q2.state then q2.since else now }

/-- A change of a queue, its consequences, and the status line. -/
def State.changeQueue (s : State) (id : Nat) (f : Queue → Queue) : State :=
  (s.modQueue id fun q => ((f q).made q.widx s.clk17).settle s.clk17).statusLine id

-- Packets (R309).

def pktKind (raw : List DWord) : Nat := (raw.getD 0 0).toNat % 2 ^ 16
def pktFlags (raw : List DWord) : Nat := bitsOf (raw.getD 0 0).toNat 23 16
def pktVector (raw : List DWord) : Nat := bitsOf (raw.getD 0 0).toNat 47 32
/-- Body word i: 0 at 0x18. -/
def pktBody (raw : List DWord) (i : Nat) : Nat := (raw.getD (3 + i) 0).toNat

/-- The body bits each kind may use. -/
def bodyMask (kind : Nat) (node : Bool) : List Nat :=
  let all := 2 ^ 64 - 1
  match kind with
  | 1 => [all, 0, 0, 0, 0]
  | 2 => [all, all, all, 0, 0]
  | 3 => [all, all, 3, 0, 0]
  | 4 => [all, all, 1, 0, 0]
  | 5 => [all, all, if node then 3 else 0xFF03, 0, 0]
  | 6 => [all, 0x1FFF, 0, 0, 0]
  | 7 => [0xFFFFFFFF, 0, 0, 0, 0]
  | 9 => [0xFFFFFFFF, 0, 0, 0, 0]
  | 10 => [all, all, 0x3303, 0, 0]
  | _ => [0, 0, 0, 0, 0]

/-- The limits of each kind's body. -/
def bodyOk (kind : Nat) (raw : List DWord) (node : Bool) : Bool :=
  let b (i : Nat) : Nat := pktBody raw i
  match kind with
  | 1 => b 0 % 128 == 0 && decide (b 0 < 2 ^ 56)
  | 2 => decide (1 ≤ b 2) && decide (b 2 ≤ 2 ^ 40) && decide (b 0 + b 2 ≤ 2 ^ 56) && decide (b 1 + b 2 ≤ 2 ^ 56)
  | 5 => node || b 2 / 2 ^ 8 != 0
  | 6 => !node && b 0 % 64 == 0 && decide (b 0 < 2 ^ 56) && decide (1 ≤ b 1) && decide (b 1 ≤ 4096)
  | 7 => node
  | 10 => decide (b 2 % 4 < 2) && decide (b 0 + b 1 ≤ 2 ^ 56)
  | _ => true

/-- Whether a packet, or a graph node, keeps R309 (and R312). -/
def packetOk (raw : List DWord) (node : Bool) : Bool :=
  let kind := pktKind raw
  let fl := pktFlags raw
  let w0 := (raw.getD 0 0).toNat
  decide (1 ≤ kind) && decide (kind ≤ 10) && decide (fl < 8) && (!node || fl % 4 == 0) && bitsOf w0 31 24 == 0 &&
    bitsOf w0 63 48 == 0 && (!node || (raw.getD 2 0).toNat / 2 ^ 16 == 0) &&
    (List.range 5).all (fun i => pktBody raw i &&& (bodyMask kind node).getD i 0 == pktBody raw i) &&
    bodyOk kind raw node && (!(bitOf fl 2 || kind == 8) || decide (pktVector raw < 64))

/-- 64 bytes as eight words. -/
def wordsOf (bs : List Byte) : List DWord := (List.range (bs.length / 8)).map fun i => BitVec.ofNat 64 (ofBytes ((bs.drop (8 * i)).take 8))

-- Signals (R309).

/-- The place of a signal, checked: RD for a read, RD and WR (or the A grant) for an atomic. -/
def State.signalAt (s : State) (ctx : Nat) (p : DWord) (atomic : Bool) : State × QpRes Nat :=
  let off := ptrOff p
  if p.toNat % 8 != 0 || (ptrSpace p != 0 && ptrSpace p != 5) || (ptrSpace p == 0 && ptrRank p != 0) ||
      (ptrSpace p == 5 && (decide (4 ≤ ptrRank p) || off / 2 ^ 22 != 0)) then (s, .fail qePacket)
  else if ptrSpace p == 5 then
    if s.granted ctx (ptrRank p) (if atomic then .atomic else .read) off 8 then (s, .ok (mbxPlace (ptrRank p) off))
    else (s, .fail qeAccess)
  else
    match s.leafOf ctx off with
    | .leaf x =>
      if pteMt x.entry != 0 then (s, .fail qePacket)
      else if needs true atomic x.entry then (s, .ok (x.at off))
      else (s, .fail qeAccess)
    | _ =>
      match s.qpLeaf false ctx off (fun _ => true) qeAccess with
      | (s1, .fail c) => (s1, .fail c)
      | (s1, _) => (s1, .wait)

/-- The value at a place. -/
def State.word64 (s : State) (k : Nat) : Nat := ofBytes (s.readMem k 8)

/-- An 8-byte ADD or exchange at a home. -/
def State.homeAtomic (s : State) (k : Nat) (set : Bool) (v : Nat) : State :=
  (s.homeWrite k (toBytes 8 (if set then v else s.word64 k + v))).tick

/-- The conditions of R309, unsigned. -/
def signalHolds (c sig v : Nat) : Bool :=
  match c % 4 with
  | 0 => sig == v
  | 1 => sig != v
  | 2 => decide (v ≤ sig)
  | _ => decide (sig < v)

/-- The signal pointers a packet's reading checks, with the access each makes. -/
def pktSignals (raw : List DWord) (node : Bool) : List (DWord × Bool) :=
  (match pktKind raw with
   | 3 => [(raw.getD 3 0, false)]
   | 4 => [(raw.getD 3 0, true)]
   | 5 => [(raw.getD 3 0, false)]
   | _ => []) ++
  (if !node && bitOf (pktFlags raw) 1 then [(raw.getD 1 0, true)] else [])

/-- Those checks, in order. -/
def State.signalsOk (s : State) (ctx : Nat) : List (DWord × Bool) → State × QpRes Unit
  | [] => (s, .ok ())
  | (p, a) :: r =>
    match s.signalAt ctx p a with
    | (s1, .ok _) => s1.signalsOk ctx r
    | (s1, .wait) => (s1, .wait)
    | (s1, .fail c) => (s1, .fail c)

-- Packets in flight.

/-- A packet's or node's own place: queue, packet index, graph node, words. -/
structure PktSite where
  q : Queue
  idx : Nat
  node : Option Nat
  raw : List DWord

/-- What starting a packet comes to: it waits for a page, fails with a code, runs on with the pages it pins and what a copy keeps
of its source, has done its work with an outcome, or is a WAIT whose condition is false. -/
inductive Start where
  | hold
  | fail (code : Nat)
  | run (pins : List Pin) (snap : List Byte := [])
  | done (outcome : Bool)
  | block

/-- The instant recorded at which something of a context was last live (R324). -/
def State.noteLive (s : State) (ctx : Nat) : State := { s with lastLive := tabSet s.lastLive ctx s.clk17 }

/-- The SA and IRQ of a ring packet, and its completion (R309, R310). -/
def State.completePacket (s : State) (id : Nat) (r : Running) : State :=
  match s.queue? id with
  | none => s
  | some q =>
    let fl := pktFlags r.raw
    let irq (s : State) : State := if bitOf fl 2 then s.raiseIrq (s.ctxFn q.ctx) (pktVector r.raw) else s
    let drop (s : State) : State := s.changeQueue id fun x => { x with run := x.run.filter (·.index != r.index) }
    if bitOf fl 1 then
      match s.signalAt q.ctx (r.raw.getD 1 0) true with
      | (s1, .ok k) => drop (irq (s1.homeAtomic k false (r.raw.getD 2 0).toNat))
      | (s1, .wait) => s1
      | (s1, .fail c) =>
        (s1.modQueue id fun x => { x with run := modIf x.run (·.index == r.index) fun y => { y with failed := true } }).queueError
          id c r.index none
    else drop (irq s)

/-- The running node's record changed. -/
def State.modNode (s : State) (id g n : Nat) (f : NodeRun → NodeRun) : State :=
  s.modQueue id fun q =>
    { q with graphs := modIf q.graphs (·.index == g) fun x => { x with running := modIf x.running (·.node == n) f } }

/-- A failing packet, or node (R308, R313). -/
def State.failPacket (s : State) (p : PktSite) (code : Nat) : State :=
  let s1 := s.modQueue p.q.id fun q =>
    match p.node with
    | some _ => { q with graphs := modIf q.graphs (·.index == p.idx) fun g => { g with failed := true } }
    | none => { q with run := modIf q.run (·.index == p.idx) fun r => { r with failed := true } }
  (s1.noteLive p.q.ctx).queueError p.q.id code p.idx p.node

/-- A packet's start: the read index passes it, or its node is running. -/
def State.startPacket (s : State) (p : PktSite) (pins : List Pin) (snap : List Byte) : State :=
  match p.node with
  | none =>
    s.changeQueue p.q.id fun q =>
      { q with ridx := q.ridx + 1, run := q.run ++ [⟨p.idx, p.raw, false, false, 0, pins, snap⟩], served := s.seq }
  | some n =>
    s.modQueue p.q.id fun q =>
      { q with served := s.seq, graphs := modIf q.graphs (·.index == p.idx) fun g =>
          { g with released := g.released.filter (· != n), running := g.running ++ [⟨n, false, false, 0, pins, snap⟩] } }

/-- A WAIT that blocks its queue, or its node (R310). -/
def State.blockPacket (s : State) (p : PktSite) : State :=
  match p.node with
  | some _ => s.startPacket p [] []
  | none =>
    s.changeQueue p.q.id fun q =>
      { q with ridx := q.ridx + 1, run := q.run ++ [⟨p.idx, p.raw, false, false, 0, [], []⟩], state := .blocked,
               since := s.clk17, served := s.seq }

/-- A started packet's or node's work done: a ring packet completes, a node awaits GRAPH_NODE_COMPLETE. -/
def State.workDone (s : State) (id idx : Nat) (node : Option Nat) (outcome : Bool) : State :=
  let s := s.noteLive (((s.queue? id).map (·.ctx)).getD 0)
  match node with
  | some n => s.modNode id idx n fun r => { r with done := true, outcome := outcome }
  | none =>
    match (s.queue? id).bind fun q => q.run.find? (·.index == idx) with
    | some r =>
      (s.modQueue id fun q => { q with run := modIf q.run (·.index == idx) fun x => { x with done := true } }).completePacket
        id { r with done := true }
    | none => s

/-- The start of a packet carried out. -/
def State.begin (s : State) (p : PktSite) (x : Start) : State :=
  match x with
  | .hold => s
  | .fail c =>
    match p.node with
    | none => (s.startPacket p [] []).failPacket p c
    | some _ => s.failPacket p c
  | .run pins snap => s.startPacket p pins snap
  | .done o => (s.startPacket p [] []).workDone p.q.id p.idx p.node o
  | .block => s.blockPacket p

/-- The released node of a graph that has not failed. -/
def Queue.nodeAt (q : Queue) (g n : Nat) : Option (List DWord) :=
  (q.graphs.find? (·.index == g)).bind fun x => if !x.failed && x.released.contains n then x.nodes[n]? else none

/-- The next packet of a ring, or a released node, of one kind, checked and started (R308 to R310, R312): a packet whose
own reading fails puts the queue into ERROR whatever its kind; a barrier waits for the done index. A context without V has every
queue refused (R302). -/
def State.packet (s : State) (ref : PktRef) (kind : Nat) (k : State → PktSite → State × Start) : State :=
  match s.queue? ref.queue with
  | none => s
  | some q =>
    if !(s.ctxDesc q.ctx).valid then s
    else
    let go (s : State) (p : PktSite) : State :=
      match s.signalsOk q.ctx (pktSignals p.raw p.node.isSome) with
      | (s1, .wait) => s1
      | (s1, .fail c) => s1.begin p (.fail c)
      | (s1, .ok _) => let (s2, x) := k s1 p; s2.begin p x
    match ref.node with
    | some (g, n) =>
      match q.nodeAt g n with
      | some raw => if pktKind raw == kind then go s ⟨q, g, some n, raw⟩ else s
      | none => s
    | none =>
      if !q.reads || !(decide (q.ridx < q.widx)) || q.skip != 0 || q.voidAt q.ridx then s
      else
        match s.qpRead q.ctx (q.slotVa q.ridx) 64 with
        | (s1, .wait) => s1
        | (s1, .fail c) => s1.queueError q.id c q.ridx none
        | (s1, .ok bs) =>
          let p : PktSite := ⟨q, q.ridx, none, wordsOf bs⟩
          if !packetOk p.raw false then s1.begin p (.fail qePacket)
          else if pktKind p.raw != kind || (bitOf (pktFlags p.raw) 0 && q.didx != q.ridx) then s
          else go s1 p

end Sys2Proof.Machine
end

