-- ==== Sys2Proof/Machine/Grids.lean ====
section
/-!
DEFINITION. Launches (12_dispatch_and_issue.md R311, R314 to R316, R320, R323, R327 to R329, R337;
02_translation_and_leases.md R51 to R55, R59, R61): grid descriptors, kernel image headers, lease lists, the resolution
and grant of a lease, its release, the offer to the dispatchers, and the events their policy engines wait with.
-/
namespace Sys2Proof.Machine

-- Descriptors (R314, R315).

/-- A little-endian field of a byte string. -/
def field (d : List Byte) (o n : Nat) : Nat := ofBytes ((d.drop o).take n)

/-- An entry offset: a multiple of 4 past the image's records. -/
def entryOk (recs e : Nat) : Bool := e % 4 == 0 && decide (64 + 64 * recs ≤ e)

/-- An entry's address. -/
def entryAt (d : List Byte) (e : Nat) : Nat := (field d 0 8 + e) % 2 ^ 56

/-- The descriptor's fields, with the record count of its kernel image. -/
def parseDesc (d : List Byte) (recs : Nat) : GridDesc :=
  let w (o : Nat) : Nat := field d o 4
  { codeBase := field d 0 8, groupEntry := entryAt d (w 0x08),
    ctlEntry := if w 0x0C == 0 then 0 else entryAt d (w 0x0C), handler := entryAt d (w 0x10),
    refillSite := if w 0x14 == 0xFFFFFFFF then none else some (entryAt d (w 0x14)),
    vCount := bitsOf (w 0x18) 6 0, uCount := bitsOf (w 0x18) 14 8, unit := 2 ^ bitsOf (w 0x18) 18 16,
    vers := bitOf (w 0x18) 20, power := bitOf (w 0x18) 21, cls := bitsOf (w 0x18) 23 22,
    vlo := bitsOf (w 0x1C) 5 0, vhi := bitsOf (w 0x1C) 13 8, clear := bitOf (w 0x1C) 15,
    g := bitsOf (w 0x20) 11 0, m := bitsOf (w 0x20) 19 16, c := bitsOf (w 0x20) 24 20, cbHint := bitsOf (w 0x20) 27 25,
    maxBlocks := w 0x24, items := field d 0x28 8, leasePtr := field d 0x30 8, argPtr := field d 0x38 8,
    argLen := if field d 0x38 8 == 0 then 0 else w 0x40, ablim := bitsOf (w 0x44) 5 0, constPtr := field d 0x48 8,
    privBase := field d 0x50 8, privLen := field d 0x58 8, recs := recs }

/-- The limits of the code base, the entries and the register word. -/
def descEntriesOk (d : List Byte) (recs : Nat) : Bool :=
  let w (o : Nat) : Nat := field d o 4
  let x := w 0x18
  let y := w 0x1C
  entryOk recs (w 0x08) && (w 0x0C == 0 || entryOk recs (w 0x0C)) && entryOk recs (w 0x10) &&
    (w 0x14 == 0xFFFFFFFF || entryOk recs (w 0x14)) &&
    decide (1 ≤ bitsOf x 6 0) && decide (bitsOf x 6 0 ≤ 64) && decide (1 ≤ bitsOf x 14 8) && decide (bitsOf x 14 8 ≤ 64) &&
    decide (bitsOf x 18 16 ≤ 5) && !bitOf x 7 && !bitOf x 15 && !bitOf x 19 && x / 2 ^ 24 == 0 &&
    bitsOf y 7 6 == 0 && !bitOf y 14 && y / 2 ^ 16 == 0 &&
    (!bitOf y 15 || (decide (bitsOf y 5 0 ≤ bitsOf y 13 8) && decide (bitsOf y 13 8 < bitsOf x 6 0))) &&
    (w 0x14 != 0xFFFFFFFF || (bitsOf x 18 16 == 0 && !bitOf y 15))

/-- The limits of the block's shape and of the pointers. A pointer that leaves the 56-bit address space breaks its
limit (log 24). -/
def descShapeOk (d : List Byte) : Bool :=
  let w (o : Nat) : Nat := field d o 4
  let q (o : Nat) : Nat := field d o 8
  let z := w 0x20
  let g := bitsOf z 11 0
  let m := bitsOf z 19 16
  decide (1 ≤ g) && decide (g ≤ 2048) && decide (1 ≤ m) && decide (m ≤ 12) && decide (bitsOf z 24 20 ≤ 16) &&
    decide (bitsOf z 27 25 ≤ 4) && bitsOf z 15 12 == 0 && z / 2 ^ 28 == 0 && decide (ceilDiv g m ≤ 192) &&
    decide (1 ≤ w 0x24) && decide (w 0x24 ≤ 65535) && decide (1 ≤ q 0x28) && decide (q 0x28 ≤ 2 ^ 48) &&
    q 0x30 % 16 == 0 && decide (q 0x30 < 2 ^ 56) && decide (w 0x40 ≤ 4096) && decide (q 0x38 + w 0x40 ≤ 2 ^ 56) &&
    w 0x44 / 64 == 0 && decide (w 0x44 ≤ 32) && decide (q 0x48 ≤ 2 ^ 56 - 2 ^ 16) &&
    q 0x50 % 2 ^ 16 == 0 && q 0x58 % 2 ^ 16 == 0 && decide (q 0x50 + q 0x58 ≤ 2 ^ 56) &&
    (if q 0x50 == 0 then q 0x58 == 0 else decide (2 ^ 16 * 32 * g ≤ q 0x58)) &&
    (d.drop 0x60).all (· == 0)

/-- A kernel image header (R194). -/
def headerOk (h : List Byte) : Bool := decide (field h 0 1 ≤ 127) && (h.drop 1).all (· == 0)

/-- The logical quadrants a member uses: those of member 0 (R317). -/
def GridDesc.quads (d : GridDesc) : Nat := min 4 (ceilDiv d.g d.m)

/-- The cores of a cluster. -/
def clusterCores (cluster : Nat) : List Nat := (List.range 12).map fun (i : Nat) => cluster * 12 + i

/-- The cores of a cluster that a function owns for every quadrant a member uses. -/
def State.eligible (s : State) (fn : Nat) (d : GridDesc) (cluster : Nat) : List Nat :=
  (clusterCores cluster).filter fun c => decide (d.quads ≤ (s.ownedQuads c fn).length)

/-- The conditions of R315 on the cores: some cluster of the queue's mask holds m eligible ones, and on some eligible one
the contribution and the AB limit fit. -/
def State.descFits (s : State) (q : Queue) (d : GridDesc) : Bool :=
  let fn := s.ctxFn q.ctx
  let cl := ((List.range 16).filter fun k => bitOf q.qcbh.clusterMask.toNat k).map fun k => s.eligible fn d k
  cl.any (fun e => decide (d.m ≤ e.length)) &&
    cl.any fun e => e.any fun c =>
      let own := (s.ownedQuads c fn).length
      decide (d.c * 2 ^ 16 + d.abLimit own ≤ abSize own)

-- Lease lists (R51, R52).

/-- One entry of a lease list. -/
def parseRange (w0 w1 : Nat) : LeaseRange :=
  { base := bitsOf w0 55 0, len := bitsOf w1 55 0, r := bitOf w0 56, w := bitOf w0 57, a := bitOf w0 58, x := bitOf w0 59,
    rep := bitOf w0 60, place := bitsOf w1 63 62, die := bitsOf w1 61 60, repMask := bitsOf w1 59 56 }

/-- The rules of R52 on one entry. -/
def rangeOk (w0 : Nat) (l : LeaseRange) : Bool :=
  w0 / 2 ^ 61 == 0 && l.base % 4096 == 0 && l.len % 4096 == 0 && l.len != 0 && decide (l.base + l.len ≤ 2 ^ 56) &&
    (!l.a || (l.r && l.w)) && (!l.x || l.r) && !(l.rep && l.a) && (l.repMask == 0 || l.rep) &&
    (l.die == 0 || l.place == 3)

/-- Whether two ranges lie apart. -/
def LeaseRange.apart (x y : LeaseRange) : Bool := decide (x.base + x.len ≤ y.base) || decide (y.base + y.len ≤ x.base)

/-- Whether no two ranges overlap. -/
def rangesApart : List LeaseRange → Bool
  | [] => true
  | x :: r => r.all (x.apart ·) && rangesApart r

/-- Whether an entry lies in a range that carries X. -/
def entryLeased (ls : List LeaseRange) (e : Nat) : Bool :=
  ls.any fun l => l.x && decide (l.base ≤ e) && decide (e < l.base + l.len)

/-- The rules of R52 on a list's entries. -/
def leaseOk (d : GridDesc) (ws : List (Nat × Nat)) : Bool :=
  let ls := ws.map fun (a, b) => parseRange a b
  (ws.all fun (a, b) => rangeOk a (parseRange a b)) && rangesApart ls && entryLeased ls d.groupEntry &&
    (d.ctlEntry == 0 || entryLeased ls d.ctlEntry) && entryLeased ls d.handler

-- Sequencing of queue processor accesses.

/-- What follows an access that may wait or fail. -/
def qpThen {α β : Type} (r : State × QpRes α) (k : State → α → State × QpRes β) : State × QpRes β :=
  match r with
  | (s, .ok x) => k s x
  | (s, .wait) => (s, .wait)
  | (s, .fail c) => (s, .fail c)

/-- The lease list read and checked. -/
def State.readLeases (s : State) (ctx : Nat) (d : GridDesc) : State × QpRes (List LeaseRange) :=
  qpThen (s.qpRead ctx d.leasePtr 16) fun s1 h =>
    let n := ofBytes h
    if 16 < n then (s1, .fail qeLease)
    else
      qpThen (s1.qpRead ctx (d.leasePtr + 16) (16 * n)) fun s2 bs =>
        let ws := (List.range n).map fun (i : Nat) => (field bs (16 * i) 8, field bs (16 * i + 8) 8)
        if leaseOk d ws then (s2, .ok (ws.map fun (a, b) => parseRange a b)) else (s2, .fail qeLease)

/-- The descriptor and the image header read and checked (R55, R315). -/
def State.readDesc (s : State) (q : Queue) (ptr : Nat) : State × QpRes GridDesc :=
  qpThen (s.qpRead q.ctx ptr 128) fun s1 d =>
    if field d 0 8 % 64 != 0 || decide (2 ^ 56 - 64 < field d 0 8) then (s1, .fail qeDesc)
    else
      qpThen (s1.qpRead q.ctx (field d 0 8) 64) fun s2 h =>
        let x := parseDesc d (field h 0 1)
        if headerOk h && descEntriesOk d (field h 0 1) && descShapeOk d && s2.descFits q x then (s2, .ok x)
        else (s2, .fail qeDesc)

-- Resolution (R53, R54, R59, R61).

/-- The PTE rights a range needs. -/
def LeaseRange.needs (l : LeaseRange) (e : DWord) : Bool :=
  (!l.r || pteRd e) && (!(l.w || l.a) || pteWr e) && (!l.x || pteEx e)

/-- The die a page of a range is brought to, none where it stays. -/
def LeaseRange.target (l : LeaseRange) (own i : Nat) : Option Nat :=
  match l.place with
  | 1 => some own
  | 2 => some (i % 4)
  | 3 => some l.die
  | _ => none

/-- The die that a leaf of a range is to be brought to, none where it is leased where it lies (R54). The number i of a SPREAD
page counts from BASE whatever its alignment: a leaf that begins below BASE has number 0 (log 84). -/
def LeaseRange.wants (l : LeaseRange) (own va : Nat) (x : Slot) : Option Nat :=
  match l.target own ((va - l.base) / 2 ^ x.bits) with
  | none => none
  | some die => if !pteMg x.entry || (pteMt x.entry == 0 && hbmDie x.base == die) then none else some die

/-- The frames, as dies and sizes, that the leaves of a range from a VA on are still to be brought to. -/
def State.rangeWants (s : State) (l : LeaseRange) (ctx own : Nat) : Nat → Nat → List (Nat × Nat)
  | 0, _ => []
  | fuel + 1, va =>
    if l.base + l.len ≤ va then []
    else
      match s.leafOf ctx va with
      | .leaf x =>
        let more := s.rangeWants l ctx own fuel (x.first va + 2 ^ x.bits)
        match l.wants own va x with
        | some die => if s.mayMove x then (die, x.bits) :: more else more
        | none => more
      | _ => s.rangeWants l ctx own fuel (va + 4096)

/-- The leases of a die's queue processor that began to resolve before a grid's (R54). -/
def State.olderOn (s : State) (die grid : Nat) : List Grid :=
  s.grids.filter fun g => g.lease == .resolving && decide (g.id < grid) &&
    ((s.queue? g.queue).map fun q => q.die == die).getD false

/-- Whether free frames of a size on a die are short for a lease (R54, log 84): what older leases of its queue processor's die
still need leaves it none. -/
def State.framesShort (s : State) (own grid die bits : Nat) : Bool :=
  match s.olderOn own grid with
  | [] => false
  | gs =>
    let older := gs.flatMap fun g => g.leases.flatMap fun l => s.rangeWants l g.ctx own (l.len / 4096 + 2) l.base
    decide ((s.freeFrames.filter fun f => f.1 == die && f.2.2 == bits).length ≤ (older.filter (· == (die, bits))).length)

/-- A leaf moved where its range asks. `turn` is the grid whose lease resolves: where frames are short, older leases of its die
take theirs first. A request that R65 refuses is counted, at the launch's first look and again at each later one (DESIGN CHOICE,
log 96), and the leaf is leased where it lies. -/
def State.placeLeaf (s : State) (l : LeaseRange) (ctx own turn va : Nat) (x : Slot) : State × QpRes Unit :=
  match l.wants own va x with
  | none => (s, .ok ())
  | some die =>
    if s.mayMove x && s.framesShort own turn die x.bits then (s, .wait)
    else
      match s.movePage ctx va die allDies with
      | (s1, .wait) => (s1, .wait)
      | (s1, .done) => (s1, .ok ())
      | (s1, .refused) => ({ s1 with migRefused := s1.migRefused + 1 }, .ok ())

/-- A replicated page collapsed where the range does not ask for REP (R61). -/
def State.unrepLeaf (s : State) (l : LeaseRange) (ctx va : Nat) : State := if l.rep then s else s.collapse ctx va

/-- Replicas made as the range's REP asks. -/
def State.repLeaf (s : State) (l : LeaseRange) (ctx va : Nat) : State :=
  if l.rep then s.replicate ctx va (if l.repMask == 0 then 15 else l.repMask) else s

/-- One leaf of a range resolved: resident with its rights (else the error `lacks`), collapsed first where it is to have no
replicas, then placed, and replicated where it is to have some. -/
def State.resolveLeaf (s : State) (l : LeaseRange) (ctx own turn lacks va : Nat) : State × QpRes Slot :=
  qpThen (s.qpLeaf true ctx va l.needs lacks) fun s1 _ =>
    qpThen ((s1.unrepLeaf l ctx va).qpLeaf true ctx va l.needs lacks) fun s2 x =>
      qpThen (s2.placeLeaf l ctx own turn va x) fun s3 _ =>
        (s3.repLeaf l ctx va).qpLeaf true ctx va l.needs lacks

/-- The leaves of a range from a VA on resolved. -/
def State.resolveRange (s : State) (l : LeaseRange) (ctx own turn lacks : Nat) : Nat → Nat → State × QpRes Unit
  | 0, _ => (s, .ok ())
  | fuel + 1, va =>
    if l.base + l.len ≤ va then (s, .ok ())
    else
      qpThen (s.resolveLeaf l ctx own turn lacks va) fun s1 x =>
        s1.resolveRange l ctx own turn lacks fuel (x.first va + 2 ^ x.bits)

/-- Every range of a list in order. -/
def State.resolveEach (s : State) (ctx own turn lacks : Nat) : List LeaseRange → State × QpRes Unit
  | [] => (s, .ok ())
  | l :: r =>
    qpThen (s.resolveRange l ctx own turn lacks (l.len / 4096 + 2) l.base) fun s1 _ => s1.resolveEach ctx own turn lacks r

/-- The pins of a range's leaves as they now stand. -/
def State.rangePins (s : State) (l : LeaseRange) (ctx : Nat) : Nat → Nat → List Pin
  | 0, _ => []
  | fuel + 1, va =>
    if l.base + l.len ≤ va then []
    else
      match s.leafOf ctx va with
      | .leaf x => ⟨ctx, x.first va, x.bits, x.key⟩ :: s.rangePins l ctx fuel (x.first va + 2 ^ x.bits)
      | _ => s.rangePins l ctx fuel (va + 4096)

/-- Every range of a list resolved, and the pins their lease would make: those of the leaves once every range has placed its
own. -/
def State.resolveAll (s : State) (ctx own turn lacks : Nat) (ls : List LeaseRange) : State × QpRes (List Pin) :=
  qpThen (s.resolveEach ctx own turn lacks ls) fun s1 _ =>
    (s1, .ok (distinctPins (ls.flatMap fun l => s1.rangePins l ctx (l.len / 4096 + 2) l.base)))

/-- Every page of [va, va + n), which lies in one leaf, looked at for its host translation (R406). -/
def State.sideHole (s : State) (ctx : Nat) (x : Slot) (va n : Nat) : State × QpRes Slot :=
  match s.hostHole x (pageOf va) ((va + n + 4095) / 4096 * 4096 - pageOf va) with
  | some v => s.askHost ctx v
  | none => (s, .ok x)

/-- The leaves that [va, va + n) meets with RD, and WR where asked: the pins outside a lease list (R53, R55). -/
def State.sidePins (s : State) (ctx : Nat) (wr : Bool) : Nat → Nat → Nat → State × QpRes (List Pin)
  | 0, _, _ => (s, .ok [])
  | fuel + 1, va, n =>
    if n == 0 then (s, .ok [])
    else
      qpThen (s.qpReach ctx va true wr) fun s0 x =>
        let next := x.first va + 2 ^ x.bits
        qpThen (s0.sideHole ctx x va (min n (next - va))) fun s1 _ =>
        match s1.sidePins ctx wr fuel next (va + n - next) with
        | (s2, .ok ps) => (s2, .ok (⟨ctx, x.first va, x.bits, x.key⟩ :: ps))
        | o => o

/-- The CONST bank and the argument block (R55). -/
def State.resolveSide (s : State) (ctx : Nat) (d : GridDesc) : State × QpRes (List Pin) :=
  qpThen (s.sidePins ctx false 17 d.constPtr (if d.constPtr == 0 then 0 else 2 ^ 16)) fun s1 ps =>
    match s1.sidePins ctx false 3 d.argPtr d.argLen with
    | (s2, .ok qs) => (s2, .ok (distinctPins (ps ++ qs)))
    | o => o

/-- The pinned count a queue would have (R53): the distinct leaves of its granted leases and of one more. -/
def State.pinnedPages (s : State) (queue : Nat) (more : List Pin) : Nat :=
  let held := (s.grids.filter fun g => g.queue == queue && g.lease == .granted).flatMap (·.pins)
  (distinctPins (held ++ more)).foldl (fun n p => n + 2 ^ (p.bits - 12)) 0

/-- A grid's ranges and side reads resolved. -/
def State.resolveGrid (s : State) (g : Grid) (die limit : Nat) : State × QpRes (List Pin × List Pin) :=
  qpThen (s.resolveAll g.ctx die g.id qeUnresolved g.leases) fun s1 ps =>
    if limit < s1.pinnedPages g.queue ps then (s1, .fail qeLimit)
    else
      match s1.resolveSide g.ctx g.desc with
      | (s2, .ok qs) => (s2, .ok (ps, qs))
      | (s2, .wait) => (s2, .wait)
      | (s2, .fail c) => (s2, .fail c)

/-- AC, and DT where a range carries W, set on the leaf at a VA (R44). -/
def State.markLeaf (s : State) (ctx va : Nat) (w : Bool) : State :=
  match s.leafOf ctx va with
  | .leaf x => s.casLeaf x va fun e =>
      if pteKind x.level e == .leaf then some (e ||| BitVec.ofNat 64 (2 ^ 10 + if w then 2 ^ 11 else 0)) else none
  | _ => s

/-- Those marks over a grid's pinned leaves. -/
def State.markLeaves (s : State) (ls : List LeaseRange) (ps : List Pin) : State :=
  ps.foldl (fun (s : State) p =>
    s.markLeaf p.ctx p.va (ls.any fun l => l.w && decide (l.base < p.va + 2 ^ p.bits) && decide (p.va < l.base + l.len))) s

-- The dispatchers' events (R327 to R329, R337).

/-- The tenant of a grid. -/
def State.tenantOf (s : State) (g : Grid) : Nat := (s.ctxDesc g.ctx).tenant

/-- The clusters in both masks of a grid (R316). -/
def State.gridClusters (s : State) (g : Grid) : List Nat :=
  let q := ((s.queue? g.queue).map fun q => q.qcbh.clusterMask.toNat).getD 0
  (List.range 16).filter fun k => bitOf q k && bitOf (s.ctxDesc g.ctx).clusters k

/-- A grid's standing with a cluster. -/
def Grid.offerAt (g : Grid) (cluster : Nat) : Option Offer := g.offers.find? (·.cluster == cluster)
def State.modOffer (s : State) (grid cluster : Nat) (f : Offer → Offer) : State :=
  s.modGrid grid fun g => { g with offers := modIf g.offers (·.cluster == cluster) f }

/-- The blocks of a grid that wait swapped out, oldest first. -/
def State.swappedOf (s : State) (grid : Nat) : List Block :=
  s.blocks.filter fun b => b.grid == grid && b.pre == .swapped

/-- Whether a cluster's deferral of a grid counts (R328): not where every eligible cluster holds one. -/
def Grid.defers (g : Grid) (cluster : Nat) : Bool :=
  ((g.offerAt cluster).map (·.deferred)).getD false && !g.offers.all (·.deferred)

/-- Whether a grid may have a further new block (R157). -/
def Grid.mayGrow (g : Grid) : Bool := decide (g.ctr < g.desc.items) && decide (g.live < g.desc.maxBlocks)

/-- Whether a grid has a block to place or restore in a cluster: swapped-out blocks come before new ones. -/
def State.hasWork (s : State) (g : Grid) (cluster : Nat) : Bool :=
  g.lease == .granted && !g.complete && (g.offerAt cluster).isSome &&
    (if (s.swappedOf g.id).isEmpty then g.mayGrow else !g.defers cluster)

/-- Whether a grid is ready in a cluster (R328): its ENQUEUE is decided and it has a block to place. -/
def State.isReady (s : State) (cluster : Nat) (g : Grid) : Bool :=
  ((g.offerAt cluster).bind (·.rank)).isSome && s.hasWork g cluster

/-- A tenant's ready grids in a cluster, by rank and then by time offered. -/
def State.readyOf (s : State) (cluster tenant : Nat) : List Grid :=
  let rank (g : Grid) : Nat := ((g.offerAt cluster).bind (·.rank)).getD 0
  let at_ (g : Grid) : Nat := ((g.offerAt cluster).map (·.at_)).getD 0
  sortBy (fun x y => decide (rank x < rank y) || (rank x == rank y && decide (at_ x ≤ at_ y)))
    (s.grids.filter fun g => s.tenantOf g == tenant && s.isReady cluster g)

/-- The PICK order that begins at a tenant, with the grid that leads that tenant's. -/
def State.orderFrom (s : State) (cluster first : Nat) (lead : Option Nat) : List Nat :=
  let ids := (List.range 16).flatMap fun i => (s.readyOf cluster ((first + i) % 16)).map (·.id)
  match lead with
  | some l => if ids.contains l then l :: ids.filter (· != l) else ids
  | none => ids

/-- The carousel's PICK order (R337). -/
def State.carouselOrder (s : State) (cluster : Nat) : List Nat :=
  s.orderFrom cluster (match (s.disp cluster).lastTenant with
    | some t => (t + 1) % 16
    | none => 0) none

/-- The rank the carousel gives. -/
def carouselRank (cls : Nat) : Nat := (3 - cls) * 64

/-- The head of a cluster's dispatcher, while it has a block left to place or restore there (R320). -/
def State.headOf (s : State) (cluster : Nat) : Option Grid :=
  ((s.disp cluster).head.bind s.grid?).bind fun h => if s.hasWork h cluster then some h else none

/-- The grids that a round attempts (R320): a reserved head alone. -/
def State.roundOf (s : State) (cluster : Nat) (order : List Nat) : List Nat :=
  match s.headOf cluster with
  | some h => if h.reserved then [h.id] else order
  | none => order

/-- A PICK event queued, once: an attempt round is due (R320). -/
def State.wantRound (s : State) (cluster : Nat) : State :=
  let d := s.disp cluster
  if d.events.any (·.point == 1) then s
  else if d.events.length < 64 then s.modDisp cluster fun x => { x with events := x.events ++ [⟨1, 0, 0, 0⟩] }
  else
    let o := s.roundOf cluster (s.carouselOrder cluster)
    s.modDisp cluster fun x => { x with drop := min (x.drop + 1) 0xFFFF, order := o }

/-- What the carousel decides for an event at once (R329, R337). -/
def State.carouselNow (s : State) (cluster : Nat) (e : TrEvent) : State :=
  match e.point with
  | 0 => (s.modOffer e.grid cluster fun o => { o with rank := some (carouselRank e.arg) }).wantRound cluster
  | 4 => (s.modOffer e.grid cluster fun o => { o with deferred := false }).wantRound cluster
  | _ => s

/-- An event fired at a dispatcher: queued, or with the queue full decided by the carousel and counted. -/
def State.fire (s : State) (cluster : Nat) (e : TrEvent) : State :=
  if (s.disp cluster).events.length < 64 then s.modDisp cluster fun d => { d with events := d.events ++ [e] }
  else (s.modDisp cluster fun d => { d with drop := min (d.drop + 1) 0xFFFF }).carouselNow cluster e

/-- Every dispatcher that may place a grid of the device attempts again (R320). -/
def State.wantRounds (s : State) : State := (List.range 16).foldl (fun (s : State) k =>
  if s.grids.any fun g => s.isReady k g then s.wantRound k else s) s

/-- The grid offered to the dispatchers of its clusters (R316). -/
def State.offerGrid (s : State) (g : Grid) : State :=
  let cl := s.gridClusters g
  let s1 := s.modGrid g.id fun x =>
    { x with offered := true, offers := cl.map fun k => (⟨k, s.clk17, none, false, 0⟩ : Offer) }
  cl.foldl (fun (s : State) k => s.fire k ⟨0, g.id, s.tenantOf g, g.prio⟩) s1

-- The packet.

/-- The grid of a launch that passed its checks (R311, R323). -/
def newGrid (p : PktSite) (id : Nat) (d : GridDesc) (ls : List LeaseRange) : Grid :=
  { id := id, ctx := p.q.ctx, queue := p.q.id, index := p.idx, node := p.node, desc := d, leases := ls,
    lease := .resolving, pins := [], sidePins := [], ctr := 0, nextBlock := 0, live := 0, priv := [],
    prio := min p.q.prio d.cls, offers := [], offered := false, pass := 0, reserved := false, reservedAt := 0,
    complete := false }

/-- The reads and checks of a launch, and the first look at its pages. -/
def State.launch (s : State) (p : PktSite) : State × QpRes Grid :=
  qpThen (s.readDesc p.q (pktBody p.raw 0)) fun s1 d =>
    qpThen (s1.readLeases p.q.ctx d) fun s2 ls =>
      let g := newGrid p s2.nextId d ls
      match s2.resolveAll g.ctx p.q.die g.id qeUnresolved ls with
      | (s3, .fail c) => (s3, .fail c)
      | (s3, _) => (s3, .ok g)

/-- LAUNCH_GRID (R309, R316, steps 1 to 3): the lease enters RESOLVING, its absent pages asked of the host. -/
def execLaunchGrid (x : PktRef) (s : State) : Host.Outcome State Fault Refusal :=
  .next <| s.packet x 1 fun s p =>
    match s.launch p with
    | (s1, .wait) => (s1, .hold)
    | (s1, .fail c) => (s1, .fail c)
    | (s1, .ok g) => ({ s1 with grids := s1.grids ++ [g], nextId := s1.nextId + 1 }, .run [])

/-- A launch that failed: the grid goes, its packet or node fails (R53, R308). -/
def State.failGrid (s : State) (g : Grid) (q : Queue) (code : Nat) : State :=
  ({ s with grids := s.grids.filter (·.id != g.id) }).failPacket ⟨q, g.index, g.node, []⟩ code

/-- The grant: marks, pins, the offer. -/
def State.grantLease (s : State) (g : Grid) (ps side : List Pin) : State :=
  let s1 := ((s.markLeaves g.leases ps).pinAll (ps ++ side)).modGrid g.id fun x =>
    { x with lease := .granted, pins := ps, sidePins := side }
  (s1.offerGrid g).tick

/-- LEASE_GRANT (R53, R54, R316, steps 3 to 5): a resolving lease is granted once every page stands, or fails. -/
def execLeaseGrant (id : Nat) (s : State) : Host.Outcome State Fault Refusal :=
  .next <|
    match (s.grid? id).bind fun g => (s.queue? g.queue).map fun q => (g, q) with
    | none => s
    | some (g, q) =>
      if g.lease != .resolving then s
      else
        match s.resolveGrid g q.die q.qcbh.leaseLimit.toNat with
        | (s1, .wait) => s1
        | (s1, .fail c) => s1.failGrid g q c
        | (s1, .ok (ps, side)) => s1.grantLease g ps side

-- The end of a grid.

/-- Whether a granted lease may be released: the last block has retired, and with it every operation and region. -/
def State.leaseOver (s : State) (g : Grid) : Bool :=
  g.lease == .granted && decide (g.desc.items ≤ g.ctr) && g.live == 0 && s.blocks.all fun b => b.grid != g.id

/-- A grid that is complete leaves every dispatcher that names it head (R320). -/
def State.dropHeads (s : State) (grid : Nat) : State :=
  { s with disps := s.disps.map fun d =>
      (d.1, if d.2.head == some grid then { d.2 with head := none, headPlaced := false } else d.2) }

/-- The places of a pinned page and of its replicas (R59). -/
def State.pinCopies (s : State) (p : Pin) : List Nat :=
  match s.leafOf p.ctx p.va with
  | .leaf x => if x.key == p.key then p.key :: (maskDies (pteRmask x.entry)).map (onDie x.base) else [p.key]
  | _ => [p.key]

/-- The pages that a grid pins let go: the lines that its context protects there lose their protection, unless another lease
of the context holds the page (R76). -/
def State.releasePins (s : State) (g : Grid) : State :=
  let others := s.grids.filter fun x => x.id != g.id && x.ctx == g.ctx && x.lease == .granted
  (g.pins.filter fun p => !(others.any fun x => x.pins.any (·.key == p.key))).foldl
    (fun (s : State) p => (s.pinCopies p).foldl (fun (s : State) k => s.unprotect p.ctx k p.bits) s) (s.unpinAll (g.pins ++ g.sidePins))

/-- The lease released and the grid complete (R53, R311): its packet or node has done its work. -/
def State.releaseLease (s : State) (g : Grid) : State :=
  let s1 := ((s.releasePins g).modGrid g.id fun x =>
    { x with lease := .free, pins := [], sidePins := [], complete := true }).dropHeads g.id
  s1.workDone g.queue g.index g.node true

end Sys2Proof.Machine
end

