-- ==== Sys2Proof/Machine/Regions.lean ====
section
/-!
DEFINITION. Region operations (10_control_thread_and_engine_instructions.md R274; 01_address_spaces.md R31, R32, R36).
-/
namespace Sys2Proof.Machine

/-- The offset of a region's base pointer within its space. -/
def regionBase (p : DWord) : Nat := if ptrSpace p == 4 then ptrOff p % 2 ^ 24 else ptrOff p % 2 ^ 21

/-- Whether a region counts against a member (R31). -/
def Region.countsFor (r : Region) (rank : Nat) : Bool := r.space == 4 || r.rank == rank

/-- Whether a member may hold one region more of a space (R31). -/
def Block.regionRoom (b : Block) (space rank : Nat) : Bool :=
  let full (k : Nat) : Bool := decide (8 ≤ (b.regions.filter (·.countsFor k)).length)
  if space == 4 then (List.range b.cores.length).all fun k => !full k else !full rank

/-- Whether a range overlaps a region that the block holds. -/
def Block.regionOverlap (b : Block) (space rank base len : Nat) : Bool :=
  b.regions.any fun r =>
    r.space == space && (space == 4 || r.rank == rank) && decide (base < r.base + r.len) && decide (r.base < base + len)

/-- Whether a pointer's range lies in its space, clear of contributions (R32). -/
def State.regionInside (s : State) (x : Site) (p : DWord) (len : Nat) : Bool :=
  let a := regionBase p
  let off := ptrOff p
  if ptrSpace p == 4 then
    ptrRank p == 0 && off / 2 ^ 32 == 0 && bitsOf off 27 24 == 0 && decide (a + len ≤ x.clsSize)
  else
    ptrRank p == x.rank && off / 2 ^ 32 == 0 && bitsOf off 27 21 == 0 && decide (a + len ≤ abSize (s.ownQ x x.core)) &&
      (s.contribs (s.ctxFn x.ctx) x.core).all fun c => !(decide (a < c.1 + c.2) && decide (c.1 < a + len))

/-- Whether one lease range covers a region's global bytes with the rights its mode needs (R32). -/
def Grid.leasesRegion (g : Grid) (vbase len mode : Nat) : Bool :=
  g.leases.any fun r => r.r && (mode != 1 || r.w) && decide (r.base ≤ vbase) && decide (vbase + len ≤ r.base + r.len)

/-- The checks of RGN.MAP that the block's own records decide (R32). -/
def Block.regionFits (b : Block) (p : DWord) (rank len : Nat) : Bool :=
  b.regionRoom (ptrSpace p) rank && !b.regionOverlap (ptrSpace p) rank (regionBase p) len

/-- The checks of RGN.MAP (R30, R32, R274). -/
def State.mapFault (s : State) (x : Site) (b : Block32) (here : DWord) : Option (Cause × DWord) :=
  let p := blkPtr b 0
  let len := blkWord b 2
  let v := blkPtr b 3
  let mode := blkWord b 5
  if decide (2 < mode) || ptrOff p % 128 != 0 || len % 128 != 0 || v.toNat % 128 != 0 || len == 0 ||
      !(ptrSpace p == 1 || ptrSpace p == 4) || !s.regionInside x p len || !x.blk.regionFits p x.rank len then
    some (.illegalOperand, here)
  else if ptrSpace p == 1 && decide (x.grid.desc.abLimit (s.ownQ x x.core) < regionBase p + len) then
    some (.accessClass, p)
  else if !x.grid.leasesRegion v.toNat len mode then some (.leaseViolation, v)
  else none

/-- The block's region whose base a pointer is, every bit of it (R274). -/
def Block.regionNamed (b : Block) (rank : Nat) (p : DWord) : Option Nat :=
  indexWhere b.regions fun r =>
    r.space == ptrSpace p && r.base == ptrOff p && (if r.space == 4 then ptrRank p == 0 else r.rank == rank && ptrRank p == rank)

/-- The checks of RGN.FLUSH and RGN.UNMAP. -/
def State.regionFault (_ : State) (x : Site) (b : Block32) (here : DWord) : Option (Cause × DWord) :=
  if (x.blk.regionNamed x.rank (blkPtr b 0)).isSome then none else some (.illegalOperand, here)

def execRgnMap (x : UE1) (s : State) : Host.Outcome State Fault Refusal :=
  execBlockCmd x.e.toNat 6 State.mapFault .region x.t.toNat .rgnMap s
def execRgnFlush (x : UE1) (s : State) : Host.Outcome State Fault Refusal :=
  execBlockCmd x.e.toNat 2 State.regionFault .region x.t.toNat (fun b => .rgnFlush (blkPtr b 0)) s
def execRgnUnmap (x : UE1) (s : State) : Host.Outcome State Fault Refusal :=
  execBlockCmd x.e.toNat 2 State.regionFault .region x.t.toNat (fun b => .rgnUnmap (blkPtr b 0)) s

/-- A record installed, every granule INVALID (R274). -/
def mapRegion (rank : Nat) (b : Block32) : Region :=
  let p := blkPtr b 0
  let len := blkWord b 2
  ⟨rank, ptrSpace p, regionBase p, len, (blkPtr b 3).toNat % 2 ^ 56, blkWord b 5,
    List.replicate (len / 128) ⟨.invalid, 0, 0, 0, 0, [], 0⟩⟩

/-- The accesses to the bytes of a region to come made, which were plain ones (R36). -/
def State.orderRegion (s : State) (x : Site) (r : Region) : State :=
  s.orderPlaces fun k => (List.range r.grans.length).any fun g => (s.granuleKeys x.blk x.grid r g).contains (k / 16 * 16)

/-- A granule reference after region r has gone. -/
def shiftRef (r : Nat) (x : Nat × Nat) : Nat × Nat := (if r < x.1 then x.1 - 1 else x.1, x.2)

/-- A wait after region r has gone. -/
def Wait.shift (w : Wait) (r : Nat) : Wait :=
  match w with
  | .fill (some g) p d k i => .fill (some (shiftRef r g)) p d k i
  | w => w

/-- A region released (R36): it leaves the list, and waits on later regions keep naming them. -/
def State.dropRegion (s : State) (b r : Nat) : State :=
  let s1 := s.modBlock b fun x =>
    { x with
      regions := x.regions.take r ++ x.regions.drop (r + 1),
      groups := x.groups.map fun g => { g with threads := g.threads.map fun t => { t with wait := t.wait.shift r } },
      ctls := x.ctls.map fun c => { c with wait := c.wait.shift r } }
  { s1 with ops := modIf s1.ops (fun o => o.block == b) fun o =>
      { o with waitGran := o.waitGran.map fun (a, g, p) => ((shiftRef r (a, g)).1, g, p) } }

/-- A region unmapped (R36). -/
def State.unmapRegion (s : State) (b r : Nat) : State := (s.flushRegion b r).dropRegion b r

/-- Every region of a block unmapped, as at its exit (R36). -/
def State.unmapAll (s : State) (b : Nat) : State :=
  let n := ((s.block? b).map fun x => x.regions.length).getD 0
  (List.range n).foldl (fun (s : State) _ => s.unmapRegion b 0) s

/-- A flush or unmap completed: its word 2 counts the granules written back (R274). One that reads a poisoned word ends with
status 2 (R80): the other bytes are written back, and the region stays as it is (log 82). Its footprint is what it writes
(R132). -/
def State.regionDone (s : State) (o : EngOp) (x : Site) (p : DWord) (unmap : Bool) : State :=
  match x.blk.regionNamed x.rank p with
  | none => s.finishOp { o with fault := some (Cause.code .illegalOperand, p) }
  | some r =>
    let o := { o with foot := o.foot ++ ((x.blk.regions[r]?).map fun y => s.regionFoot x.blk x.grid y).getD [] }
    match s.regionBad x.blk.id r with
    | some g =>
      (s.writeBackRegion x.blk.id r).finishOp { o with fault := some (Cause.code .engineFault, ptrAdd p (128 * g : Nat)) }
    | none =>
      let n := ((x.blk.regions[r]?).map Region.dirtyCount).getD 0
      let s1 := if unmap then s.unmapRegion x.blk.id r else s.flushRegion x.blk.id r
      s1.finishOp { o with words := [BitVec.ofNat 32 n] }

/-- Whether a flush or unmap has still to wait for the accesses that a fill of its region holds (R33, R36). -/
def State.regionWaits (s : State) (x : Site) (p : DWord) : Bool :=
  ((x.blk.regionNamed x.rank p).map fun r => s.fillsPending x.blk.id r).getD false

/-- REGION_OPERATION_COMPLETE (R36, R274), in push order. A MAP whose range another MAP took since its issue, or a FLUSH
or UNMAP whose region is gone, ends with status 2 (log 20). -/
def execRegionOperationComplete (id : Nat) (s : State) : Host.Outcome State Fault Refusal :=
  .next <|
    match (s.op? id).bind fun o => (s.opSite o).map fun x => (o, x) with
    | none => s
    | some (o, x) =>
      if o.queue != .region || !s.opLive o || !s.queueHead o then s
      else
        match o.kind with
        | .rgnMap b =>
          if x.blk.regionFits (blkPtr b 0) x.rank (blkWord b 2) then
            ((s.orderRegion x (mapRegion x.rank b)).modBlock x.blk.id fun y =>
              { y with regions := y.regions ++ [mapRegion x.rank b] }).finishOp o
          else s.finishOp { o with fault := some (Cause.code .illegalOperand, blkPtr b 0) }
        | .rgnFlush p => if s.regionWaits x p then s else s.regionDone o x p false
        | .rgnUnmap p => if s.regionWaits x p then s else s.regionDone o x p true
        | _ => s

end Sys2Proof.Machine
end

