-- ==== Sys2Proof/Machine/Loop.lean ====
section
/-!
DEFINITION. The loop generator (10_control_thread_and_engine_instructions.md R275 to R277).
-/
namespace Sys2Proof.Machine

-- The template (R275).

/-- The templates a walk admits, by the word's operation code and fn. -/
inductive Template where
  | cp (fn : Nat)
  | lds
  | swap
  | stream
  | zero
  | out
deriving DecidableEq, Repr

/-- The template a word names; its e and f fields are ignored. -/
def templateOf (w : Nat) : Option Template :=
  let fn := bitsOf w 24 21
  let base := w / 2 ^ 25 * 2 ^ 25
  if base == 0xB0000000 then (if fn < 8 then some (.cp fn) else none)
  else if base == 0xB4000000 then
    match fn with
    | 0 => some .lds
    | 1 => some .swap
    | 2 => some .stream
    | _ => none
  else if base == 0xB8000000 then
    match fn with
    | 0 => some .zero
    | 1 => some .out
    | _ => none
  else none

/-- The queue of a template's records. -/
def Template.queue : Template → EngQ
  | .cp _ => .copy
  | .lds => .matrix
  | .swap => .matrix
  | .stream => .matrix
  | .zero => .acc
  | .out => .acc

/-- What a record of a block does. -/
def Template.kind (t : Template) (b : Block32) : OpKind :=
  match t with
  | .cp fn => .copy (copyDesc fn b 0 6)
  | .lds => .lds (b.take 6)
  | .swap => .swap
  | .stream => .stream (b.take 6)
  | .zero => .zero (blkWord b 0)
  | .out => .out (b.take 9)

/-- The checks its instruction makes at issue (R276). -/
def State.templateFault (s : State) (x : Site) (t : Template) (b : Block32) (here : DWord) : Option (Cause × DWord) :=
  match t with
  | .cp fn => s.copyFault x (copyDesc fn b 0 6) (blkWord b 3) here
  | .lds => s.ldsFault x b here
  | .swap => none
  | .stream => s.streamFault x b here
  | .zero => s.zeroFault x b here
  | .out => s.outFault x b here

-- Patches.

/-- The level counts of a walk. -/
def walkCounts (b : Block32) : Nat × Nat × Nat :=
  let c := blkWord b 1
  (bitsOf c 9 0 + 1, bitsOf c 19 10 + 1, bitsOf c 29 20 + 1)

/-- The records of a walk. -/
def walkTotal (b : Block32) : Nat :=
  let (n0, n1, n2) := walkCounts b
  n0 * n1 * n2

/-- Index and kind of a patch. -/
def patchOf (b : Block32) (p : Nat) : Nat × Nat := (bitsOf (blkWord b 2) (8 * p + 3) (8 * p), bitsOf (blkWord b 2) (8 * p + 5) (8 * p + 4))

/-- A patch's displacement at record idx. -/
def patchAdd (b : Block32) (p idx : Nat) : Int :=
  let (n0, n1, _) := walkCounts b
  let inc (l : Nat) : Int := (b.getD (3 + 3 * p + l) 0).toInt
  (idx % n0 : Nat) * inc 0 + (idx / n0 % n1 : Nat) * inc 1 + (idx / (n0 * n1) : Nat) * inc 2

/-- A block with one patch applied. -/
def patchBlock (snap : Block32) (w kind : Nat) (d : Int) : Block32 :=
  match kind with
  | 1 => snap.set w (BitVec.ofNat 32 (toBits 32 ((blkWord snap w : Int) + d)))
  | 2 => snap.set w (BitVec.ofNat 32 (blkWord snap w / 2 ^ 25 * 2 ^ 25 + toBits 25 ((blkWord snap w : Int) + d)))
  | 3 =>
    let p := ptrAdd (blkPtr snap w) d
    (snap.set w (loWord p)).set (w + 1) (hiWord p)
  | _ => snap

/-- The operand block of record idx (R276). -/
def walkBlock (b snap : Block32) (idx : Nat) : Block32 :=
  let p0 := patchOf b 0
  let p1 := patchOf b 1
  patchBlock (patchBlock snap p0.1 p0.2 (patchAdd b 0 idx)) p1.1 p1.2 (patchAdd b 1 idx)

/-- Whether LOOP.RUN's control block is well formed (R275). -/
def walkOk (b : Block32) : Bool :=
  let c := blkWord b 2
  let p0 := patchOf b 0
  let p1 := patchOf b 1
  (templateOf (blkWord b 0)).isSome && !bitOf (blkWord b 1) 31 && bitsOf c 7 6 == 0 && c / 2 ^ 14 == 0 &&
    (p0.2 != 3 || p0.1 % 2 == 0) && (p1.2 != 3 || p1.1 % 2 == 0)

/-- LOOP.RUN (R275): a control thread's; the walk keeps the command's address. -/
def execLoopRun (x : UE2) (s : State) : Host.Outcome State Fault Refusal :=
  engineCmd s [(x.e.toNat, 9), (x.f.toNat, 16)] fun w =>
    let b := w.block x.e.toNat 9
    if w.ctl.isNone || !walkOk b then s.faultHere w .illegalOperand
    else s.pushCmd w { w.op .loop x.t.toNat (.walk b (w.block x.f.toNat 16)) with
      quiet := false, aux := [w.pc], flags := 0 }

-- The walk.

/-- The blocks of a walk. -/
def EngOp.walk? (o : EngOp) : Option (Block32 × Block32) :=
  match o.kind with
  | .walk b snap => some (b, snap)
  | _ => none

/-- Whether a walk has pushed its last record or has stopped. -/
def EngOp.pushedAll (o : EngOp) : Bool :=
  match o.kind with
  | .walk b _ => o.fault.isSome || o.stop || decide (walkTotal b ≤ o.prog)
  | _ => true

/-- The walks of a pair. -/
def State.walksOf (s : State) (b rank quad : Nat) : List EngOp :=
  (s.pairOps b rank quad).filter fun o => o.walk?.isSome

/-- LOOP.WAIT's condition (R277). -/
def State.walksPushed (s : State) (b rank quad : Nat) : Bool := (s.walksOf b rank quad).all EngOp.pushedAll

/-- The control thread in LOOP.WAIT issues again once its walks have pushed. -/
def State.wakeLoop (s : State) (o : EngOp) : State :=
  if s.walksPushed o.block o.rank o.quad then s.wakePair o.block o.rank o.quad .loopWait else s

/-- A record of a walk. -/
def walkRecord (o : EngOp) (t : Template) (b blk : Block32) : EngOp :=
  { o with
    queue := t.queue, tag := blkWord b 0 % 512, walk := some o.id, quiet := bitOf (blkWord b 1) 30, kind := t.kind blk,
    started := false, prog := 0, prog2 := 0, stop := false, fault := none, kids := [], foot := [], waitGran := none,
    aux := [], arrival := 0 }

/-- The next push of a walk (R276): its checks, which a record that waits for its permit has passed, its permit, its fork. -/
def State.walkPush (s : State) (o : EngOp) (x : Site) (b snap : Block32) (t : Template) : State :=
  let blk := walkBlock b snap o.prog
  match (if o.arrival == 0 then s.templateFault x t blk (BitVec.ofNat 64 (o.aux.getD 0 0)) else none) with
  | some (c, p) => s.modOp o.id fun y => { y with fault := some (c.code, p) }
  | none =>
    let record := walkRecord o t b blk
    if !s.permitDue record (if o.arrival == 0 then s.seq else o.arrival) then
      if o.arrival == 0 then
        (s.modOp o.id fun y => { y with arrival := s.seq, aux := [y.aux.getD 0 0, t.queue.kindCode] }).tick
      else s
    else
      let id := s.nextId
      (s.push record x.core).modOp o.id fun y => { y with prog := y.prog + 1, kids := y.kids ++ [id], arrival := 0 }

/-- LOOP_WALK_PUSH (R276): a live walk pushes its next record, or stops at a check that fails. -/
def execLoopWalkPush (id : Nat) (s : State) : Host.Outcome State Fault Refusal :=
  .next <|
    match (s.op? id).bind fun o => o.walk?.bind fun bs => (s.opSite o).bind fun x =>
        (templateOf (blkWord bs.1 0)).map fun t => (o, x, bs, t) with
    | none => s
    | some (o, x, (b, snap), t) =>
      if o.pushedAll || !s.opLive o then s else (s.walkPush o x b snap t).wakeLoop o

/-- The completions of a walk's records, in push order. -/
def State.walkLog (s : State) (o : EngOp) : List DoneOp :=
  match (s.block? o.block).bind fun b => b.pair? o.rank o.quad with
  | none => []
  | some p => o.kids.filterMap fun k => p.log.find? (·.id == k)

/-- The words of a walk's record (R256, R276): records pushed, those with a status, the first of them (or the index at
which a check failed), the first NaN record. -/
def walkWords (o : EngOp) (log : List DoneOp) : List Word :=
  let bad := log.filter (·.status != 0)
  let first : Word := match indexWhere log (·.status != 0) with
    | some i => BitVec.ofNat 32 i
    | none => 0xFFFFFFFF
  [BitVec.ofNat 32 o.prog, BitVec.ofNat 32 bad.length, first,
    nanWord ((log.find? (·.nan.isSome)).bind (·.nan)), 0]

/-- Whether a walk may complete: nothing left to push and every record complete. -/
def State.walkOver (s : State) (o : EngOp) : Bool :=
  o.walk?.isSome && o.pushedAll && s.opLive o && s.ops.all fun y => y.walk != some o.id

/-- LOOP_WALK_COMPLETE (R256, R276): a stopped check's record carries the index in word 4. -/
def execLoopWalkComplete (id : Nat) (s : State) : Host.Outcome State Fault Refusal :=
  .next <|
    match s.op? id with
    | none => s
    | some o =>
      if !s.walkOver o then s
      else
        let log := s.walkLog o
        let o1 := { o with
          words := walkWords o log, nan := (log.find? (·.nan.isSome)).bind (·.nan),
          flags := log.foldl (fun a d => a ||| d.flags) 0 }
        (s.finishOp o1 o.prog).wakeLoop o

/-- LOOP.WAIT (R277). -/
def execLoopWait (s : State) : Host.Outcome State Fault Refusal :=
  engineCmd s [] fun w =>
    if w.ctl.isNone then s.faultHere w .illegalOperand
    else if s.walksPushed w.blk.id w.rank w.quad then s.setPc w (w.pc + 4)
    else s.setWait w .loopWait

/-- LOOP.ABORT (R277): every walk of the pair that has records left to push stops. -/
def execLoopAbort (s : State) : Host.Outcome State Fault Refusal :=
  engineCmd s [] fun w =>
    if w.ctl.isNone then s.faultHere w .illegalOperand
    else
      let live (o : EngOp) : Bool := o.block == w.blk.id && o.rank == w.rank && o.quad == w.quad && !o.pushedAll
      { s with ops := modIf s.ops live fun o => { o with stop := true } }.setPc w (w.pc + 4)

end Sys2Proof.Machine
end

