-- ==== Sys2Proof/Machine/RflMath.lean ====
section
/-!
DEFINITION. The arithmetic of the refinement loop controller (11_refinement_loop.md R285, R287, R288): exact sums and their
one rounding, norms and η, conversion of A into a rung's format, one column of the elimination, the substitutions.
FP64 values are held as their 64-bit codes.
-/
namespace Sys2Proof.Machine

/-- The controller's FP64 arithmetic: RNE, subnormals kept. -/
def rflCtl : FCtl := ⟨.rne, false⟩

/-- The FP64 codes of a run of bytes. -/
def f64Codes (bs : List Byte) : List Nat := (List.range (bs.length / 8)).map fun i => ofBytes ((bs.drop (8 * i)).take 8)
/-- The bytes of FP64 codes. -/
def f64Bytes (xs : List Nat) : List Byte := xs.flatMap (toBytes 8)

/-- A value with its sign turned. -/
def FVal.negate : FVal → FVal
  | .nan s => .nan s
  | .inf n => .inf (!n)
  | .fin n m e => .fin (!n) m e
/-- The magnitude of a value. -/
def FVal.abs : FVal → FVal
  | .nan s => .nan s
  | .inf _ => .inf false
  | .fin _ m e => .fin false m e
def FVal.isFin : FVal → Bool
  | .fin _ _ _ => true
  | _ => false
/-- A value times a power of two. -/
def FVal.shift (v : FVal) (k : Int) : FVal :=
  match v with
  | .fin n m e => .fin n m (e + k)
  | v => v

/-- The exact sum of two finite values; anything else makes a NaN. -/
def exactAdd (x y : FVal) : FVal :=
  match x, y with
  | .fin n1 m1 e1, .fin n2 m2 e2 => let (n, m, e) := addDy .rne n1 m1 e1 n2 m2 e2; .fin n m e
  | _, _ => .nan false

/-- A value rounded once to FP64: its code and flags (R287). One that is no number raises none (DESIGN CHOICE, log 101). -/
def rflRound (v : FVal) : FRes :=
  match v with
  | .fin n m e => fmtF64.finish rflCtl n m e
  | .inf n => ⟨fmtF64.infCode n, 0⟩
  | .nan _ => ⟨fmtF64.canonNan, 0⟩

/-- The largest magnitude of some codes; NaN where one of them is (R287). -/
def maxNorm (xs : List Nat) : Nat :=
  if xs.any fun x => (fmtF64.value x).isNan then fmtF64.canonNan
  else xs.foldl (fun m x => max m (x % 2 ^ 63)) 0

/-- ‖A‖∞ (R287): the largest exact row sum of magnitudes, rounded once. -/
def rowNorm (a : List (List Nat)) : FRes :=
  let all := a.flatMap id
  if all.any fun x => (fmtF64.value x).isNan then ⟨fmtF64.canonNan, 0⟩
  else if all.any fun x => !(fmtF64.value x).isFin then ⟨fmtF64.infCode false, 0⟩
  else
    let sums := a.map fun row => row.foldl (fun s x => exactAdd s (fmtF64.value x).abs) (FVal.fin false 0 0)
    rflRound (sums.foldl (fun m s => if m.lt s then s else m) (FVal.fin false 0 0))

/-- The products of two rows, summed exactly onto a value. -/
def dotOnto : FVal → List Nat → List Nat → FVal
  | s, a :: as, x :: xs =>
    dotOnto (match mulExact (fmtF64.value a) (fmtF64.value x) with
      | some p => exactAdd s p.negate
      | none => .nan false) as xs
  | s, _, _ => s

/-- The residual b − A x (R287), each component rounded once. -/
def residual (a : List (List Nat)) (b x : List Nat) : List FRes :=
  (List.range b.length).map fun i => rflRound (dotOnto (fmtF64.value (b.getD i 0)) (a.getD i []) x)

/-- η and the flags of its operations (R287): RoundF64 of the product and the sum together, then of the quotient. -/
def etaOf (normA : Nat) (x b r : List Nat) : FRes :=
  let rn := maxNorm r
  if rn == 0 then ⟨0, 0⟩
  else
    let q := fmtF64.fma rflCtl normA (maxNorm x) (maxNorm b)
    match fmtF64.value rn, fmtF64.value q.val with
    | .fin _ m e, .fin _ m' e' =>
      if m' == 0 then ⟨fmtF64.infCode false, q.flags⟩
      else let d := fmtF64.divDy rflCtl false m e m' e'; ⟨d.val, q.flags ||| d.flags⟩
    | .inf _, .fin _ _ _ => ⟨fmtF64.infCode false, q.flags⟩
    | .fin _ _ _, .inf _ => ⟨0, q.flags⟩
    | .inf _, .inf _ => ⟨fmtF64.canonNan, q.flags ||| flNV⟩
    | _, _ => ⟨fmtF64.canonNan, q.flags⟩

-- Rungs (R285).

/-- Factor formats: the float class of R92. -/
def rungFormat (c : Nat) : Bool :=
  (decide (6 ≤ c) && decide (c ≤ 15)) || (decide (17 ≤ c) && decide (c ≤ 23)) || (decide (25 ≤ c) && decide (c ≤ 31))

/-- The vector format of a factor format. -/
def vectorFmt (c : Nat) : Nat := if fmtBits c ≤ 16 then 0x0C else if fmtBits c == 24 then 0x0D else 0x0E

/-- The workspace a rung needs. -/
def rungNeed (n c : Nat) : Nat := n * ceilDiv n (kPerPass (fmtBits c) (vectorFmt c) 1) * 64 + 64 * n

-- Conversion.

/-- Floor(Log2) of the largest magnitude of A: none where A is zero; false where A is not finite. -/
def largestLog (a : List (List Nat)) : Bool × Option Int :=
  let vs := (a.flatMap id).map fmtF64.value
  (vs.all FVal.isFin, vs.foldl (fun m v => maxLog m (termLog v)) none)

/-- The exponent of α (R287): for an unscaled format whose exponent field is narrower than 8 bits, that which brings the
largest magnitude just below its largest power of two. `open_` stands for it where A is not finite. -/
def alphaOf (c : Nat) (a : List (List Nat)) (open_ : Int) : Int :=
  match floatFmt c with
  | some f =>
    if 16 ≤ c || 8 ≤ f.eb then 0
    else
      match largestLog a, f.value f.maxMag with
      | (false, _), _ => open_
      | (true, some l), .fin _ m e => log2Dy m e - 1 - l
      | _, _ => 0
  | none => 0

/-- The scales of a row's blocks (R108). -/
def rowScales (c : Nat) (row : List FVal) : List Nat :=
  if blockLen c == 0 then [] else (chunks (blockLen c) row.length row).map (blockScale c)

/-- The scale of an element of a row. -/
def scaleOf (c : Nat) (scales : List Nat) (j : Nat) : Option Nat :=
  if blockLen c == 0 then none else some (scales.getD (j / blockLen c) 0x7F)

/-- A converted row: its codes, scales and saturations. -/
def convRow (c : Nat) (alpha : Int) (row : List Nat) : List Nat × List Nat × Nat :=
  let vs := row.map fun x => (fmtF64.value x).shift alpha
  let sc := rowScales c vs
  let es := (List.range vs.length).map fun j =>
    match scaleOf c sc j with
    | none => outPlain c .rne (vs.getD j (.fin false 0 0))
    | some e => outScaled c .rne e (vs.getD j (.fin false 0 0))
  (es.map (·.code), sc, (es.filter (·.sat)).length)

/-- The value of an element as the factor format holds it. -/
def factorVal (c : Nat) (codes scales : List Nat) (j : Nat) : FVal :=
  (Elem.mk (elemValue c (codes.getD j 0)).1 (scaleOf c scales j)).value

/-- A value rounded once to the factor format, at the place its block's scale gives (log 29); a saturation
here is no rung conversion and counts nowhere (DESIGN CHOICE, log 88). -/
def toFactor (c : Nat) (scale : Option Nat) (v : FVal) (sticky : Bool := false) : Nat :=
  match scale with
  | none => (convertTo c .rne v sticky).code
  | some e => if e == 0xFF then 0 else (convertTo c .rne (v.shift (127 - e)) sticky).code

-- One column of the elimination (R287).

/-- The row that holds the pivot: the largest magnitude, the lowest row on a tie. -/
def pivotRow (c k : Nat) (lu scales : List (List Nat)) : Nat :=
  let at_ (i : Nat) : FVal := (factorVal c (lu.getD i []) (scales.getD i []) k).abs
  (List.range lu.length).foldl (fun p i => if k < i && (at_ p).lt (at_ i) then i else p) k

/-- Two entries exchanged. -/
def swapAt {α : Type} (l : List α) (i j : Nat) (d : α) : List α := (l.set i (l.getD j d)).set j (l.getD i d)

/-- The exact quotient of two finite values as a dyadic with its sticky bit; the divisor is not zero. -/
def quotient (prec : Nat) (x y : FVal) : FVal × Bool :=
  match x, y with
  | .fin n1 m1 e1, .fin n2 m2 e2 =>
    let (q, k, st) := divBits prec m1 m2
    (.fin (n1 != n2) q (k + e1 - e2), st)
  | .inf n1, .fin n2 _ _ => (.inf (n1 != n2), false)
  | _, _ => (.nan false, false)

/-- One row below the pivot after its column's elimination: its codes, and the passes' results. -/
def elimRow (c k : Nat) (piv pivSc row rowSc : List Nat) : List Nat × List CellOut :=
  let u := factorVal c piv pivSc k
  let (q, st) := quotient 64 (factorVal c row rowSc k) u
  let lCode := toFactor c (scaleOf c rowSc k) q st
  let l := factorVal c (row.set k lCode) rowSc k
  let outs := (List.range row.length).map fun j =>
    if j ≤ k then none
    else some (floatPass [some (factorVal c row rowSc j), mulExact l.negate (factorVal c piv pivSc j)])
  let codes := (List.range row.length).map fun j =>
    match (outs[j]?).bind id with
    | some o => toFactor c (scaleOf c rowSc j) (fmtF40.value o.code)
    | none => if j == k then lCode else row.getD j 0
  (codes, outs.filterMap id)

/-- Whether an element at or below row k, and right of or in column k, is not finite. -/
def badFrom (c k : Nat) (lu scales : List (List Nat)) : Bool :=
  (List.range lu.length).any fun i => decide (k ≤ i) &&
    (List.range lu.length).any fun j => decide (k ≤ j) && !(factorVal c (lu.getD i []) (scales.getD i []) j).isFin

/-- What one FACTOR step leaves: the rows, their scales and order, the passes' results, whether the factorisation ended. -/
structure FactorOut where
  lu : List (List Nat)
  scales : List (List Nat)
  perm : List Nat
  outs : List CellOut
  ended : Bool

/-- Column k of the elimination. -/
def factorColumn (c k : Nat) (lu scales : List (List Nat)) (perm : List Nat) : FactorOut :=
  if badFrom c k lu scales then ⟨lu, scales, perm, [], true⟩
  else
    let p := pivotRow c k lu scales
    let lu1 := swapAt lu k p []
    let sc1 := if scales.isEmpty then [] else swapAt scales k p []
    let pm := swapAt perm k p 0
    let piv := lu1.getD k []
    let pivSc := sc1.getD k []
    match factorVal c piv pivSc k with
    | .fin _ 0 _ => ⟨lu1, sc1, pm, [], true⟩
    | _ =>
      let rows := (List.range lu1.length).map fun i =>
        if i ≤ k then (lu1.getD i [], []) else elimRow c k piv pivSc (lu1.getD i []) (sc1.getD i [])
      let lu2 := rows.map (·.1)
      ⟨lu2, sc1, pm, rows.flatMap (·.2),
        (List.range lu2.length).any fun i => decide (k < i) &&
          (List.range lu2.length).any fun j => decide (k ≤ j) && !(factorVal c (lu2.getD i []) (sc1.getD i []) j).isFin⟩

-- The substitutions.

/-- The value of a code of a vector format. -/
def vecVal (vf code : Nat) : FVal := (elemValue vf code).1

/-- Products of a factor row, from column `lo` up to `hi`, with the components found. -/
def rowTerms (c vf lo hi : Nat) (row sc comps : List Nat) : List (Option FVal) :=
  (List.range hi).filterMap fun j =>
    if j < lo then none else some (mulExact (factorVal c row sc j).negate (vecVal vf (comps.getD j 0)))

/-- The components of the forward substitution from a row on, after those already found. -/
def forwardSub (c vf : Nat) (lu scales : List (List Nat)) (rhs : List Nat) : Nat → List Nat → List CellOut → List Nat × List CellOut
  | 0, ys, os => (ys, os)
  | fuel + 1, ys, os =>
    let i := ys.length
    let o := floatPass (some (vecVal vf (rhs.getD i 0)) :: rowTerms c vf 0 i (lu.getD i []) (scales.getD i []) ys)
    forwardSub c vf lu scales rhs fuel (ys ++ [(convertTo vf .rne (fmtF40.value o.code)).code]) (os ++ [o])

/-- The back substitution, from row i − 1 down; `zs` holds the components from i on at their places. -/
def backSub (c vf : Nat) (lu scales : List (List Nat)) (ys : List Nat) : Nat → List Nat → List CellOut → List Nat × List CellOut
  | 0, zs, os => (zs, os)
  | i + 1, zs, os =>
    let row := lu.getD i []
    let sc := scales.getD i []
    let o := floatPass (some (vecVal vf (ys.getD i 0)) :: rowTerms c vf (i + 1) lu.length row sc zs)
    let (q, st) := quotient 64 (fmtF40.value o.code) (factorVal c row sc i)
    backSub c vf lu scales ys i (zs.set i (convertTo vf .rne q st).code) (os ++ [o])

/-- SOLVE (R287): d in FP64 and the passes' results; the residual's norm is finite and not zero. -/
def solveFor (c : Nat) (lu scales : List (List Nat)) (perm r : List Nat) (alpha : Int) : List Nat × List CellOut :=
  let vf := vectorFmt c
  let lg := (termLog (fmtF64.value (maxNorm r))).getD 0
  let sr := r.map fun x => (convertTo vf .rne ((fmtF64.value x).shift (-lg))).code
  let rhs := perm.map fun i => sr.getD i 0
  let (ys, o1) := forwardSub c vf lu scales rhs r.length [] []
  let (zs, o2) := backSub c vf lu scales ys r.length (List.replicate r.length 0) []
  (zs.map fun z => (rflRound ((vecVal vf z).shift (alpha + lg))).val, o1 ++ o2)

-- The tests (R288).

/-- The exit of a TEST: its code, 0 for none, and the flags of its FP64 steps. -/
def exitTest (etas : List Nat) (j w limit tau gamma rho : Nat) : Nat × Word :=
  let eta := etas.getD j 0
  let above (f i : Nat) : Bool × Word :=
    let p := fmtF64.mul rflCtl f (etas.getD i 0)
    let (b, fl) := fmtF64.compare rflCtl 4 eta p.val
    (b, p.flags ||| fl)
  if !(fmtF64.value eta).isFin then (2, 0)
  else if (fmtF64.compare rflCtl 3 eta tau).1 then (1, 0)
  else
    let (d, f1) := if j == 0 then (false, 0) else above gamma (j - 1)
    if d then (2, f1)
    else
      let (g, f2) := if j < w then (false, 0) else above rho (j - w)
      if g then (3, f1 ||| f2) else (if j == limit then 4 else 0, f1 ||| f2)

end Sys2Proof.Machine
end

