-- ==== Sys2Proof/Machine/Rfl.lean ====
section
/-!
DEFINITION. The refinement loop controller (11_refinement_loop.md R283 to R300): binding, the run's steps, the
instructions.
-/
namespace Sys2Proof.Machine

-- The controller and who holds it (R291, R299).

/-- The claims on a core's controller: bindings and SETUPs of resident pairs, with the age each has. -/
def State.rflClaims (s : State) (core : Nat) : List (Nat × Nat × Nat × Nat) :=
  let bound := s.blocks.flatMap fun b =>
    if b.pre == .swapped then []
    else b.pairs.filterMap fun p =>
      if b.coreOf p.rank == core then p.bind.map fun r => (r.setup, b.id, p.rank, p.quad) else none
  let waiting := s.ops.filterMap fun o =>
    match o.kind, s.opSite o with
    | .rflSetup _ _, some x => if x.core == core && s.opLive o then some (o.id, o.block, o.rank, o.quad) else none
    | _, _ => none
  bound ++ waiting

/-- The controller held for a pair: already, or now that it is free and the pair's claim is the oldest. -/
def State.takeRfl (s : State) (core block rank quad : Nat) : Option State :=
  match (s.coreHw core).rfl with
  | some h => if h == (block, rank, quad) then some s else none
  | none =>
    let cs := s.rflClaims core
    if cs.any fun c => c.2 == (block, rank, quad) && cs.all fun d => decide (c.1 ≤ d.1) then
      some (s.modCoreHw core fun h => { h with rfl := some (block, rank, quad) })
    else none

/-- The controller given up by a pair. -/
def State.freeRfl (s : State) (core block rank quad : Nat) : State :=
  s.modCoreHw core fun h => if h.rfl == some (block, rank, quad) then { h with rfl := none } else h

/-- The agents of a pair that stand at RFL.WAIT issue it again. -/
def State.wakeRfl (s : State) (block rank quad : Nat) : State :=
  s.modBlock block fun b =>
    { b with
      groups := b.groups.map fun g =>
        if b.rankOf g.num == rank && b.quadOf g.num == quad then
          { g with threads := g.threads.map fun t => if t.wait == .rflWait then { t with wait := .none } else t }
        else g,
      ctls := b.ctls.map fun c =>
        if c.rank == rank && c.quad == quad && c.wait == .rflWait then { c with wait := .none } else c }

-- The command block (R283 to R285, R291).

/-- A rung's two words. -/
def rungOf (bs : List Byte) (i : Nat) : Rung :=
  let w := ofBytes ((bs.drop (0x40 + 8 * i)).take 4)
  ⟨w % 32, bitsOf w 15 8, ofBytes ((bs.drop (0x44 + 8 * i)).take 4)⟩

/-- The action of a rung for an exit code (R284). -/
def Rung.action (r : Rung) (exit : Nat) : Nat := r.actions / 4 ^ (exit - 1) % 4

/-- The values a command block gives a binding. -/
def parseBlock (bs : List Byte) (ptr : DWord) (mask setup : Nat) : RflBind :=
  let u (o n : Nat) : Nat := ofBytes ((bs.drop o).take n)
  let d (o : Nat) : DWord := BitVec.ofNat 64 (u o 8)
  { ptr := ptr, mask := mask, n := u 0 4, init := bitOf (u 4 4) 2,
    rungs := (List.range (u 4 4 % 4 + 1)).map (rungOf bs),
    aPtr := d 0x08, aStride := u 0x10 8, bPtr := d 0x18, xPtr := d 0x20, ws := d 0x28,
    tau := d 0x60, rho := d 0x68, win := u 0x70 4, gamma := d 0x78, setup := setup }

/-- Whether a rung keeps R283 to R285. -/
def rungOk (bs : List Byte) (count i : Nat) : Bool :=
  let w := ofBytes ((bs.drop (0x40 + 8 * i)).take 4)
  let r := rungOf bs i
  if count ≤ i then w == 0 && r.limit == 0
  else
    rungFormat r.fmt && bitsOf w 7 5 == 0 && w / 2 ^ 16 == 0 && decide (1 ≤ r.limit) && decide (r.limit ≤ 65535) &&
      r.action 1 != 1 && (List.range 4).all fun e => r.action (e + 1) != 3 && (r.action (e + 1) != 1 || decide (i + 1 < count))

/-- A finite FP64 code at least 0. -/
def posF64 (x : Nat) (zero : Bool) : Bool :=
  match fmtF64.value x with
  | .fin n m _ => if m == 0 then zero else !n
  | _ => false

/-- WS (R285). -/
def RflBind.need (b : RflBind) : Nat := b.rungs.foldl (fun m r => max m (rungNeed b.n r.fmt)) 0

/-- Whether the bytes of a command block keep R283 to R285, but for the workspace's place. -/
def blockOk (bs : List Byte) (b : RflBind) : Bool :=
  let u (o n : Nat) : Nat := ofBytes ((bs.drop o).take n)
  let ptrOk (p : DWord) : Bool := ptrSpace p == 0 && p.toNat % 8 == 0
  decide (1 ≤ b.n) && decide (b.n ≤ 1024) && u 4 4 / 8 == 0 && ptrOk b.aPtr && b.aStride % 8 == 0 &&
    decide (8 * b.n ≤ b.aStride) && ptrOk b.bPtr && ptrOk b.xPtr && u 0x34 12 == 0 && u 0x74 4 == 0 && u 0x80 64 == 0 &&
    (List.range 4).all (rungOk bs b.rungs.length) && posF64 b.tau.toNat true && posF64 b.rho.toNat false &&
    decide (1 ≤ b.win) && decide (b.win ≤ 64) && posF64 b.gamma.toNat false && decide (b.need ≤ u 0x30 4)

/-- Whether the workspace lies in the block's CLS. -/
def State.workspaceOk (s : State) (x : Site) (b : RflBind) (len : Nat) : Bool :=
  ptrSpace b.ws == 4 && b.ws.toNat % 128 == 0 && !s.spaceFault x b.ws && !s.spaceFault x (ptrAdd b.ws ((len : Int) - 1)) &&
    decide (ptrOff b.ws % 2 ^ 24 + len ≤ x.clsSize)

/-- The check of an operand of n bytes (R10, R56). -/
def State.rflLease (s : State) (x : Site) (p : DWord) (n : Nat) (wr : Bool) : Option (Cause × DWord) :=
  match s.checkAccess x .rfl .read p 8 with
  | some c => some (c, p)
  | none =>
    if x.grid.leased .r (ptrOff p) n && (!wr || x.grid.leased .w (ptrOff p) n) then none else some (.leaseViolation, p)

/-- The checks of A, b and x. -/
def State.operandFault (s : State) (x : Site) (b : RflBind) : Option (Cause × DWord) :=
  firstFault [s.rflLease x b.aPtr (b.aStride * (b.n - 1) + 8 * b.n) false, s.rflLease x b.bPtr (8 * b.n) false,
    s.rflLease x b.xPtr (8 * b.n) true]

-- Completion.

/-- The pair of an operation, at its site. -/
def Site.pair (x : Site) : Option Pair := x.blk.pair? x.rank x.quad

/-- Whether another SETUP of the pair is pending. -/
def State.setupPending (s : State) (o : EngOp) : Bool :=
  (s.pairOps o.block o.rank o.quad).any fun y => y.id != o.id && (match y.kind with
    | .rflSetup _ _ => true
    | _ => false)

/-- A SETUP that fails leaves no binding; a RUN behind it completes with its status and cause (R292). -/
def State.setupFail (s : State) (x : Site) (o : EngOp) (c : Cause) (a : DWord) : State :=
  let f := some (c.code, a)
  let later := s.setupPending o
  let s1 := ((s.finishOp { o with fault := f }).freeRfl x.core o.block o.rank o.quad).modPair o.block o.rank o.quad fun p =>
    { p with bind := none, bindView := later }
  if later then s1
  else
    let runs := (s1.pairOps o.block o.rank o.quad).filter EngOp.isRun
    (runs.foldl (fun (s : State) r => s.finishOp { r with fault := f }) s1).wakeRfl o.block o.rank o.quad

/-- A run completed (R291, R292): the binding ends, the controller is free, the pair keeps the final values. -/
def State.endRun (s : State) (x : Site) (o : EngOp) (total : Nat) : State :=
  let s1 := (s.finishOp o total).freeRfl x.core o.block o.rank o.quad
  (s1.modPair o.block o.rank o.quad fun p => { p with bind := none, bindView := false }).wakeRfl o.block o.rank o.quad

/-- What RFL.STATE reads of a run (R294). -/
def RflRun.words (r : RflRun) : List Word :=
  [BitVec.ofNat 32 r.total, BitVec.ofNat 32 (r.rung + r.step * 2 ^ 16), loWord (BitVec.ofNat 64 r.eta),
    hiWord (BitVec.ofNat 64 r.eta)]

/-- A run at its end: its data gone, its last values kept. -/
def RflRun.ended (r : RflRun) : RflRun :=
  let e := { r with step := 8, a := [], b := [], x := [], r := [], d := [], lu := [], scales := [], perm := [] }
  { e with seen := [e.words] }

/-- A run that ends at no exit (R288): its exit code is 0. -/
def RflRun.cut (r : RflRun) : RflRun := { r with exitCode := 0 }.ended

/-- A run cut short by a fault in what it reads or writes (R300): LEASE_VIOLATION but for an uncorrectable error. -/
def State.runFault (s : State) (x : Site) (o : EngOp) (r : RflRun) (m : Moved) : State :=
  match m with
  | .wait g i p => s.haltOp o.id (.wait g i p)
  | .bad c p =>
    let c' := if c == .engineFault then Cause.engineFault else .leaseViolation
    (s.modPair o.block o.rank o.quad fun q => { q with run := some r.cut }).endRun x
      { o with fault := some (c'.code, p) } r.total
  | .ok _ => s

-- Steps.

/-- A live run: its operation, site, binding, record and banks. -/
structure LiveRun where
  o : EngOp
  x : Site
  b : RflBind
  r : RflRun
  banks : Nat

/-- Rows of FP64 values read at the home. -/
def State.readRows (s : State) (x : Site) (p : DWord) (stride n : Nat) : Nat → Nat → State × Except Moved (List (List Nat))
  | 0, _ => (s, .ok [])
  | k + 1, i =>
    match s.engReadAt x .rfl (ptrAdd p (i * stride : Nat)) (8 * n) with
    | (s1, .ok bs) =>
      match s1.readRows x p stride n k (i + 1) with
      | (s2, .ok rs) => (s2, .ok (f64Codes bs :: rs))
      | e => e
    | (s1, m) => (s1, .error m)

/-- One of the values an element has held since the fork (R297). -/
def heldOr (free now : Nat) (before : List Nat) : Nat :=
  let vs := now :: before.filter (· != now)
  vs.getD ((Config.freeDWord free).toNat % vs.length) now

/-- Rows as the run takes them: rows `off` on of what was held, and of what is there now. -/
def heldRows (free off : Nat) (held : List (List (List Nat))) (now : List (List Nat)) : List (List Nat) :=
  (List.range now.length).map fun i =>
    let row := now.getD i []
    (List.range row.length).map fun j =>
      heldOr (free + i * row.length + j) (row.getD j 0) (held.map fun h => (h.getD (off + i) []).getD j (row.getD j 0))

/-- Where a binding's A, b and x lie: what tells its notes from another's. -/
def RflBind.key (b : RflBind) : List Nat := [b.n, b.aPtr.toNat, b.aStride, b.bPtr.toNat, b.xPtr.toNat]

/-- What the rows of a run have held that the model has noted: at the instants of `sampleRun`, and at INIT. -/
def LiveRun.held (v : LiveRun) : List (List (List Nat)) :=
  ((v.o.held.filter fun h => h.head? == some v.b.key).map (·.drop 1)) ++ if v.r.a.isEmpty then [] else [v.r.a ++ [v.r.b]]

/-- A and b read, or read again (R297; log 31). -/
def State.readAb (s : State) (v : LiveRun) : State × Except Moved (List (List Nat) × List Nat) :=
  let n := v.b.n
  match s.readRows v.x v.b.aPtr v.b.aStride n n 0 with
  | (s1, .error m) => (s1, .error m)
  | (s1, .ok a) =>
    match s1.readRows v.x v.b.bPtr 0 n 1 0 with
    | (s2, .ok (b :: _)) =>
      if v.held.all fun h => h.take (n + 1) == a ++ [b] then (s2, .ok (a, b))
      else
        let rows := heldRows s2.fresh 0 v.held (a ++ [b])
        ({ s2 with fresh := s2.fresh + n * (n + 1) }, .ok (rows.take n, rows.getD n []))
    | (s2, .ok []) => (s2, .ok (a, []))
    | (s2, .error m) => (s2, .error m)

/-- The last SETUP of a run's pair that was pushed before the run and has still to bind. -/
def State.setupBefore (s : State) (o : EngOp) : Option (EngOp × DWord × Nat) :=
  ((s.pairOps o.block o.rank o.quad).filterMap fun y =>
    match y.kind with
    | .rflSetup p m => if y.id < o.id then some (y, p, m) else none
    | _ => none).getLast?

/-- The binding on which a run will start (R292): the pair's, or the one that a SETUP before it will make of its command block as
that now stands. -/
def State.runBind (s : State) (o : EngOp) (x : Site) : Option RflBind :=
  match s.setupBefore o with
  | none => x.pair.bind (·.bind)
  | some (y, p, m) =>
    match (s.engReadAt x .rfl p 192).2 with
    | .ok bs => let b := parseBlock bs p m y.id; if blockOk bs b then some b else none
    | _ => none

/-- What A, b and x hold at this instant noted for a run, from its fork on (R297). -/
def State.sampleRun (s : State) (id : Nat) : State :=
  match (s.op? id).bind fun o => (s.opSite o).bind fun x => (s.runBind o x).map fun b => (o, x, b) with
  | none => s
  | some (o, x, b) =>
    if !o.isRun || !s.opLive o then s
    else
      match s.readRows x b.aPtr b.aStride b.n b.n 0 with
      | (s1, .ok a) =>
        match s1.readRows x b.bPtr 0 b.n 1 0 with
        | (s2, .ok c) =>
          match s2.readRows x b.xPtr 0 b.n 1 0 with
          | (s3, .ok g) => s3.modOp id fun y => { y with held := y.held ++ [[b.key] ++ a ++ c ++ g] }
          | _ => s
        | _ => s
      | _ => s

/-- Places given one of the values the run wrote there or elsewhere, `w` bytes at each (R285, R296: which one is open); a place
it has written before may keep what it holds. -/
def State.scribble (s : State) (w : Nat) (keep : Bool) (vals : List (List Byte)) : List Nat → State
  | [] => s
  | k :: ks =>
    let vs := if keep then vals ++ [s.readMem k w] else vals
    match vs[(Config.freeDWord s.fresh).toNat % vs.length]? with
    | some bs => (s.writeMem k bs).fresh1.scribble w keep vals ks
    | none => s.scribble w keep vals ks

/-- The workspace's units of 8 bytes: their pointers and places. -/
def State.wsUnits (s : State) (v : LiveRun) : List (DWord × Nat) :=
  (List.range (v.b.need / 8)).filterMap fun i =>
    let p := ptrAdd v.b.ws (8 * i : Nat)
    match (s.place v.x (0, 0) p).2 with
    | .ok (.buf k) => some (p, k)
    | _ => none

/-- A workspace unit that an uncorrectable error has poisoned (R80). -/
def State.wsPoison (s : State) (v : LiveRun) : Option DWord :=
  ((s.wsUnits v).find? fun u => s.poisoned u.2 8).map (·.1)

/-- A record's values as units of the workspace (R285): each FP64 vector, and each row of the factor in passes of 48 bytes with
their scale slots. -/
def RflRun.units (r : RflRun) (c : Nat) : List (List Byte) :=
  let passes (row : List Nat) : List Byte := toBytes (48 * ceilDiv (row.length * fmtBits c) 384) (packRow (fmtBits c) row)
  let slots (sc : List Nat) : List Byte := toBytes (16 * ceilDiv sc.length 16) (packRow 8 sc)
  let bytes := f64Bytes r.x ++ f64Bytes r.r ++ f64Bytes r.d ++ r.lu.flatMap passes ++ r.scales.flatMap slots
  chunks 8 (bytes.length / 8) bytes

/-- The cells of the run's banks. -/
def State.runCells (s : State) (v : LiveRun) : List Nat :=
  (banksOf v.banks).flatMap fun k => (List.range 64).flatMap fun i => (List.range 128).map fun j => s.cellKey v.x k i j

/-- NaN cells of passes counted, each in one of the run's banks (R296). -/
def State.countNans (s : State) (v : LiveRun) : Nat → State
  | 0 => s
  | k + 1 =>
    let bs := banksOf v.banks
    (s.bumpBank v.x (bs.getD ((Config.freeDWord s.fresh).toNat % bs.length) 0) 0 0 1).fresh1.countNans v k

/-- What passes leave beside their values: cells, counters, MOF and MNV (R104, R296, R298). -/
def State.notePasses (s : State) (v : LiveRun) (outs : List CellOut) : State :=
  if outs.isEmpty then s
  else
    let fl := outs.foldl (fun f o => f ||| flagIf o.mof flMOF ||| flagIf o.gen flMNV) 0
    ((s.scribble 5 (v.o.prog != 0) (outs.map fun o => toBytes 5 o.code) (s.runCells v)).countNans v
      (outs.filter (·.nan)).length).modOp v.o.id fun y => { y with prog := 1, flags := y.flags ||| fl }

/-- The end of a step: the run's record, its flags, and the boundary RFL.STATE may read. -/
def State.stepDone (s : State) (v : LiveRun) (r : RflRun) (fl : Word) : State :=
  let s1 := s.scribble 8 (!v.r.seen.isEmpty) (r.units (v.b.rungs.getD v.r.rung ⟨0, 0, 0⟩).fmt) ((s.wsUnits v).map (·.2))
  let s2 := s1.modOp v.o.id fun y => { y with flags := y.flags ||| (fl &&& (flNV ||| flOF ||| flMSAT)) }
  (s2.modPair v.o.block v.o.rank v.o.quad fun p => { p with run := some { r with seen := r.seen ++ [r.words] } }).tick

/-- The live run of an operation, its controller held (R299). -/
def State.liveRun (s : State) (id : Nat) : Option (State × LiveRun) :=
  (s.op? id).bind fun o =>
    match o.kind with
    | .rflRun banks =>
      if !s.opLive o || !o.started then none
      else
        (s.opSite o).bind fun x => x.pair.bind fun p => p.bind.bind fun b => p.run.bind fun r =>
          if r.op != id then none
          else (s.takeRfl x.core o.block o.rank o.quad).map fun s1 => (s1, ⟨o, x, b, r, banks⟩)
    | _ => none

/-- One step of a run that stands at a state and has not been stopped. -/
def runStep (id step : Nat) (k : State → LiveRun → State) (s : State) : Host.Outcome State Fault Refusal :=
  .next <|
    match s.liveRun id with
    | some (s1, v) => if v.r.step == step && !v.o.stop then k s1 v else s
    | none => s

/-- A step that reads the workspace: a unit of it that is poisoned ends the run (R80, R300; which unit holds what is open, log
31). -/
def wsStep (id step : Nat) (k : State → LiveRun → State) (s : State) : Host.Outcome State Fault Refusal :=
  runStep id step (fun s v =>
    match s.wsPoison v with
    | some p => s.runFault v.x v.o v.r (.bad .engineFault p)
    | none => k s v) s

/-- The rung a run stands in. -/
def LiveRun.rung (v : LiveRun) : Rung := v.b.rungs.getD v.r.rung ⟨0, 0, 0⟩

/-- RFL_SETUP_BIND (R291): the oldest waiting SETUP, once its controller is free. -/
def execRflSetupBind (id : Nat) (s : State) : Host.Outcome State Fault Refusal :=
  .next <|
    match (s.op? id).bind fun o => (s.opSite o).map fun x => (o, x) with
    | none => s
    | some (o, x) =>
      match o.kind with
      | .rflSetup ptr mask =>
        if !s.opLive o || !s.queueHead o then s
        else
          match s.takeRfl x.core o.block o.rank o.quad with
          | none => s
          | some s1 =>
            match s1.engReadAt x .rfl ptr 192 with
            | (s2, .wait g i p) => s2.haltOp id (.wait g i p)
            | (s2, .bad c p) => s2.setupFail x o c p
            | (s2, .ok bs) =>
              let b := parseBlock bs ptr mask id
              if !blockOk bs b || !s2.workspaceOk x b (ofBytes ((bs.drop 0x30).take 4)) then
                s2.fresh1.setupFail x o .illegalOperand (Config.freeDWord s2.fresh)
              else
                match s2.operandFault x b with
                | some (c, p) => s2.setupFail x o c p
                | none => (s2.modPair o.block o.rank o.quad fun p => { p with bind := some b }).finishOp o
      | _ => s

/-- Whether a run may begin (R292, R296): it leads its queue, its banks are free of earlier operations, and the bound
quadrants have no earlier matrix operation of the block. -/
def State.runReady (s : State) (x : Site) (o : EngOp) : Bool :=
  o.isRun && !o.started && s.opLive o && s.queueHead o && s.interlock o &&
    s.ops.all fun y => !(y.block == o.block && y.rank == o.rank && y.queue == .matrix && decide (y.id < o.id) &&
      bitOf (x.blk.runMask o) y.quad)

/-- Both planes of the bound quadrants emptied (R296). -/
def State.emptyPlanes (s : State) (block rank mask : Nat) : State :=
  match s.block? block with
  | none => s
  | some b =>
    (b.pairs.filter fun p => p.rank == rank && bitOf mask p.quad).foldl (fun (s : State) p =>
      s.modQuadHw (s.quadOfPair b rank p.quad) fun h => { h with active := none, shadow := none }) s

/-- A run's record at its start. -/
def RflRun.start (op n : Nat) : RflRun :=
  { op := op, step := 1, rung := 0, j := 0, k := 0, total := 0, perRung := [0, 0, 0, 0], etas := [], eta0 := 0, eta := 0,
    normA := 0, a := [], b := [], x := List.replicate n 0, r := [], d := [], lu := [], scales := [], perm := [], alpha := 0,
    made := false, sat := 0, exitCode := 0, seen := [] }

/-- The first guess. -/
def State.readGuess (s : State) (v : LiveRun) : State × Except Moved (List Nat) :=
  if v.b.init then
    match s.readRows v.x v.b.xPtr 0 v.b.n 1 0 with
    | (s1, .ok (x :: _)) =>
      let held := v.held.map fun h => [h.getD (v.b.n + 1) x]
      ({ s1 with fresh := s1.fresh + v.b.n }, .ok ((heldRows s1.fresh 0 held [x]).getD 0 []))
    | (s1, .ok []) => (s1, .ok [])
    | (s1, .error m) => (s1, .error m)
  else (s, .ok (List.replicate v.b.n 0))

/-- INIT of a run that has begun. -/
def State.initRun (s : State) (v : LiveRun) : State :=
  match s.readAb v with
  | (s1, .error m) => s1.runFault v.x v.o v.r m
  | (s1, .ok (a, b)) =>
    match s1.readGuess v with
    | (s2, .error m) => s2.runFault v.x v.o v.r m
    | (s2, .ok x) =>
      let nA := rowNorm a
      let rs := residual a b x
      let r := rs.map (·.val)
      let e := etaOf nA.val x b r
      s2.stepDone v { v.r with step := 7, eta0 := e.val, eta := e.val, etas := [e.val], normA := nA.val, a := a, b := b,
                                x := x, r := r }
        (rs.foldl (fun f y => f ||| y.flags) (nA.flags ||| e.flags))

/-- RFL_INIT (R286, R287, R296): the run takes its place in the bound quadrants and begins. -/
def execRflInit (id : Nat) (s : State) : Host.Outcome State Fault Refusal :=
  .next <|
    match (s.op? id).bind fun o => (s.opSite o).bind fun x => x.pair.bind fun p => p.bind.map fun b => (o, x, b) with
    | none => s
    | some (o, x, b) =>
      if !s.runReady x o then s
      else
        match s.takeRfl x.core o.block o.rank o.quad with
        | none => s
        | some s1 =>
          let r := RflRun.start id b.n
          let s2 := ((s1.emptyPlanes o.block o.rank b.mask).modPair o.block o.rank o.quad fun p => { p with run := some r }).modOp
            id fun y => { y with started := true }
          match s2.liveRun id with
          | some (s3, v) => s3.initRun v
          | none => s2

/-- RFL_CONVERT (R287): A into the rung's format. -/
def execRflConvert (id : Nat) (s : State) : Host.Outcome State Fault Refusal :=
  runStep id 2 (fun s v =>
    match s.readAb v with
    | (s1, .error m) => s1.runFault v.x v.o v.r m
    | (s1, .ok (a, _)) =>
      let c := v.rung.fmt
      let alpha := alphaOf c a (sext 12 (Config.freeDWord s1.fresh).toNat)
      let rows := a.map (convRow c alpha)
      let sats := rows.foldl (fun n r => n + r.2.2) 0
      s1.fresh1.stepDone v
        { v.r with step := 3, k := 0, lu := rows.map (·.1), scales := if blockLen c == 0 then [] else rows.map (·.2.1),
                   perm := List.range v.b.n, alpha := alpha, sat := v.r.sat + sats } (flagIf (sats != 0) flMSAT)) s

/-- An iteration counted (R286). -/
def RflRun.iterated (r : RflRun) : RflRun :=
  { r with j := r.j + 1, total := r.total + 1, perRung := modAt r.perRung r.rung (· + 1) }

/-- RFL_FACTOR (R287): one column; a factorisation that ends gives the iteration η = +∞ without a solve. -/
def execRflFactor (id : Nat) (s : State) : Host.Outcome State Fault Refusal :=
  wsStep id 3 (fun s v =>
    let o := factorColumn v.rung.fmt v.r.k v.r.lu v.r.scales v.r.perm
    let r1 := { v.r with lu := o.lu, scales := o.scales, perm := o.perm, k := v.r.k + 1 }
    let r2 :=
      if o.ended then
        let inf := fmtF64.infCode false
        { r1.iterated with step := 7, eta := inf, etas := r1.etas ++ [inf] }
      else if v.b.n ≤ r1.k then { r1 with step := 4, made := true }
      else r1
    (s.notePasses v o.outs).stepDone v r2 0) s

/-- RFL_SOLVE (R287). Where the residual is not finite, σ and d are open. -/
def execRflSolve (id : Nat) (s : State) : Host.Outcome State Fault Refusal :=
  wsStep id 4 (fun s v =>
    if (fmtF64.value (maxNorm v.r.r)).isFin then
      let (d, outs) := solveFor v.rung.fmt v.r.lu v.r.scales v.r.perm v.r.r v.r.alpha
      (s.notePasses v outs).stepDone v { v.r with step := 5, d := d } 0
    else
      let d := (List.range v.b.n).map fun i => (Config.freeDWord (s.fresh + i)).toNat
      ({ s with fresh := s.fresh + v.b.n + 1 }.scribble 5 (v.o.prog != 0)
        [toBytes 5 (Config.freeDWord (s.fresh + v.b.n)).toNat] (s.runCells v)).stepDone v { v.r with step := 5, d := d } 0) s

/-- RFL_UPDATE (R287). -/
def execRflUpdate (id : Nat) (s : State) : Host.Outcome State Fault Refusal :=
  wsStep id 5 (fun s v =>
    let xs := (List.range v.b.n).map fun i => fmtF64.add rflCtl (v.r.x.getD i 0) (v.r.d.getD i 0)
    s.stepDone v { v.r.iterated with step := 6, x := xs.map (·.val) } (xs.foldl (fun f y => f ||| y.flags) 0)) s

/-- RFL_RESIDUAL (R287). -/
def execRflResidual (id : Nat) (s : State) : Host.Outcome State Fault Refusal :=
  wsStep id 6 (fun s v =>
    match s.readAb v with
    | (s1, .error m) => s1.runFault v.x v.o v.r m
    | (s1, .ok (a, b)) =>
      let rs := residual a b v.r.x
      let r := rs.map (·.val)
      let e := etaOf v.r.normA v.r.x b r
      s1.stepDone v { v.r with step := 7, r := r, eta := e.val, etas := v.r.etas ++ [e.val] }
        (rs.foldl (fun f y => f ||| y.flags) e.flags)) s

/-- What a TEST leaves of a run (R288, R289). -/
def LiveRun.tested (v : LiveRun) (exit : Nat) : RflRun :=
  if exit == 0 then { v.r with step := if v.r.made then 4 else 2 }
  else if v.rung.action exit == 1 then
    { v.r with step := 2, rung := v.r.rung + 1, j := 0, etas := [v.r.eta], made := false }
  else { v.r with step := 8, exitCode := exit }

/-- RFL_TEST (R288, R289). -/
def execRflTest (id : Nat) (s : State) : Host.Outcome State Fault Refusal :=
  runStep id 7 (fun s v =>
    let (e, fl) := exitTest v.r.etas v.r.j v.b.win v.rung.limit v.b.tau.toNat v.b.gamma.toNat v.b.rho.toNat
    s.stepDone v (v.tested e) fl) s

/-- The status words, bytes 0xC0 to 0xFF (R283). -/
def RflRun.status (r : RflRun) (exit : Nat) : List Byte :=
  toBytes 4 (exit + r.rung * 2 ^ 8 + 8 * 2 ^ 16) ++ toBytes 4 r.total ++ toBytes 8 r.eta ++
    r.perRung.flatMap (toBytes 4) ++ toBytes 8 r.eta0 ++ toBytes 4 r.sat ++ List.replicate 20 0

/-- The run's record words (R292). -/
def RflRun.record (r : RflRun) (exit : Nat) : List Word :=
  [BitVec.ofNat 32 exit, BitVec.ofNat 32 r.rung, BitVec.ofNat 32 r.total, loWord (BitVec.ofNat 64 r.eta),
    hiWord (BitVec.ofNat 64 r.eta)]

/-- The exit that a run at DONE reports: 0 where ABORT stopped it. -/
def LiveRun.exit (v : LiveRun) : Nat := if v.o.stop then 0 else v.r.exitCode

/-- Bytes by the 32-byte sectors of their destination, ascending (R131). -/
def sectorWrites (p : DWord) (bs : List Byte) : List (Nat × List (DWord × List Byte)) :=
  let o := p.toNat % 32
  (List.range (ceilDiv (o + bs.length) 32)).map fun i =>
    let lo := 32 * i - o
    let part := (bs.drop lo).take (32 * (i + 1) - o - lo)
    (part.length, [(ptrAdd p (lo : Nat), part)])

/-- DONE begun (R289, R297): where x and the status words can be written, what is to be written stands ready, x first. -/
def State.doneBegin (s : State) (v : LiveRun) : State :=
  let st := ptrAdd v.b.ptr 0xC0
  let words := v.r.status v.exit
  match s.engWriteAt v.x .rfl st words with
  | (s1, .wait g i p) => s1.runFault v.x v.o v.r (.wait g i p)
  | (_, .bad c p) => s.runFault v.x v.o v.r (.bad c p)
  | (_, .ok _) =>
    match s.engWriteAt v.x .rfl v.b.xPtr (f64Bytes v.r.x) with
    | (_, .ok _) =>
      (s.modOp v.o.id fun y =>
        { y with copied := true, got := sectorWrites v.b.xPtr (f64Bytes v.r.x) ++ sectorWrites st words }).tick
    | (_, m) => s.runFault v.x v.o v.r m

/-- One sector of a DONE that has begun. -/
def State.doneSector (s : State) (v : LiveRun) : State :=
  match v.o.got with
  | (_, (p, bs) :: _) :: rest =>
    match s.engWriteAt v.x .rfl p bs with
    | (s1, .ok _) => (s1.modOp v.o.id fun y => { y with got := rest }).tick
    | (s1, m) => s1.runFault v.x v.o v.r m
  | _ => s

/-- A run that has written x and the status words completed. -/
def State.doneEnd (s : State) (v : LiveRun) : State :=
  let exit := v.exit
  let trap := !v.o.stop && v.rung.action exit == 2
  let o := { v.o with
    words := v.r.record exit,
    fault := if trap then some (Cause.code .rflExit, BitVec.ofNat 64 (exit + v.r.rung * 2 ^ 8)) else none,
    foot := s.footOf v.x v.b.xPtr (8 * v.b.n) ++ s.footOf v.x (ptrAdd v.b.ptr 0xC0) 64 }
  (s.modPair v.o.block v.o.rank v.o.quad fun p => { p with run := some { v.r with exitCode := exit }.ended }).endRun v.x o v.r.total

/-- The DONE of a run that is due: begun, or one sector further. -/
def State.doneStep (s : State) (id : Nat) : State :=
  match s.liveRun id with
  | none => s
  | some (s1, v) =>
    if v.o.copied then s1.doneSector v
    else if !v.o.stop && v.r.step != 8 then s
    else
      match s1.wsPoison v with
      | some p => s1.runFault v.x v.o v.r (.bad .engineFault p)
      | none => s1.doneBegin v

/-- A DONE carried on until it has written everything, or stops. -/
def State.doneRun (s : State) (id : Nat) : Nat → State
  | 0 => s
  | k + 1 =>
    let s1 := s.doneStep id
    match s1.op? id with
    | none => s1
    | some o => if !o.copied || o.got.isEmpty then s1 else s1.doneRun id k

/-- A DONE that is due made whole: more instants than 8 KiB of x and the status words take. -/
def State.finishDone (s : State) (id : Nat) : State :=
  let s1 := s.doneRun id 512
  match s1.liveRun id with
  | some (s2, v) => if v.o.copied && v.o.got.isEmpty then s2.doneEnd v else s1
  | none => s1

/-- RFL_DONE (R289, R295, R297): a run at DONE, or one that ABORT stops at this boundary. -/
def execRflDone (id : Nat) (s : State) : Host.Outcome State Fault Refusal := .next (s.finishDone id)

-- Instructions.

/-- The check of RFL.SETUP at issue (R291). -/
def State.setupFault (s : State) (x : Site) (b : Block32) (here : DWord) : Option (Cause × DWord) :=
  let p := blkPtr b 0
  let m := blkWord b 2
  let live := (s.pairOps x.blk.id x.rank x.quad).any EngOp.isRun
  if !(ptrSpace p == 0 || (ptrSpace p == 1 && ptrRank p == x.rank)) || m == 0 || decide (16 ≤ m) || live ||
      (List.range 4).any (fun q => bitOf m q && (x.blk.pair? x.rank q).isNone) then some (.illegalOperand, here)
  else if p.toNat % 64 != 0 then some (.alignment, p)
  else
    firstFault [s.checkSpan x .rfl .read p 256, s.checkSpan x .rfl .write p 256,
      if ptrSpace p == 0 && !(x.grid.leased .r (ptrOff p) 256 && x.grid.leased .w (ptrOff p) 256) then some (.leaseViolation, p)
      else none]

/-- RFL.SETUP (R290, R291). -/
def execRflSetup (x : UE1) (s : State) : Host.Outcome State Fault Refusal :=
  execBlockCmd x.e.toNat 3 State.setupFault .rfl x.t.toNat (fun b => .rflSetup (blkPtr b 0) (blkWord b 2)) s

/-- The check of RFL.RUN at issue (R292). -/
def State.runCmdFault (s : State) (x : Site) (b : Block32) (here : DWord) : Option (Cause × DWord) :=
  let m := blkWord b 0
  let bound := (x.pair.map fun p => p.bindView).getD false
  let mask := (x.pair.map fun p => p.bindMask).getD 0
  if !bound || (s.pairOps x.blk.id x.rank x.quad).any EngOp.isRun || decide (2 ^ 16 ≤ m) ||
      decide ((banksOf m).length < ((List.range 4).filter (bitOf mask)).length) || decide (2 ^ (4 * s.ownQ x x.core) ≤ m) then
    some (.illegalOperand, here)
  else s.bankFault x m

/-- RFL.RUN (R292). -/
def execRflRun (x : UE1) (s : State) : Host.Outcome State Fault Refusal :=
  execBlockCmd x.e.toNat 1 State.runCmdFault .rfl x.t.toNat (fun b => .rflRun (blkWord b 0)) s

/-- The values WAIT writes (R293): zero for a run that never began (log 30). -/
def Pair.runResult (p : Pair) (id : Nat) : List Word :=
  match p.run with
  | some r =>
    if r.op == id then
      [BitVec.ofNat 32 r.exitCode, BitVec.ofNat 32 r.rung, loWord (BitVec.ofNat 64 r.eta), hiWord (BitVec.ofNat 64 r.eta)]
    else [0, 0, 0, 0]
  | none => [0, 0, 0, 0]

/-- RFL.WAIT (R293). -/
def execRflWait (x : UEe) (s : State) : Host.Outcome State Fault Refusal :=
  uniform s 0 (fun w => sOk w x.e.toNat 4 2 && (w.site.pair.bind (·.lastRun)).isSome) [] fun w =>
    match w.site.pair.bind fun p => p.lastRun.map fun l => (p, l) with
    | none => s
    | some (p, l) =>
      if (s.op? l).isSome then s.setWait w .rflWait
      else (s.uniWrite w x.e.toNat (p.runResult l)).join w fun d => d.id == l

/-- RFL.STATE (R294): zero before the run has begun; else the values at one of the step boundaries since its last read. -/
def execRflState (x : UEe) (s : State) : Host.Outcome State Fault Refusal :=
  uniform s 0 (fun w => sOk w x.e.toNat 4 2) [] fun w =>
    match w.site.pair.bind fun p => p.run.bind fun r => if p.lastRun == some r.op then some r else none with
    | none => s.uniWrite w x.e.toNat [0, 0, 0, 0]
    | some r =>
      let i := if r.seen.length ≤ 1 then 0 else (Config.freeDWord s.fresh).toNat % r.seen.length
      let s1 := s.fresh1.modPair w.blk.id w.rank w.quad fun p =>
        { p with run := p.run.map fun r => { r with seen := r.seen.drop (r.seen.length - 1) } }
      s1.uniWrite w x.e.toNat (r.seen.getD i [0, 0, 0, 0])

/-- RFL.ABORT (R295): a run whose DONE has begun is past its last boundary. -/
def execRflAbort (s : State) : Host.Outcome State Fault Refusal :=
  uniform s 0 (fun _ => true) [] fun w =>
    let mine (o : EngOp) : Bool := o.block == w.blk.id && o.rank == w.rank && o.quad == w.quad && o.isRun && !o.copied
    let ops := modIf s.ops mine fun o => { o with stop := true }
    { s with ops := ops }.setPc w (w.pc + 4)

end Sys2Proof.Machine
end

