-- ==== Sys2Proof/Machine/Reset.lean ====
section
/-!
DEFINITION. The reset ladder (14_traps_preemption_debug.md R362 to R365; 15_host_and_platform.md R372 to R374, R381;
11_refinement_loop.md R300): what each rung does at once, RSTCTL, escalation and completion.
-/
namespace Sys2Proof.Machine

-- Blocks gone at once.

/-- The block a poisoned register belongs to. -/
def PoisonReg.block : PoisonReg → Nat
  | .v t _ => t.block
  | .p t _ => t.block
  | .s g _ => g.block
  | .c g _ => g.block
  | .cs b _ _ _ => b
  | .cc b _ _ _ => b

/-- The controllers that a block's pairs hold, given up. -/
def State.dropRfl (s : State) (block : Nat) : State :=
  let free (h : CoreHw) : CoreHw := if (h.rfl.map (·.1)) == some block then { h with rfl := none } else h
  { s with cores := s.cores.map fun (c : Nat × CoreHw) => (c.1, free c.2) }

/-- What a block holds beside its record, dropped: stores that wait, operations, versions, poisoned registers, controllers,
PRIV pins. -/
def State.dropHoldings (s : State) (b : Block) : State :=
  let s1 := { s with
    ops := s.ops.filter (·.block != b.id),
    versions := s.versions.filter (·.tag.block != b.id),
    regPoison := s.regPoison.filter (·.block != b.id) }
  (((s1.dropWaiting b.id).dropDoms b.id).dropRfl b.id).unpinAll b.privPins

/-- A block stopped at once, without a save or a record (R363): its pending bytes and regions go with it. -/
def State.removeBlock (s : State) (b : Block) : State :=
  let s1 := s.dropHoldings b
  { s1 with blocks := s1.blocks.filter (·.id != b.id) }

/-- Grids gone: their leases released, nothing at the dispatchers names them any more. -/
def State.removeGrids (s : State) (gs : List Grid) : State :=
  let ids := gs.map (·.id)
  let s1 := gs.foldl State.releasePins s
  { s1 with
    grids := s1.grids.filter fun g => !ids.contains g.id,
    disps := s1.disps.map fun d =>
      let keep (i : Nat) : Bool := !ids.contains i
      let order := d.2.order.filter keep
      let events := d.2.events.filter fun e => (e.point != 0 && e.point != 3 && e.point != 4) || keep e.grid
      let head := d.2.head.filter keep
      (d.1, { d.2 with order := order, events := events, head := head, headPlaced := d.2.headPlaced && head.isSome }) }

-- Rung 0.

/-- The pages a queue's packets pin. -/
def Queue.packetPins (q : Queue) : List Pin :=
  q.run.flatMap (·.pins) ++ q.graphs.flatMap fun g => g.running.flatMap (·.pins)

/-- A queue at rung 0: every index at the furthest of them (log 32), nothing in flight, IDLE without an error; it is mapped
where a thread is free for it. -/
def Queue.cleared (q : Queue) (thread : Bool) (now : Nat) : Queue :=
  let i := max q.widx q.resv
  { q with
    widx := i, ridx := i, didx := i, resv := i, ready := [], run := [], skip := 0, graphs := [], avail := [], err := 0,
    errIndex := 0, errNode := none, mapped := thread, state := .idle, since := now }

/-- The queues that hold a thread of a die. -/
def State.mappedOn (s : State) (die : Nat) : List Queue :=
  s.queues.filter fun q => q.mapped && q.state != .error && q.die == die

/-- Rung 0 (R363). -/
def State.resetQ (s : State) (id : Nat) : State :=
  match s.queue? id with
  | none => s
  | some q =>
    let gs := s.grids.filter (·.queue == id)
    let s1 := (s.blocks.filter fun b => gs.any (·.id == b.grid)).foldl State.removeBlock s
    let s2 := (s1.removeGrids gs).unpinAll q.packetPins
    let thread := (q.mapped && q.state != .error) || decide ((s2.mappedOn q.die).length < 64)
    let gone := s.blocks.any fun b => gs.any (·.id == b.grid)
    let s3 := (s2.modQueue id fun x => x.cleared thread s.clk17).statusLine id
    (if gone then s3.wantRounds else s3).tick

-- Rung 1.

/-- The CB banks of a resident block set to zero. -/
def State.zeroBlockBanks (s : State) (b : Block) : State :=
  match s.grid? b.grid with
  | none => s
  | some g =>
    if b.pre == .swapped then s
    else
      b.cb.foldl (fun (s : State) e =>
        let x : Site := ⟨b, g, e.1, 0, b.coreOf e.1⟩
        let z := s.zeroBank x e.2
        { z with cbCount := tabSet z.cbCount (z.bankKey x e.2) (0, 0, 0) }) s

/-- Rung 1 (R140, R363). -/
def State.resetCtx (s : State) (ctx : Nat) : State :=
  let mine := s.blocks.filter fun b => ((s.grid? b.grid).map (·.ctx)) == some ctx
  let s1 := mine.foldl State.zeroBlockBanks s
  let s2 := (s1.queues.filter (·.ctx == ctx)).foldl (fun (s : State) q => s.resetQ q.id) s1
  let s3 := { s2 with versions := s2.versions.filter (·.ctx != ctx) }
  (s3.dropXlat (· == ctx) 0 (2 ^ 56)).tick

-- Rung 2 (R365).

/-- The quadrant through the device on which an operation runs, none where its block stands on no core. -/
def State.opQuad (s : State) (o : EngOp) : Option Nat :=
  (s.opSite o).bind fun x =>
    if x.blk.pre == .swapped then none
    else some (quadNo x.core (s.physQuad x.core (s.ctxFn x.ctx) o.quad))

/-- Whether an operation stands in an engine: 0 matrix, 1 copy, 2 accumulator, 3 region, 4 loop generator, 5 refinement. -/
def EngOp.inEngine (o : EngOp) (engine : Nat) : Bool :=
  match engine with
  | 0 => o.queue == .matrix
  | 1 => o.holds .copy
  | 2 => o.queue == .acc
  | 3 => o.queue == .region
  | 4 => o.queue == .loop
  | 5 => o.queue == .rfl
  | _ => false

/-- Whether a reset of an engine of a quadrant ends an operation: the refinement controller is its core's; a matrix engine's
reset also ends the runs bound to its quadrant (R300). -/
def State.engineHit (s : State) (engine quad : Nat) (o : EngOp) : Bool :=
  match s.opQuad o, s.opSite o with
  | some q, some x =>
    if engine == 5 then o.inEngine 5 && q / 4 == quad / 4
    else
      (o.inEngine engine && q == quad) ||
        (engine == 0 && o.isRun &&
          (List.range 4).any fun k => x.blk.runBinds o k && quadNo x.core (s.physQuad x.core (s.ctxFn x.ctx) k) == quad)
  | _, _ => false

/-- The words of a record of an operation that is cut, for the work it has done (R256, R292). -/
def State.cutWords (s : State) (o : EngOp) : List Word :=
  match o.kind with
  | .copy c => [BitVec.ofNat 32 o.prog, if c.fn == cpGather || c.fn == cpScatter then BitVec.ofNat 32 (o.prog / max 1 c.len) else 0]
  | .cpmx _ _ => if o.copied then [BitVec.ofNat 32 o.prog, nanWord o.nan, mxFnWord o.kind] else [0, 0, mxFnWord o.kind]
  | .walk _ _ => walkWords o (s.walkLog o)
  | .rflRun _ =>
    match ((s.opSite o).bind fun x => x.pair).bind (·.run) with
    | some r => if r.op == o.id then [0, BitVec.ofNat 32 r.rung, BitVec.ofNat 32 r.total] else []
    | none => []
  | .out _ => [0, BitVec.ofNat 32 o.prog2]
  | .alloc m => [if o.started then BitVec.ofNat 32 m else 0]
  | .tryAlloc m => [if o.prog == 1 then BitVec.ofNat 32 m else 0]
  | .free m => [if o.prog == 1 then BitVec.ofNat 32 m else 0]
  | _ => if o.queue == .matrix then [BitVec.ofNat 32 o.prog, nanWord o.nan, mxFnWord o.kind] else o.words

/-- Whether an operation was writing its CB banks when its engine was reset. -/
def EngOp.streams (o : EngOp) : Bool :=
  o.started && (match o.kind with
    | .stream _ => true
    | .cpmx _ _ => o.copied
    | .grouped _ => true
    | .tile _ => true
    | _ => false)

/-- The refinement runs whose DONE has begun brought to their end: one that an engine reset ends would write nothing (R297). -/
def State.closeRuns (s : State) (engine quad : Nat) : State :=
  (s.ops.filter fun o => s.engineHit engine quad o && o.isRun && o.copied).foldl (fun (s : State) o => s.finishDone o.id) s

/-- One operation ended with status 4: the banks a stream was writing become zero and stay allocated; a refinement run's
binding ends without x and its status words; one cut before INIT leaves the other bound quadrants' planes as they are (DESIGN
CHOICE, log 100). -/
def State.cutOp (s : State) (o : EngOp) : State :=
  match s.opSite o with
  | none => s
  | some x =>
    let s1 := if o.streams then
        (banksOf o.banks).foldl (fun (s : State) k =>
          let z := s.zeroBank x k
          { z with cbCount := tabSet z.cbCount (z.bankKey x k) (0, 0, 0) }) s
      else s
    let s2 := s1.finish { o with words := s.cutWords o } 4 0 0 0 o.tried
    if o.isRun then
      ((s2.modPair o.block o.rank o.quad fun p => { p with bind := none, bindView := false, run := p.run.map fun r => if r.op == o.id then r.cut else r }).freeRfl
        x.core o.block o.rank o.quad).wakeRfl o.block o.rank o.quad
    else
      match o.kind with
      | .rflSetup _ _ =>
        (s2.modPair o.block o.rank o.quad fun p => { p with bindView := p.bind.isSome || s2.setupPending o }).freeRfl
          x.core o.block o.rank o.quad
      | .walk _ _ => s2.wakeLoop o
      | _ => s2

/-- A granule of a region engine that was reset (R37): FILLING to INVALID, WRITING to DIRTY with the captured masks merged
back. -/
def Granule.cut (g : Granule) : Granule :=
  match g.st with
  | .filling => { g with st := .invalid }
  | .writing =>
    { g with st := .dirty, mask := g.mask ||| g.capMask, dirtier := g.dirtier ||| g.capDirtier, capMask := 0, capDirtier := 0,
             capBytes := [], capLeft := 0 }
  | _ => g

/-- The granules of the regions that members on a core mapped, cut; accesses that waited for a fill are made again. -/
def State.cutGranules (s : State) (core : Nat) : State :=
  s.blocks.foldl (fun (s : State) b =>
    if b.pre == .swapped then s
    else
      (b.granules.filter fun rg => ((b.regions[rg.1]?).map fun r => b.coreOf r.rank == core).getD false).foldl
        (fun (s : State) rg =>
          let s1 := if ((b.granule? rg.1 rg.2).map fun g => g.st == .filling).getD false then s.filled b.id rg.1 rg.2 else s
          s1.modGranule b.id rg.1 rg.2 Granule.cut) s) s

/-- Both planes of a quadrant emptied. -/
def State.dropPlanes (s : State) (quad : Nat) : State := s.modQuadHw quad fun h => { h with active := none, shadow := none }

/-- The blocks that an engine reset covers (R84, log 87): those with a group on the quadrant, or for the refinement controller on
its core, and those with an operation that it ends. -/
def State.resetCovers (s : State) (engine quad : Nat) : List Nat :=
  (s.blocks.filter fun b =>
    (b.pre != .swapped && b.pairs.any fun p =>
      b.coreOf p.rank == quad / 4 &&
        (engine == 5 || quadNo (b.coreOf p.rank) (s.physQuad (b.coreOf p.rank) (s.blockFn b) p.quad) == quad)) ||
      s.ops.any fun o => o.block == b.id && s.engineHit engine quad o).map (·.id)

/-- The versions of some blocks' tasks discarded. -/
def State.discardIn (s : State) (bs : List Nat) : State :=
  { s with versions := s.versions.filter fun v => !bs.contains v.tag.block }

/-- Rung 2 (R84, R365): an engine of a quadrant. -/
def State.resetEng (s : State) (engine quad : Nat) : State :=
  let hits := (s.ops.filter (s.engineHit engine quad)).map (·.id)
  let s := s.closeRuns engine quad
  let s1 := (s.ops.filter fun o => hits.contains o.id).foldl State.cutOp (s.discardIn (s.resetCovers engine quad))
  let s2 := if engine == 0 then s1.dropPlanes quad else if engine == 3 then s1.cutGranules (quad / 4) else s1
  s2.tick

-- Rung 3.

/-- Whether a place lies in the AB, WB or CB banks of a core's quadrant (R14). -/
def inQuadBanks (core q key : Nat) : Bool :=
  (decide (abPlace core 0 0 0 ≤ key) && decide (key < abPlace (core + 1) 0 0 0) &&
    (key - abPlace core 0 0 0) % 512 / 16 / 8 == q) ||
  (decide (wbPlace core (q * 2 ^ 18) ≤ key) && decide (key < wbPlace core ((q + 1) * 2 ^ 18))) ||
  (decide (cbPlace core (4 * q) 0 0 ≤ key) && decide (key < cbPlace core (4 * q + 4) 0 0))

/-- A quadrant's AB, WB and CB banks set to zero. -/
def State.zeroQuad (s : State) (quad : Nat) : State :=
  let hit (k : Nat) : Bool := inQuadBanks (quad / 4) (quad % 4) k
  { s with mem := s.mem.filter fun c => !hit c.1, poison := s.poison.filter fun p => !hit p.1 }

/-- The L1 lines of a function's contexts dropped from a core. -/
def State.dropL1Of (s : State) (core fn : Nat) : State :=
  s.modCoreHw core fun h => { h with l1 := h.l1.filter fun l => l.fn != fn }

/-- The contexts of a function. -/
def State.ctxsOf (s : State) (fn : Nat) : List Nat := (s.ctxs.filter fun c => c.2.fn == fn).map (·.1)

/-- The quadrants a function owns, through the device. -/
def State.quadsOf (s : State) (fn : Nat) : List Nat := (List.range 768).filter fun q => (s.quadHw q).own == fn

/-- Rung 3 (R363): a function's partition. -/
def State.resetPart (s : State) (fn : Nat) : State :=
  let s1 := (s.ctxsOf fn).foldl State.resetCtx s
  let qs := s1.quadsOf fn
  let s2 := qs.foldl (fun (s : State) q => (List.range 6).foldl (fun (s : State) e => s.resetEng e q) s) s1
  qs.foldl (fun (s : State) q => (s.zeroQuad q).dropL1Of (q / 4) fn) s2

/-- FNGEN one higher (R374). -/
def State.nextGen (s : State) (fn : Nat) : State := s.modFn fn fun r => { r with fngen := r.fngen + 1 }

-- Rung 4.

/-- The memory that stands outside the device: the host's and the peers'. -/
def outsideMem (m : List Host.Cell) : List Host.Cell := m.filter fun c => decide (2 ^ 52 ≤ c.1) && decide (c.1 < 2 ^ 54)

/-- Rung 4 (R363, R381): the module as at power-on; what stands outside it, and the model's own counters, go on. A request that
asked for it stays to be answered: GO reads 1. -/
def State.resetAll (s : State) : State :=
  { State.reset with
    mem := outsideMem s.mem, nextId := s.nextId, seq := s.seq, spdm := s.spdm, messages := s.messages, portsDown := s.portsDown,
    hostData := s.hostData, hostGone := s.hostGone, peerDeny := s.peerDeny, agenda := s.agenda, fresh := s.fresh,
    fns := s.fns.filterMap fun f =>
      if bitOf f.2.rstCtl.toNat 63 then
        some (f.1, { rstCtl := 0x8800000000000000, rstRung := 4 })
      else none }

-- RSTCTL (R362).

def rstRung (v : Nat) : Nat := bitsOf v 62 60
def rstCtx (v : Nat) : Nat := bitsOf v 43 32
def rstEngine (v : Nat) : Nat := bitsOf v 31 28
def rstQuad (v : Nat) : Nat := bitsOf v 19 10
def rstQueue (v : Nat) : Nat := v % 2 ^ 10

/-- Whether a request is rejected. -/
def State.rstRejects (s : State) (fn v : Nat) : Bool :=
  let owns := (s.ctxs.any fun c => c.1 == rstCtx v) && s.ctxFn (rstCtx v) == fn
  match rstRung v with
  | 0 => !owns || !(s.queues.any fun q => q.ctx == rstCtx v && q.num == rstQueue v)
  | 1 => !owns
  | 2 => decide (6 ≤ rstEngine v) || decide (768 ≤ rstQuad v) || (s.quadHw (rstQuad v)).own != fn
  | 3 => fn != 0
  | 4 => fn != 0
  | _ => true

/-- What a rung does for a request. -/
def State.doRung (s : State) (fn v rung : Nat) : State :=
  match rung with
  | 0 =>
    match s.queues.find? fun q => q.ctx == rstCtx v && q.num == rstQueue v with
    | some q => s.resetQ q.id
    | none => s
  | 1 => s.resetCtx (rstCtx v)
  | 2 => s.resetEng (rstEngine v) (rstQuad v)
  | 3 => (s.resetPart fn).nextGen fn
  | _ => s.resetAll

/-- RSTCTL's fields after a write: the RW fields of the value, ERR cleared where it is written 1; GO and REACHED stay. -/
def rstStored (old v : Nat) : Nat :=
  let err := if bitOf v 55 then 0 else bitsOf old 55 55
  bitsOf old 63 63 * 2 ^ 63 + bitsOf v 62 59 * 2 ^ 59 + bitsOf old 58 56 * 2 ^ 56 + err * 2 ^ 55 + bitsOf v 43 32 * 2 ^ 32 +
    bitsOf v 31 28 * 2 ^ 28 + v % 2 ^ 20

/-- A write of RSTCTL (R362, R381): ignored before READY; GO = 1 starts the reset or is rejected; while one is in progress it
starts nothing. -/
def State.writeRstCtl (s : State) (fn v : Nat) : State :=
  let r := s.fnRegs fn
  if !r.ready then s
  else
    let st := rstStored r.rstCtl.toNat v
    let put (x : Nat) (s : State) : State := s.modFn fn fun f => { f with rstCtl := BitVec.ofNat 64 x }
    if !bitOf v 63 || bitOf r.rstCtl.toNat 63 then put st s
    else if s.rstRejects fn v then put (st ||| 2 ^ 55) s
    else
      let s1 := (put (st ||| 2 ^ 63) s).modFn fn fun f =>
        { f with rstReq := BitVec.ofNat 64 v, rstStart := s.clk17, rstRung := rstRung v }
      s1.doRung fn v (rstRung v)

/-- A RSTCTL write that asks for one rung. -/
def State.askRung (s : State) (fn : Nat) (v : BitVec 64) (rung : Nat) : State :=
  if bitOf v.toNat 63 && rstRung v.toNat == rung then s.writeRstCtl fn v.toNat else s

def execResetQueue (fn : Nat) (v : BitVec 64) (s : State) : Host.Outcome State Fault Refusal := .next (s.askRung fn v 0)
def execResetContext (fn : Nat) (v : BitVec 64) (s : State) : Host.Outcome State Fault Refusal := .next (s.askRung fn v 1)
def execResetEngine (fn : Nat) (v : BitVec 64) (s : State) : Host.Outcome State Fault Refusal := .next (s.askRung fn v 2)
def execResetPartition (fn : Nat) (v : BitVec 64) (s : State) : Host.Outcome State Fault Refusal := .next (s.askRung fn v 3)
def execResetDevice (fn : Nat) (v : BitVec 64) (s : State) : Host.Outcome State Fault Refusal := .next (s.askRung fn v 4)

/-- RSTCTL at the end of a reset: GO 0 and REACHED the rung. -/
def FnRegs.reached (f : FnRegs) : FnRegs :=
  let v := f.rstCtl.toNat
  { f with rstCtl := BitVec.ofNat 64 (v - bitsOf v 63 63 * 2 ^ 63 - bitsOf v 58 56 * 2 ^ 56 + f.rstRung % 8 * 2 ^ 56) }

/-- Whether a rung's completion condition holds (R363): the effects of rungs 0 to 3 are whole when they begin. -/
def State.rungDone (s : State) (fn : Nat) : Bool := decide ((s.fnRegs fn).rstRung < 4) || (s.fnRegs fn).ready

/-- The vector that a reset raises (R377): which of the 64, if any, no rule says (log 57). -/
def State.resetIrq (s : State) (fn : Nat) : State := (s.raiseIrq fn ((Config.freeDWord s.fresh).toNat % 65)).fresh1

/-- RESET_COMPLETE (R362, R363, R377). -/
def execResetComplete (fn : Nat) (s : State) : Host.Outcome State Fault Refusal :=
  .next (if bitOf (s.fnRegs fn).rstCtl.toNat 63 && s.rungDone fn then (s.modFn fn FnRegs.reached).resetIrq fn else s)

/-- The next rung with the scope of the request widened (R364): from the engines that hold operations of a context, to the
partition of the function that owns their quadrants, which is the requester (R362). -/
def State.escalate (s : State) (fn : Nat) : State :=
  let r := s.fnRegs fn
  let v := r.rstReq.toNat
  let s1 := s.modFn fn fun f => { f with rstStart := s.clk17, rstRung := r.rstRung + 1 }
  match r.rstRung with
  | 0 => s1.resetCtx (rstCtx v)
  | 1 =>
    (s1.ops.filterMap fun o => (s1.opSite o).bind fun x => if x.ctx == rstCtx v then (s1.opQuad o).map fun q => (o, q) else none).foldl
      (fun (s : State) oq => (List.range 6).foldl (fun (s : State) e => if oq.1.inEngine e then s.resetEng e oq.2 else s) s) s1
  | 2 => s1.resetPart (if rstRung v == 2 then (s1.quadHw (rstQuad v)).own else fn)
  | _ => s1.resetAll

/-- RESET_RUNG_TIMEOUT (R362, R364). -/
def execResetRungTimeout (fn : Nat) (s : State) : Host.Outcome State Fault Refusal :=
  .next <|
    let r := s.fnRegs fn
    if !bitOf r.rstCtl.toNat 63 || decide (4 ≤ r.rstRung) ||
        decide (s.clk17 < r.rstStart + r.rstTmo.toNat * 1000 * 17) then s
    else if bitOf r.rstCtl.toNat 59 then s.escalate fn
    else s.modFn fn FnRegs.reached

/-- FUNCTION_LEVEL_RESET (R372, R374, R375): of a virtual function. -/
def execFunctionLevelReset (fn : Nat) (s : State) : Host.Outcome State Fault Refusal :=
  .next <|
    if fn == 0 || decide (16 < fn) then s
    else
      let s1 := (s.resetPart fn).nextGen fn
      { s1 with pageReqs := s1.pageReqs.filter fun q => q.fn != fn }

end Sys2Proof.Machine
end

