-- ==== Sys2Proof/Machine/Place.lean ====
section
/-!
DEFINITION. Placement and restore (12_dispatch_and_issue.md R317 to R320; 01_address_spaces.md R25, R28, R30;
06_execution_model.md R147, R149, R157; 14_traps_preemption_debug.md R355 to R357; R77, R140).
-/
namespace Sys2Proof.Machine

-- Resources.

/-- The group slots that resident blocks hold on a core's quadrant. -/
def State.usedSlots (s : State) (core physq : Nat) : List Nat :=
  s.blocks.flatMap fun b =>
    if !b.resident then []
    else
      b.groups.filterMap fun g =>
        let c := b.coreOf (b.rankOf g.num)
        if !g.retired && c == core && s.physQuad c (s.blockFn b) (b.quadOf g.num) == physq then some g.slot else none

/-- The free slots of a core's quadrant, ascending. -/
def State.freeSlots (s : State) (core physq : Nat) : List Nat :=
  let used := s.usedSlots core physq
  (List.range 48).filter fun i => !used.contains i

/-- The resident blocks that stand on a quadrant: those with a group there by R149. -/
def State.blocksOn (s : State) (core physq : Nat) : List Block :=
  s.blocks.filter fun b => b.resident && b.pairs.any fun p => b.coreOf p.rank == core &&
    s.physQuad core (s.blockFn b) p.quad == physq

/-- Whether a control thread holds a quadrant's slot. -/
def State.ctlTaken (s : State) (core physq : Nat) : Bool :=
  s.blocks.any fun b => b.resident && b.ctls.any fun c => b.coreOf c.rank == core &&
    s.physQuad core (s.blockFn b) c.quad == physq

/-- The CB hints of the blocks on a quadrant. -/
def State.hintsOn (s : State) (core physq : Nat) : Nat :=
  (s.blocksOn core physq).foldl (fun n b => n + ((s.grid? b.grid).map (·.desc.cbHint)).getD 0) 0

/-- The groups R149 gives member 0 on a logical quadrant. -/
def GridDesc.slotsOn (d : GridDesc) (q : Nat) : Nat := ceilDiv (ceilDiv d.g d.m - q) 4

/-- Whether a core meets the needs of member 0 (R317); a quadrant whose owner is about to change takes no block (R373). -/
def State.coreMeets (s : State) (fn : Nat) (d : GridDesc) (core : Nat) : Bool :=
  decide (d.quads ≤ (s.ownedQuads core fn).length) &&
    (List.range d.quads).all fun q =>
      let p := s.physQuad core fn q
      (s.quadHw (quadNo core p)).wanted.isNone && decide (d.slotsOn q ≤ (s.freeSlots core p).length) &&
        (d.ctlEntry == 0 || !s.ctlTaken core p) && decide (s.hintsOn core p + d.cbHint ≤ 4)

/-- The least free slots among the quadrants member 0 would use. -/
def State.leastFree (s : State) (fn : Nat) (d : GridDesc) (core : Nat) : Nat :=
  (List.range d.quads).foldl (fun m q => min m (s.freeSlots core (s.physQuad core fn q)).length) 48

/-- The tokens of a block of power class 1 (R319). -/
def GridDesc.tokens (d : GridDesc) : Nat :=
  if d.power then (List.range d.m).foldl (fun n r => n + min 4 (ceilDiv (d.g - r) d.m)) 0 else 0

/-- PTFREE (R319). -/
def State.ptFree (s : State) : Nat :=
  s.ptpool - s.blocks.foldl (fun n b => if b.resident then n + ((s.grid? b.grid).map (·.desc.tokens)).getD 0 else n) 0

/-- Whether a victim still holds what it is to free: it is being pre-empted on its cores. -/
def State.yielding (s : State) (v : Option Nat) : Bool := ((v.bind s.block?).map fun b => b.resident).getD false

/-- The tokens that victims of other reserved heads gave back, at swap-out or exit, which those heads alone may take (R321). -/
def State.withheld (s : State) (grid : Nat) : Nat :=
  s.disps.foldl (fun n d =>
    match d.2.victims with
    | none => n
    | some (h, vs) =>
      if h == grid || !((s.headOf d.1).map fun x => x.id == h && x.reserved).getD false then n
      else vs.foldl (fun n v => if s.yielding v.1 then n else n + v.2) n) 0

/-- A victim that returns to cores elsewhere has freed what it held. -/
def State.victimBack (s : State) (b : Nat) : State :=
  let back (v : Option Nat × Nat) : Option Nat × Nat := if v.1 == some b then (none, v.2) else v
  { s with disps := s.disps.map fun d => (d.1, { d.2 with victims := d.2.victims.map fun x => (x.1, x.2.map back) }) }

/-- The lowest address a contribution may take on a core: the AB limits of the block and of every resident block (R28). -/
def State.baseLimit (s : State) (fn : Nat) (d : GridDesc) (core : Nat) : Nat :=
  let q := (s.ownedQuads core fn).length
  s.blocks.foldl (fun m b =>
    if b.resident && b.cores.contains core && s.blockFn b == fn then
      max m (((s.grid? b.grid).map fun g => g.desc.abLimit q).getD 0)
    else m) (d.abLimit q)

/-- Whether a contribution fits at an address of a core. -/
def State.baseFits (s : State) (fn : Nat) (d : GridDesc) (core base : Nat) : Bool :=
  decide (base + d.c * 2 ^ 16 ≤ abSize (s.ownedQuads core fn).length) && decide (s.baseLimit fn d core ≤ base) &&
    (s.contribs fn core).all fun c => !(decide (base < c.1 + c.2) && decide (c.1 < base + d.c * 2 ^ 16))

/-- The highest common range (R28); 0 where the grid has no CLS. -/
def State.commonBase (s : State) (fn : Nat) (d : GridDesc) (cores : List Nat) : Option Nat :=
  if d.c == 0 then some 0
  else ((List.range 32).reverse.map (· * 2 ^ 16)).find? fun b => cores.all fun c => s.baseFits fn d c b

/-- A block's PRIV backing in bytes. -/
def GridDesc.privBytes (d : GridDesc) : Nat := 2 ^ 16 * 32 * d.g

/-- The lowest free backing of a grid's pool. -/
def Grid.freePriv (g : Grid) : Option Nat :=
  (List.range (g.desc.privLen / g.desc.privBytes)).find? fun k => !g.priv.contains k

-- Choosing cores (R318).

/-- What TryPlace takes: the cores by member rank, the contributions' base, each group's slot, the PRIV backing. -/
structure Placement where
  cores : List Nat
  cbase : Nat
  slots : List Nat
  priv : Option Nat
  pins : List Pin

/-- The cores TryPlace tries: those that meet member 0's needs, by the least free slots, then by index. -/
def State.coreOrder (s : State) (fn : Nat) (d : GridDesc) (cluster : Nat) : List Nat :=
  sortBy (fun a b => decide (s.leastFree fn d a ≤ s.leastFree fn d b))
    ((clusterCores cluster).filter (s.coreMeets fn d))

/-- The slot of each group: on its quadrant, the lowest free ones in order of group number (log 89). -/
def State.slotsFor (s : State) (fn : Nat) (d : GridDesc) (cores : List Nat) : List Nat :=
  (List.range d.g).map fun i =>
    let core := cores.getD (i % d.m) 0
    ((s.freeSlots core (s.physQuad core fn (i / d.m % 4))).getD (i / d.m / 4) 0)

/-- The backing a new block takes: none without a pool; failing when the pool is used up or its pages do not stand with
RD and WR. -/
def State.takePriv (s : State) (g : Grid) : State × Option (Option Nat × List Pin) :=
  if g.desc.privBase == 0 then (s, some (none, []))
  else
    match g.freePriv with
    | none => (s, none)
    | some k =>
      let va := g.desc.privBase + k * g.desc.privBytes
      match s.sidePins g.ctx true (g.desc.privBytes / 4096 + 1) va g.desc.privBytes with
      | (s1, .ok ps) => (s1, some (some va, distinctPins ps))
      | (s1, _) => (s1, none)

/-- Whether the banks that a block holds are free on the cores it would return to (log 28). -/
def State.banksFree (s : State) (fn : Nat) (b : Block) (cores : List Nat) : Bool :=
  b.cb.all fun e => !s.bankHeld fn (cores.getD e.1 0) e.2

/-- TryPlace's choice (R318), for a new block or an old one that returns. -/
def State.findPlace (s : State) (g : Grid) (cluster : Nat) (old : Option Block) : State × Option Placement :=
  let fn := s.ctxFn g.ctx
  let d := g.desc
  let e := s.coreOrder fn d cluster
  if e.length < d.m || (d.tokens != 0 && decide (s.ptFree < d.tokens + s.withheld g.id)) then (s, none)
  else
    let cores := sortBy (fun a b => decide (a ≤ b)) (e.take d.m)
    match s.commonBase fn d cores with
    | none => (s, none)
    | some base =>
      match old with
      | some b => if s.banksFree fn b cores then (s, some ⟨cores, base, s.slotsFor fn d cores, b.priv, []⟩) else (s, none)
      | none =>
        match s.takePriv g with
        | (s1, some (va, ps)) => (s1, some ⟨cores, base, s1.slotsFor fn d cores, va, ps⟩)
        | (s1, none) => (s1, none)

/-- The instruction caches of cores discard a context's lines (R77, R357). -/
def State.dropCode (s : State) (ctx : Nat) (cores : List Nat) : State :=
  cores.foldl (fun (s : State) c => s.modCoreHw c fun h => { h with ic := h.ic.filter fun l => l.ctx != ctx }) s

/-- The cores on which a block of a grid comes to stand for the first time: their instruction caches discard its context's code
(R77), and their L1s what an earlier grid left of its CONST (R26). -/
def State.firstOn (s : State) (g : Grid) (cores : List Nat) : State :=
  let new := cores.filter fun c => !g.placed.contains c
  ((new.foldl (fun (s : State) c => s.dropClean c fun l => l.ctx == g.ctx && l.const) (s.dropCode g.ctx new))).modGrid g.id
    fun x => { x with placed := x.placed ++ new }

/-- PRIV lines of a context gone from cores, whose windows new threads take over (R25). -/
def State.dropPriv (s : State) (ctx : Nat) (cores : List Nat) : State :=
  cores.foldl (fun (s : State) c => s.dropClean c fun l => l.ctx == ctx && l.priv) s

/-- A new block on its cores (R141, R147, R149). -/
def State.placeNew (s : State) (g : Grid) (p : Placement) : State :=
  let b := { (Block.start g.desc s.nextId g.id g.nextBlock p.cores p.cbase p.slots p.priv s.cycle s.ns).loadsCount s.seq with
    privPins := p.pins }
  let used := match p.priv with
    | some va => g.priv ++ [(va - g.desc.privBase) / g.desc.privBytes]
    | none => g.priv
  ((({ s with blocks := s.blocks ++ [b], nextId := s.nextId + 1 }.modGrid g.id fun x =>
    { x with nextBlock := x.nextBlock + 1, live := x.live + 1, priv := used }).pinAll p.pins).firstOn g p.cores).dropPriv
      g.ctx p.cores |>.tick

-- Restore (R357).

/-- A wait as it stands after restore (R37, R251, R281): the ones that are checked afresh stay, the others issue again. A
push that stalls for a permit keeps what it read and its age (DESIGN CHOICE, log 107). -/
def Wait.restored (w : Wait) : Wait :=
  match w with
  | .join => .join
  | .gbar => .gbar
  | .bar n => .bar n
  | .team t => .team t
  | .halt => .halt
  | .none => .none
  | .commit d => .commit d
  | .close => .none
  | .fence => .none
  | .waitc _ _ => .none
  | .permit o => .permit o
  | .dqPush => .none
  | .dqPop _ _ => .none
  | .evq => .none
  | .rflWait => .none
  | .loopWait => .none
  | .phint _ => .none
  | .fill _ p d k i => .fill Option.none p d k i
  | .peers i => .peers i

/-- The address under mode 0, in an owner's AB on a core, of a place; none for a place elsewhere (R14, R18). -/
def abOff (owned : List Nat) (core key : Nat) : Option Nat :=
  if key < abPlace core 0 0 0 || abPlace (core + 1) 0 0 0 ≤ key then none
  else
    let k := key - abPlace core 0 0 0
    let bank := k % 512 / 16
    (indexWhere owned (· == bank / 8)).map fun i => (k / 512 * (8 * owned.length) + (8 * i + bank % 8)) * 16 + k % 16

/-- Whether a place lies in a range of an owner's AB. -/
def inAb (owned : List Nat) (core lo n key : Nat) : Bool :=
  match abOff owned core key with
  | some a => decide (lo ≤ a) && decide (a < lo + n)
  | none => false

/-- A range of an owner's AB set to zero, its poison cleared. -/
def State.zeroAb (s : State) (owned : List Nat) (core lo n : Nat) : State :=
  { s with mem := s.mem.filter fun c => !inAb owned core lo n c.1,
           poison := s.poison.filter fun p => !inAb owned core lo n p.1 }

/-- The place of a saved byte's storage on the new cores. -/
def State.savedKey (s : State) (b : Block) (fn rank kind off : Nat) : Nat :=
  let core := b.coreOf rank
  let owned := s.ownedQuads core fn
  match kind with
  | 0 => abKey owned core (b.cbase + off) 0
  | 1 => cbKey owned core (off / 8 * 8) + off % 8
  | _ => abKey owned core off 0

/-- The saved bytes written back: the ranges zeroed first, then what is not zero, then the poison. -/
def State.writeSaved (s : State) (b : Block) (f : Frame) (fn : Nat) (d : GridDesc) : State :=
  let own (r : Nat) : List Nat := s.ownedQuads (b.coreOf r) fn
  let s1 := (List.range b.cores.length).foldl (fun (s : State) r =>
    s.zeroAb (own r) (b.coreOf r) b.cbase (d.c * 2 ^ 16)) s
  let s2 := b.cb.foldl (fun (s : State) e => s.zeroRange (s.savedKey b fn e.1 1 (e.2 * 0x10000)) 0x10000) s1
  let s3 := f.ranges.foldl (fun (s : State) x => s.zeroAb (own x.1) (b.coreOf x.1) x.2.1 x.2.2) s2
  let s4 := f.bytes.foldl (fun (s : State) x =>
    { s with mem := memSet s.mem (s.savedKey b fn x.rank x.kind x.off) x.val }) s3
  { s4 with poison := s4.poison ++ f.poison.map fun x => (s4.savedKey b fn x.1 x.2.1 x.2.2.1, x.2.2.2) }

/-- The bank counters written back. -/
def State.writeCounters (s : State) (b : Block) (f : Frame) (fn : Nat) : State :=
  f.counters.foldl (fun (s : State) x =>
    let core := b.coreOf x.1
    { s with cbCount := tabSet s.cbCount (core * 16 + physBank (s.ownedQuads core fn) x.2.1) x.2.2 }) s

/-- The block's record on its new cores. -/
def Block.moved (b : Block) (p : Placement) (now ns : Nat) : Block :=
  { b with
    cores := p.cores, cluster := clusterOf (p.cores.getD 0 0), cbase := p.cbase, pre := .none, placedNs := ns, frame := none,
    groups := b.groups.map fun g =>
      { g with slot := p.slots.getD g.num 0, placedAt := now, saved := false,
               threads := g.threads.map fun t => { t with wait := t.wait.restored, lastLane := none, lastUni := none } },
    ctls := b.ctls.map fun c => { c with placedAt := now, wait := c.wait.restored, lastUni := none } }

/-- A block's saved planes written back to its quadrants (R281, R355): they count as loaded at the restore. -/
def State.writePlanes (s : State) (b : Block) : State :=
  let put (now old : Option Plane) : Option Plane :=
    match now with
    | some p => some { p with loadedAt := s.seq }
    | none => old
  let s1 := b.pairs.foldl (fun (s : State) p =>
    s.modQuadHw (s.quadOfPair b p.rank p.quad) fun h =>
      { h with active := put p.savedActive h.active, shadow := put p.savedShadow h.shadow }) s
  s1.modBlock b.id fun x =>
    { x.loadsCount s.seq with pairs := (x.loadsCount s.seq).pairs.map fun p => { p with savedActive := none, savedShadow := none } }

/-- A swapped-out block restored (R140, R357): its state written back, every domain opened, its code lines dropped, and an earlier
grid's CONST lines on cores new to its grid (R26). -/
def State.restoreBlock (s : State) (g : Grid) (b : Block) (p : Placement) : State :=
  let fn := s.ctxFn g.ctx
  let b0 := s.unspill b g.desc.c
  let b1 := b0.moved p s.cycle s.ns
  let s1 := { s with blocks := modIf s.blocks (·.id == b.id) fun _ => b1 }
  let s2 := match b0.frame with
    | some f => (s1.writeSaved b1 f fn g.desc).writeCounters b1 f fn
    | none => s1
  let s3 := p.cores.foldl (fun (s : State) c => s.openBlock c g.ctx) (s2.writePlanes b1)
  (((s3.victimBack b.id).dropCode g.ctx p.cores).firstOn g p.cores).tick

-- Attempts (R320).

/-- A dispatcher's head changes where its grid has nothing left for it. -/
def State.sweepHeads (s : State) : State :=
  { s with disps := s.disps.map fun d =>
      (d.1, match d.2.head with
        | none => d.2
        | some h =>
          if ((s.grid? h).map fun g => s.hasWork g d.1).getD false then d.2 else { d.2 with head := none, headPlaced := false }) }

/-- AGEMAX and TSLICE (R320). -/
def Disp.agemax (d : Disp) : Nat := bitsOf d.dsctl.toNat 31 24
def Disp.tslice (d : Disp) : Nat := bitsOf d.dsctl.toNat 19 0

/-- A backfill past a dispatcher's head: PASS grows, and at AGEMAX the head is reserved. -/
def State.backfill (s : State) (cluster head : Nat) : State :=
  let age := (s.disp cluster).agemax
  s.modGrid head fun g =>
    let n := g.pass + 1
    { g with pass := n, reserved := g.reserved || decide (age ≤ n),
             reservedAt := if !g.reserved && decide (age ≤ n) then s.clk17 else g.reservedAt }

/-- The dispatchers after a grid placed a block in a cluster: those that name it head are marked; the one that placed
it a second time has a head no longer. -/
def State.headsPlaced (s : State) (cluster grid : Nat) : State :=
  { s with disps := s.disps.map fun d =>
      (d.1,
        if d.2.head != some grid then d.2
        else if d.1 == cluster && d.2.headPlaced then { d.2 with head := none, headPlaced := false, victims := none }
        else { d.2 with headPlaced := true, victims := none }) }

/-- After a placement: the grid's PASS and reservation go, a backfill is counted, the round begins afresh; where PTFREE has
changed, every dispatcher attempts again (R320). -/
def State.afterPlace (s : State) (cluster : Nat) (g : Grid) : State :=
  let s1 := match (s.disp cluster).head with
    | some h => if h == g.id then s else s.backfill cluster h
    | none => s
  let s2 := s1.modGrid g.id fun x => { x with pass := 0, reserved := false }
  let s3 := (s2.headsPlaced cluster g.id).modDisp cluster fun d => { d with order := [], lastTenant := some (s.tenantOf g) }
  let s4 := s3.sweepHeads.wantRound cluster
  if g.desc.tokens == 0 then s4 else s4.wantRounds

/-- After an attempt that failed: the next grid of the round; a dispatcher without a head names this one. -/
def State.afterFail (s : State) (cluster grid : Nat) : State :=
  s.modDisp cluster fun d =>
    { d with order := d.order.drop 1, head := if d.head.isNone then some grid else d.head,
             headPlaced := if d.head == some grid then false else d.headPlaced }

/-- An entry of a function's fault log: a code of R346 and what it concerns. -/
def State.logFault (s : State) (fn code about : Nat) : State :=
  s.modFn fn fun f => { f with faultLog := f.faultLog ++ [(code, about)] }

/-- A block restored on its new cores; a poisoned frame resets its context instead (R358). -/
def State.restoreOr (s : State) (cluster : Nat) (g : Grid) (b : Block) (p : Placement) : State :=
  if (b.frame.map s.savePoisoned).getD false then
    (s.resetCtx g.ctx).logFault (s.ctxFn g.ctx) (Cause.code .engineFault) g.ctx
  else (s.restoreBlock g b p).afterPlace cluster g

/-- One attempt for a grid: its oldest swapped-out block, or a new one. -/
def State.attempt (s : State) (cluster : Nat) (g : Grid) : State :=
  match s.swappedOf g.id with
  | b :: _ =>
    match s.findPlace g cluster (some b) with
    | (s1, some p) => s1.restoreOr cluster g b p
    | (s1, none) => s1.afterFail cluster g.id
  | [] =>
    match s.findPlace g cluster none with
    | (s1, some p) => (s1.placeNew g p).afterPlace cluster g
    | (s1, none) => s1.afterFail cluster g.id

/-- The next grid of a cluster's round attempted (R318, R320), once dispatchers have given up heads with nothing left to place; a
head reserved since the round began is attempted alone. -/
def State.tryNext (s : State) (cluster grid : Nat) : State :=
  let s := s.sweepHeads
  match s.grid? grid with
  | some g =>
    if s.isReady cluster g && (s.roundOf cluster [grid]).contains grid then s.attempt cluster g
    else s.modDisp cluster fun d => { d with order := d.order.drop 1 }
  | none => s.modDisp cluster fun d => { d with order := d.order.drop 1 }

/-- TRY_PLACE (R318, R320). -/
def execTryPlace (cluster grid : Nat) (s : State) : Host.Outcome State Fault Refusal :=
  .next (if (s.disp cluster).order.head? == some grid then s.tryNext cluster grid else s)

/-- BLOCK_RESTORE (R357): the round's next attempt, where it restores this block. -/
def execBlockRestore (cluster block : Nat) (s : State) : Host.Outcome State Fault Refusal :=
  .next <|
    match (s.block? block).bind fun b => s.grid? b.grid with
    | some g =>
      if (s.disp cluster).order.head? == some g.id && ((s.swappedOf g.id).head?.map (·.id)) == some block then
        s.tryNext cluster g.id
      else s
    | none => s

end Sys2Proof.Machine
end

