-- ==== Sys2Proof/Machine/Team.lean ====
section
/-!
DEFINITION. Team operations (06_execution_model.md R148; 08_arithmetic_and_control_instructions.md R215 to R218): the
issue that brings a lane to its team, the execution once every Present lane stands at it, and the mismatch.
-/
namespace Sys2Proof.Machine

/-- The width of a team code (R173). -/
def teamWidth (wc : Nat) : Nat := 2 ^ wc

/-- What a team operation is to its team: width, destination and its words, and whether w suppresses the write. -/
structure TeamShape where
  width : Nat
  d : Nat
  dwords : Nat
  w : Bool

def tredShape (x : Tred) (words : Nat) : TeamShape := ⟨teamWidth x.wc.toNat, x.d.toNat, words, x.w⟩
def tshflShape (x : Tshfl) : TeamShape := ⟨teamWidth x.wc.toNat, x.d.toNat, 1, false⟩

/-- The shape of the instruction a lane waits at; any other instruction is no team operation. -/
def teamShape (i : Instr) : TeamShape :=
  match i with
  | .ballot x => ⟨teamWidth x.wc.toNat, x.d.toNat, 1, x.w⟩
  | .tshflIdx x => tshflShape x
  | .tshflXor x => tshflShape x
  | .tredAdd x => tredShape x 1
  | .tredMin x => tredShape x 1
  | .tredMax x => tredShape x 1
  | .tredUmin x => tredShape x 1
  | .tredUmax x => tredShape x 1
  | .tredAnd x => tredShape x 1
  | .tredOr x => tredShape x 1
  | .tredXor x => tredShape x 1
  | .tredFadd x => tredShape x 1
  | .tredFmin x => tredShape x 1
  | .tredFmax x => tredShape x 1
  | .tredDadd x => tredShape x 2
  | _ => ⟨1, 0, 1, true⟩

/-- Op of R218 for the TRED codes of R173, on two contributions, with its flags. -/
def tredOp (k : Nat) (c : FCtl) (a b : Nat) : FRes :=
  match k with
  | 0 => ⟨(a + b) % 2 ^ 32, 0⟩
  | 1 => ⟨if sext 32 a ≤ sext 32 b then a else b, 0⟩
  | 2 => ⟨if sext 32 a ≤ sext 32 b then b else a, 0⟩
  | 3 => ⟨min a b, 0⟩
  | 4 => ⟨max a b, 0⟩
  | 5 => ⟨a &&& b, 0⟩
  | 6 => ⟨a ||| b, 0⟩
  | 7 => ⟨a ^^^ b, 0⟩
  | 8 => fmtF32.add c a b
  | 9 => fmtF32.minMax false c a b
  | 10 => fmtF32.minMax true c a b
  | _ => fmtF64.add c a b

/-- One level of the tree: an absent contribution is the identity, which changes nothing (R215). -/
def tredLevel (k : Nat) (c : FCtl) : List (Option Nat × Word) → List (Option Nat × Word)
  | (some a, f) :: (some b, f') :: r =>
    let o := tredOp k c a b
    (some o.val, f ||| f' ||| o.flags) :: tredLevel k c r
  | (some a, f) :: (none, f') :: r => (some a, f ||| f') :: tredLevel k c r
  | (none, f) :: (b, f') :: r => (b, f ||| f') :: tredLevel k c r
  | r => r

/-- The fixed pairwise tree (R218): n levels over 2^n positions. -/
def tredTree (k : Nat) (c : FCtl) : Nat → List (Option Nat × Word) → Option Nat × Word
  | 0, l => l.headD (none, 0)
  | n + 1, l => tredTree k c n (tredLevel k c l)

/-- What stands at each position of a team: the operands of a giver, none for a lane that contributes the identity. -/
abbrev TeamRow := List (Option (DWord × Word))

/-- A TRED's result, the same for every giver. -/
def tredResult (k : Nat) (c : FCtl) (row : TeamRow) : DWord × Word :=
  let r := tredTree k c 5 (row.map fun o => (o.map fun x => x.1.toNat, (0 : Word)))
  (BitVec.ofNat 64 (r.1.getD 0), r.2)

/-- BALLOT's word (R216). -/
def ballotResult (row : TeamRow) : DWord :=
  BitVec.ofNat 64 ((List.range row.length).foldl
    (fun a i => a + (match row.getD i none with
      | some x => if x.1 == 1 then 2 ^ i else 0
      | none => 0)) 0)

/-- TSHFL's word for the giver at a position (R217). -/
def tshflResult (isXor : Bool) (row : TeamRow) (i : Nat) : DWord :=
  let m := row.length - 1
  let b := ((row.getD i none).map fun x => x.2.toNat).getD 0
  let src := if isXor then (i ^^^ b) &&& m else b &&& m
  ((row.getD src none).map fun x => x.1).getD 0

/-- The result of a team operation at a position, and the flags of the whole operation. -/
def teamResult (i : Instr) (c : FCtl) (row : TeamRow) (pos : Nat) : DWord × Word :=
  match i with
  | .ballot _ => (ballotResult row, 0)
  | .tshflIdx _ => (tshflResult false row pos, 0)
  | .tshflXor _ => (tshflResult true row pos, 0)
  | .tredAdd _ => tredResult 0 c row
  | .tredMin _ => tredResult 1 c row
  | .tredMax _ => tredResult 2 c row
  | .tredUmin _ => tredResult 3 c row
  | .tredUmax _ => tredResult 4 c row
  | .tredAnd _ => tredResult 5 c row
  | .tredOr _ => tredResult 6 c row
  | .tredXor _ => tredResult 7 c row
  | .tredFadd _ => tredResult 8 c row
  | .tredFmin _ => tredResult 9 c row
  | .tredFmax _ => tredResult 10 c row
  | .tredDadd _ => tredResult 11 c row
  | _ => (0, 0)

-- The issue.

/-- A team operation as it issues: guard, h bit, operand range, sources with their widths, predicates read, and what a
lane brings. -/
structure TeamSpec where
  g : BitVec 3
  h : Bool
  srcs : List (Nat × Nat)
  preds : List Nat
  op : Instr
  bring : Who → Nat → Thread → DWord × Word

/-- The issue of a team operation (R148, R186, R215): the chain before it completes, and every lane of the fragment,
whatever its guard, waits at the instruction with its sources, uniform ones too, and GCTL as they stand now (log 80). -/
def TeamSpec.issue (x : TeamSpec) (s : State) (w : Who) (g : Group) : State :=
  let sh := teamShape x.op
  let ok := x.srcs.all (fun (a, n) => srcOk w.grid.desc a n) && vOk w.grid.desc sh.d sh.dwords
  match issueFault w.chain x.h x.h ok (x.srcs.map (·.1)) with
  | some c => s.laneFaultAll w g x.h c
  | none =>
    let probe : LaneSpec := { g := x.g, h := x.h, srcs := x.srcs, preds := x.preds, eval := fun _ _ _ => {} }
    match probe.poisoned s w g with
    | [] =>
      (s.chainDone w g).modLanes w.blk.id g.num w.lanes fun i t =>
        match (g.thread? i) with
        | some t0 =>
          let v := x.bring w i t0
          { t with wait := .team ⟨x.op, t0.guard x.g, v.1, v.2, w.uni.gctl⟩ }
        | none => t
    | ls => s.laneFaults w g x.h (ls.map fun l => ⟨l, .engineFault, 0, w.addr, w.pc, false⟩)

def TeamSpec.run (x : TeamSpec) (s : State) : Host.Outcome State Fault Refusal := perLane s (x.issue s)

/-- A TRED of a 32-bit value. -/
def tredSpec (x : Tred) (op : Instr) : TeamSpec :=
  { g := x.g, h := x.h, srcs := [(x.a.toNat, 1)], preds := [], op := op,
    bring := fun w l t => (joinPair (readSrc32 w l t x.a.toNat) 0, 0) }
/-- A TSHFL: the value, and v(b). -/
def tshflSpec (x : Tshfl) (op : Instr) : TeamSpec :=
  { g := x.g, h := false, srcs := [(x.a.toNat, 1), (x.b.toNat, 1)], preds := [], op := op,
    bring := fun w l t => (joinPair (readSrc32 w l t x.a.toNat) 0, t.vget x.b.toNat) }
def ballotSpec (x : Ballot) : TeamSpec :=
  { g := x.g, h := x.h, srcs := [], preds := [x.p.toNat], op := .ballot x,
    bring := fun _ _ t => (if t.pget x.p.toNat then 1 else 0, 0) }
def tredDaddSpec (x : Tred) : TeamSpec :=
  { g := x.g, h := x.h, srcs := [(x.a.toNat, 2)], preds := [], op := .tredDadd x,
    bring := fun w l t => (readSrc64 w l t x.a.toNat, 0) }

def execBallot (x : Ballot) (s : State) : Host.Outcome State Fault Refusal := (ballotSpec x).run s
def execTshflIdx (x : Tshfl) (s : State) : Host.Outcome State Fault Refusal := (tshflSpec x (.tshflIdx x)).run s
def execTshflXor (x : Tshfl) (s : State) : Host.Outcome State Fault Refusal := (tshflSpec x (.tshflXor x)).run s
def execTredAdd (x : Tred) (s : State) : Host.Outcome State Fault Refusal := (tredSpec x (.tredAdd x)).run s
def execTredMin (x : Tred) (s : State) : Host.Outcome State Fault Refusal := (tredSpec x (.tredMin x)).run s
def execTredMax (x : Tred) (s : State) : Host.Outcome State Fault Refusal := (tredSpec x (.tredMax x)).run s
def execTredUmin (x : Tred) (s : State) : Host.Outcome State Fault Refusal := (tredSpec x (.tredUmin x)).run s
def execTredUmax (x : Tred) (s : State) : Host.Outcome State Fault Refusal := (tredSpec x (.tredUmax x)).run s
def execTredAnd (x : Tred) (s : State) : Host.Outcome State Fault Refusal := (tredSpec x (.tredAnd x)).run s
def execTredOr (x : Tred) (s : State) : Host.Outcome State Fault Refusal := (tredSpec x (.tredOr x)).run s
def execTredXor (x : Tred) (s : State) : Host.Outcome State Fault Refusal := (tredSpec x (.tredXor x)).run s
def execTredFadd (x : Tred) (s : State) : Host.Outcome State Fault Refusal := (tredSpec x (.tredFadd x)).run s
def execTredFmin (x : Tred) (s : State) : Host.Outcome State Fault Refusal := (tredSpec x (.tredFmin x)).run s
def execTredFmax (x : Tred) (s : State) : Host.Outcome State Fault Refusal := (tredSpec x (.tredFmax x)).run s
def execTredDadd (x : Tred) (s : State) : Host.Outcome State Fault Refusal := (tredDaddSpec x).run s

-- The execution.

/-- The team operation a thread waits at. -/
def Thread.teamWait (t : Thread) : Option TeamWait :=
  match t.wait with
  | .team x => some x
  | _ => none

/-- The Present lanes of the team of a width that holds a lane. -/
def Group.teamLanes (g : Group) (lane width : Nat) : List Nat :=
  g.presentLanes.filter fun i => i / width == lane / width

/-- Whether a thread stands at the team operation of another (R148): one address, one instruction. -/
def Thread.sameTeamOp (t u : Thread) : Bool :=
  t.pc == u.pc && (t.teamWait.map (·.op) == u.teamWait.map (·.op)) && t.teamWait.isSome

/-- The participants of the team operation at which a lane stands, once every Present lane of its team stands there. -/
def Group.teamReady (g : Group) (lane : Nat) : Option (List Nat) :=
  (g.thread? lane).bind fun t => t.teamWait.bind fun x =>
    let ls := g.teamLanes lane (teamShape x.op).width
    if t.present && ls.all (fun i => ((g.thread? i).map (t.sameTeamOp ·)).getD false) then some ls else none

/-- The row of a team: its givers' operands by position. -/
def Group.teamRow (g : Group) (lane width : Nat) (ls : List Nat) : TeamRow :=
  (List.range width).map fun i =>
    let l := lane / width * width + i
    if ls.contains l then
      (g.thread? l).bind fun t => t.teamWait.bind fun x => if x.giver then some (x.a, x.b) else none
    else none

/-- The team operation at which a lane stands executes (R148, R215): the givers receive the result, the flags are
merged once, and every participant goes on; a giver raised the operation's flags (log 11). FRM and FTZ are those with which its
lowest participant issued (R199, log 80). -/
def State.teamExecute (s : State) (b : Nat) (g : Group) (lane : Nat) (x : TeamWait) (pc : Nat) (ls : List Nat) : State :=
  let sh := teamShape x.op
  let low := (ls.head?.bind fun l => (g.thread? l).bind Thread.teamWait).map (·.gctl)
  let c := FCtl.ofGctl (low.getD g.uni.gctl)
  let row := g.teamRow lane sh.width ls
  let givers := ls.filter fun l => (row.getD (l % sh.width) none).isSome
  let res := givers.map fun l => (l, teamResult x.op c row (l % sh.width))
  let vw :=
    if sh.w then []
    else res.flatMap fun (l, r) => vwrites l sh.d (if sh.dwords == 2 then pairWords r.1 else [loWord r.1])
  let fl := res.map fun (l, r) => (l, r.2)
  let s1 := s.applyWrites b g.num vw []
  let s2 := s1.modGroup b g.num fun y =>
    (Group.modLanes { y with uni := y.uni.merge (flagsOf fl) } ls fun _ t => { t with wait := .none, pc := (pc + 4) % 2 ^ 56 })
  s2.flagTraps b g.num (trapLanes g.uni fl ls) pc (pc + 4)

/-- TEAM_OPERATION_EXECUTE (R148): nothing happens while a Present lane of the team stands elsewhere. -/
def execTeamOperationExecute (t : ThreadRef) (s : State) : Host.Outcome State Fault Refusal :=
  .next <|
    match (s.block? t.block).bind fun b => (b.group? t.group).bind fun g =>
        (g.thread? t.lane).bind fun u => u.teamWait.bind fun x => (g.teamReady t.lane).map fun ls => (g, u.pc, x, ls) with
    | some (g, pc, x, ls) => s.teamExecute t.block g t.lane x pc ls
    | none => s

-- The mismatch.

/-- Waiting(u) of R239: at a JOIN, GBAR, BAR, BAR.WAIT or team operation. -/
def Thread.waiting (t : Thread) : Bool :=
  match t.wait with
  | .join => true
  | .gbar => true
  | .bar _ => true
  | .team _ => true
  | _ => false

/-- The lanes of team operations that R148 rule 3 faults: every Present lane of the team waits, and not all at the
same team operation. -/
def Group.teamMismatch (g : Group) : List Nat :=
  g.presentLanes.filter fun l =>
    match (g.thread? l).bind fun t => t.teamWait.map fun x => (t, x) with
    | none => false
    | some (t, x) =>
      let ls := g.teamLanes l (teamShape x.op).width
      ls.all (fun i => ((g.thread? i).map Thread.waiting).getD false) &&
        !ls.all (fun i => ((g.thread? i).map (t.sameTeamOp ·)).getD false)

end Sys2Proof.Machine
end

