-- ==== Sys2Proof/Machine/Sync.lean ====
section
/-!
DEFINITION. The SYNC family and its events (09_memory_and_synchronisation_instructions.md R238 to R250; 06_execution_model.md
R148, R154 to R161; 14_traps_preemption_debug.md R361): convergence, barriers, refill and exit, phases, fences,
completion waits, PHINT, TRAP, and the GTIMER deadline.
-/
namespace Sys2Proof.Machine

/-- A SYNC instruction other than NOP issued: it may stand only last in a chain, which completes as it issues (R186). -/
def syncIssue (ok : Who → Bool) (s : State) (w : Who) (g : Group) (k : State → State) : State :=
  match issueFault w.chain false false (ok w) [] with
  | some c => s.laneFaultAll w g false c
  | none => k (s.chainDone w g)

/-- A SYNC instruction without operands. -/
def sync (s : State) (k : Who → Group → State → State) : Host.Outcome State Fault Refusal :=
  perLane s fun w g => syncIssue (fun _ => true) s w g (k w g)

/-- A SYNC instruction that checks its lanes as it issues: in a chain, a lane's fault is a member's fault and the chain
takes no effect (R188). -/
def syncChecked (bad : Who → List LaneTrap) (s : State) (k : Who → Group → State → State) :
    Host.Outcome State Fault Refusal :=
  perLane s fun w g =>
    if w.chain.isSome && !(bad w).isEmpty then s.laneFaults w g false (bad w) else syncIssue (fun _ => true) s w g (k w g)

/-- NOP: nothing, and it may be a chain's member (R238). -/
def execNop (x : Nop) (s : State) : Host.Outcome State Fault Refusal :=
  ({ g := x.g, h := x.h, eval := fun _ _ _ => {} } : LaneSpec).run s

-- Waiting and release.

/-- Threads of a group released from the wait at which they stand: they continue after the instruction. -/
def Group.release (g : Group) (p : Nat → Thread → Bool) (f : Thread → Thread) : Group :=
  g.modLanes (List.range 32) fun i t => if p i t then f { t with wait := .none, pc := (t.pc + 4) % 2 ^ 56 } else t

/-- The Present threads of a group with their lanes. -/
def Group.presents (g : Group) : List (Nat × Thread) :=
  g.presentLanes.filterMap fun i => (g.thread? i).map fun t => (i, t)

/-- Whether every Present thread waits at a point of R239, and there is one. -/
def Group.allWaiting (g : Group) : Bool := !g.presents.isEmpty && g.presents.all fun x => x.2.waiting

/-- JOIN (R239). -/
def execJoin (s : State) : Host.Outcome State Fault Refusal := sync s fun w _ s1 => s1.setWait w .join

/-- Whether JOINs of a group release now (R239). -/
def Group.joinReady (g : Group) : Bool := g.allWaiting && g.presents.any fun x => x.2.wait == .join

/-- JOIN_RELEASE (R239): all JOINs of the group release in one step. -/
def execJoinRelease (x : GroupRef) (s : State) : Host.Outcome State Fault Refusal :=
  .next <|
    match (s.block? x.block).bind (·.group? x.group) with
    | some g =>
      if g.joinReady then s.modGroup x.block x.group (·.release (fun _ t => t.present && t.wait == .join) id) else s
    | none => s

/-- GBAR (R240). -/
def execGbar (s : State) : Host.Outcome State Fault Refusal :=
  sync s fun w _ s1 => (s1.setWait w .gbar).settleOwn w.agent blkCls

/-- Whether a group's GBAR completes now (R240). -/
def Group.gbarReady (g : Group) : Bool :=
  match g.presents with
  | [] => false
  | (_, t) :: r => t.wait == .gbar && r.all fun x => x.2.wait == .gbar && x.2.pc == t.pc

/-- GBAR_COMPLETE (R240). -/
def execGbarComplete (x : GroupRef) (s : State) : Host.Outcome State Fault Refusal :=
  .next <|
    match (s.block? x.block).bind (·.group? x.group) with
    | some g =>
      if g.gbarReady then
        (s.forgetOwn (.frag x.block x.group 0xFFFFFFFF) blkCls).modGroup x.block x.group
          (·.release (fun _ t => t.present && t.wait == .gbar) id)
      else s
    | none => s

-- Block barriers (R241).

/-- The arrived bit of a group, set by an arrival in it once every Present thread's mask bit is set (R241). -/
def Barrier.judge (x : Barrier) (g : Group) : Barrier :=
  if g.presentLanes.all fun l => bitOf ((x.masks.getD g.num 0).toNat) l then { x with arrived := x.arrived.set g.num true } else x

/-- CompleteCheck (R241). A barrier with no arrival recorded has nothing that completing would change but its number,
which no thread can compare, so it is left alone. -/
def Barrier.complete (x : Barrier) (groups : List Group) : Barrier :=
  if x.masks.all (· == 0) then x
  else if (List.range groups.length).all fun i =>
      x.arrived.getD i false || ((groups[i]?).map fun g => g.presentLanes.isEmpty).getD true
  then ⟨x.inst + 1, x.masks.map fun _ => 0, x.arrived.map fun _ => false⟩
  else x

/-- Every barrier of a block checked. -/
def Block.completeBars (b : Block) : Block := { b with bars := b.bars.map (·.complete b.groups) }

/-- The lanes of a fragment that may not arrive at barrier n: an arrival not yet waited for, its instance not over. -/
def Who.badArrivals (w : Who) (n : Nat) : List Nat :=
  let inst := ((w.blk.bars[n]?).map (·.inst)).getD 0
  (w.threads.filter fun (_, t) => t.arr.getD n none == some inst).map (·.1)

/-- A thread's arrival recorded. -/
def Thread.arrive (t : Thread) (n inst : Nat) : Thread := { t with arr := t.arr.set n (some inst) }

/-- BARRIER_MISMATCH of some lanes at their instruction, DETAIL naming the barrier (R344). -/
def Who.mismatch (w : Who) (n : Nat) (ls : List Nat) : List LaneTrap :=
  ls.map fun l => ⟨l, .barrierMismatch, n, w.addr, w.pc, false⟩
def State.mismatch (s : State) (w : Who) (g : Group) (n : Nat) (ls : List Nat) : State :=
  s.takeTraps w.blk.id g.num false (w.mismatch n ls)

/-- Arrive of R241 for the lanes of a fragment that may; they wait there (BAR) or go on (BAR.ARRIVE). An arrival carries the
number of the instance that stands, which the pseudocode gives also to a thread that became Present after its group had
arrived (log 81). -/
def State.arrive (s : State) (w : Who) (g : Group) (n : Nat) (stay : Bool) : State :=
  let bad := w.badArrivals n
  let good := w.lanes.filter fun l => !bad.contains l
  let s1 := s.modBlock w.blk.id fun b =>
    let inst := ((b.bars[n]?).map (·.inst)).getD 0
    let b1 := b.modGroup g.num fun x =>
      x.modLanes good fun _ t =>
        if stay then { t.arrive n inst with wait := .bar n } else { t.arrive n inst with pc := (w.pc + 4) % 2 ^ 56 }
    let b2 := if good.isEmpty then b1
      else { b1 with bars := modAt b1.bars n fun y =>
        { y with masks := modAt y.masks g.num fun m => m ||| maskOf good }.judge g }
    b2.completeBars
  s1.mismatch w g n bad

def execBar (x : BarN) (s : State) : Host.Outcome State Fault Refusal :=
  syncChecked (fun w => w.mismatch x.n.toNat (w.badArrivals x.n.toNat)) s fun w g s1 =>
    (s1.settleOwn w.agent blkCls).arrive w g x.n.toNat true
def execBarArrive (x : BarN) (s : State) : Host.Outcome State Fault Refusal :=
  syncChecked (fun w => w.mismatch x.n.toNat (w.badArrivals x.n.toNat)) s fun w g s1 =>
    (s1.settleOwn w.agent blkCls).arrive w g x.n.toNat false

/-- Whether a thread's arrival at a barrier belongs to a completed instance (R241). -/
def Block.departs (b : Block) (n : Nat) (t : Thread) : Bool :=
  match t.arr.getD n none with
  | some gen => decide (gen < ((b.bars[n]?).map (·.inst)).getD 0)
  | none => false

/-- The lanes of a fragment that stand at barrier n without an arrival of their own. -/
def Who.noArrival (w : Who) (n : Nat) : List Nat := (w.threads.filter fun (_, t) => (t.arr.getD n none).isNone).map (·.1)

/-- BAR.WAIT (R241): a thread that did not arrive faults; one whose instance is over passes at once. -/
def execBarWait (x : BarN) (s : State) : Host.Outcome State Fault Refusal :=
  syncChecked (fun w => w.mismatch x.n.toNat (w.noArrival x.n.toNat)) s fun w g s1 =>
    let n := x.n.toNat
    let bad := w.noArrival n
    let good := w.lanes.filter fun l => !bad.contains l
    let gone := (w.threads.filter fun (_, t) => w.blk.departs n t).map (·.1)
    let s2 := (s1.forgetOwn (w.laneAgent g gone) blkCls).modLanes w.blk.id g.num good fun _ t =>
      if w.blk.departs n t then { t with arr := t.arr.set n none, pc := (w.pc + 4) % 2 ^ 56 }
      else { t with wait := .bar n }
    s2.mismatch w g n bad

/-- BARRIER_DEPARTURE (R241): the threads that stand with this one at the barrier and whose instance is over. -/
def execBarrierDeparture (x : ThreadRef) (s : State) : Host.Outcome State Fault Refusal :=
  .next <|
    match (s.block? x.block).bind fun b => (b.group? x.group).bind fun g => (g.thread? x.lane).map fun t => (b, t) with
    | some (b, t) =>
      match t.wait with
      | .bar n =>
        if b.departs n t then
          (s.forgetOwn (.frag x.block x.group 0xFFFFFFFF) blkCls).modGroup x.block x.group (·.release
            (fun _ u => u.wait == .bar n && u.pc == t.pc && b.departs n u)
            (fun u => { u with arr := u.arr.set n none }))
        else s
      | _ => s
    | none => s

/-- The class of a wait for R242: GBAR address, barrier number, team-operation address. -/
def Thread.waitClass (t : Thread) : Nat × Nat :=
  match t.wait with
  | .gbar => (0, t.pc)
  | .bar n => (1, n)
  | _ => (2, t.pc)

/-- The lanes at GBAR or a block barrier that R242 faults, with their DETAIL. -/
def Group.barMismatch (g : Group) : List (Nat × Nat) :=
  match g.presents with
  | [] => []
  | (_, t) :: r =>
    if g.allWaiting && !g.joinReady && r.any (fun x => x.2.waitClass != t.waitClass) then
      g.presents.filterMap fun (l, u) =>
        match u.wait with
        | .gbar => some (l, 0x7F)
        | .bar n => some (l, n)
        | _ => none
    else []

/-- The mismatches of a group (R148 rule 3, R242): each lane faults at its own instruction. -/
def State.mismatches (s : State) (b : Nat) (g : Group) : State :=
  let fs := g.teamMismatch.map (fun l => (l, 0x7F)) ++ g.barMismatch
  s.takeTraps b g.num false (fs.filterMap fun (l, n) =>
    (g.thread? l).map fun t => ⟨l, .barrierMismatch, n, BitVec.ofNat 64 t.pc, t.pc, false⟩)

-- Refill and exit.

/-- A thread parked: its item has ended (R155, R243). -/
def Thread.park (t : Thread) : Thread := { t with st := .parked, wait := .none, item := none }

/-- REFILL (R154, R243, R348). -/
def execRefill (s : State) : Host.Outcome State Fault Refusal :=
  let away (w : Who) : List LaneTrap :=
    if w.grid.desc.refillSite == some w.pc then [] else w.lanes.map fun l => ⟨l, .refillSite, 0, w.addr, w.pc, false⟩
  syncChecked away s fun w g s1 =>
    if !(away w).isEmpty then s1.takeTraps w.blk.id g.num false (away w)
    else
      s1.modLanes w.blk.id g.num w.lanes fun _ t =>
        if t.inTask w.grid.desc then { t with wait := .commit false } else t.park

/-- EXIT (R244). -/
def execExit (s : State) : Host.Outcome State Fault Refusal :=
  sync s fun w g s1 =>
    s1.modLanes w.blk.id g.num w.lanes fun _ t =>
      if t.inTask w.grid.desc then { t with wait := .commit true } else t.drain

/-- The fault of a commit whose version an error struck (R79); the spec gives it no pointer (log 21). -/
def State.commitLost (s : State) (x : ThreadRef) (t : Thread) : State :=
  (s.takeTraps x.block x.group false
    [⟨x.lane, .engineFault, 0, Config.freeDWord s.fresh, t.pc, false⟩]).fresh1

/-- VERSION_COMMIT_COMPLETE (R79, R85, R155): every home has acknowledged; the thread parks or drains. -/
def execVersionCommitComplete (x : ThreadRef) (s : State) : Host.Outcome State Fault Refusal :=
  .next <|
    match s.thread? x with
    | some t =>
      match t.wait with
      | .commit drain =>
        if s.versLost x then s.commitLost x t
        else (s.commit x).modLanes x.block x.group [x.lane] fun _ u => if drain then u.drain else u.park
      | _ => s
    | none => s

/-- The lanes of a thread's refill unit (R154). -/
def unitLanes (n lane : Nat) : List Nat := (List.range 32).filter fun i => i / n == lane / n

/-- The parked lanes of a unit that is refilled now (R156): one is PARKED, none RUNNING, WAITING or TRAPPED, and no
pre-emption is pending (R353). -/
def Block.refillReady (b : Block) (g : Group) (n lane : Nat) : List Nat :=
  let ls := unitLanes n lane
  if b.pre != .none || ls.any fun i => g.presentLanes.contains i then []
  else ls.filter fun i => ((g.thread? i).map fun t => t.st == .parked).getD false

/-- A thread that a refill grants an item (R156). -/
def Thread.grant (t : Thread) (d : GridDesc) (item : Nat) : Thread :=
  { t with
    item := some item, icnt := t.icnt + 1, st := .running, pc := (d.refillSite.getD 0 + 4) % 2 ^ 56,
    v := (List.range t.v.length).map fun i =>
      if d.clear && decide (d.vlo ≤ i) && decide (i ≤ d.vhi) then 0 else t.v.getD i 0 }

/-- The refill of a unit, one step (R156). -/
def State.refillUnit (s : State) (b : Nat) (gr : Grid) (g : Group) (ps : List Nat) : State :=
  let n := min ps.length (gr.desc.items - gr.ctr)
  let s1 := s.modGrid gr.id fun x => { x with ctr := x.ctr + n }
  let s2 := s1.modLanes b g.num ps fun i t =>
    match indexWhere ps (· == i) with
    | some k => if k < n then t.grant gr.desc (gr.ctr + k) else t.drain
    | none => t
  { s2 with regPoison := s2.regPoison.filter fun p =>
      match p with
      | .v t r => !(t.block == b && t.group == g.num && ps.contains t.lane && gr.desc.clear &&
          decide (gr.desc.vlo ≤ r) && decide (r ≤ gr.desc.vhi))
      | _ => true }

/-- REFILL_UNIT (R156), once the lanes' registers have no pending write. -/
def execRefillUnit (x : ThreadRef) (s : State) : Host.Outcome State Fault Refusal :=
  .next <|
    match (s.block? x.block).bind fun b => (s.grid? b.grid).bind fun gr => (b.group? x.group).map fun g => (b, gr, g) with
    | some (b, gr, g) =>
      match b.refillReady g gr.desc.unit x.lane with
      | [] => s
      | p :: ps => (s.settleLate fun l => agentsMeet l.owner (.frag x.block x.group (maskOf (p :: ps)))).refillUnit x.block gr g (p :: ps)
    | none => s

-- Phases and fences.

/-- PHASE.CLOSE (R245): the fragment waits for the close. -/
def execPhaseClose (s : State) : Host.Outcome State Fault Refusal := sync s fun w _ s1 => s1.setWait w .close

/-- The lanes of a thread's group that stand with it at a wait, as an agent; their accesses ordered (R119). -/
def State.orderAt (s : State) (x : ThreadRef) (p : Wait → Bool) (pc : Nat) (cs : Nat → Bool) : State :=
  match (s.block? x.block).bind (·.group? x.group) with
  | some g =>
    let ls := (List.range 32).filter fun i => ((g.thread? i).map fun u => p u.wait && u.pc == pc).getD false
    s.orderOwn (.frag x.block x.group (maskOf ls)) cs
  | none => s

/-- PHASE_CLOSE_COMPLETE (R35, R120, R245): everything is published and written back; the fragment goes on. -/
def execPhaseCloseComplete (x : ThreadRef) (s : State) : Host.Outcome State Fault Refusal :=
  .next <|
    match (s.block? x.block).bind fun b => (s.thread? x).map fun t => (b, t) with
    | some (b, t) =>
      if t.wait == .close then
        let rank := b.rankOf x.group
        ((s.orderAt x (· == .close) t.pc allCls).closePhase x.block rank (b.coreOf rank)).modGroup x.block x.group
          (·.release (fun _ u => u.wait == .close && u.pc == t.pc) id)
      else s
    | none => s

/-- PHASE.OPEN (R246). -/
def execPhaseOpen (s : State) : Host.Outcome State Fault Refusal :=
  sync s fun w _ s1 => (((s1.setPc w (w.pc + 4)).orderOwn w.agent allCls).openPhase w.core w.ctx).tick

/-- FENCE.BLK (R127, R247): the threads' class-B stores are performed, and no later class-B load has been read ahead. -/
def execFenceBlk (s : State) : Host.Outcome State Fault Refusal :=
  sync s fun w _ s1 => (s1.setPc w (w.pc + 4)).orderOwn w.agent blkCls
/-- FENCE.DEV (R127, R247): those of classes B and D. -/
def execFenceDev (s : State) : Host.Outcome State Fault Refusal :=
  sync s fun w _ s1 => (s1.setPc w (w.pc + 4)).orderOwn w.agent devCls
/-- FENCE.SYS (R128, R247): the fragment waits. -/
def execFenceSys (s : State) : Host.Outcome State Fault Refusal := sync s fun w _ s1 => s1.setWait w .fence

/-- The threads of a block whose commit is in progress. -/
def Block.committing (b : Block) : List ThreadRef :=
  b.groups.flatMap fun g => (List.range 32).filterMap fun i =>
    match (g.thread? i).map fun (t : Thread) => t.wait with
    | some (.commit _) => some ⟨b.id, g.num, i⟩
    | _ => none

/-- The count of a context's outstanding writes (R78): the entries that wait, the write-backs that have started and the commits in
progress. -/
def State.outstanding (s : State) (ctx : Nat) : Nat :=
  let bs := s.blocks.filter fun b => s.blockCtx b.id == ctx
  (s.wq.stores.filter (·.ctx == ctx)).length +
    bs.foldl (fun n b => n + b.committing.length +
      (b.granules.filter fun x => ((b.granule? x.1 x.2).map (·.st)) == some .writing).length) 0

/-- Every write of a context that has entered a queue performed (R78, R128): what waits there, the write-backs that have started,
and the commits in progress, until its count is zero. -/
def State.drainCtx (s : State) (ctx : Nat) : State :=
  if s.outstanding ctx == 0 then s
  else
  let bs := s.blocks.filter fun b => s.blockCtx b.id == ctx
  let s1 := bs.foldl (fun (s : State) b =>
    (b.granules.filter fun x => ((b.granule? x.1 x.2).map (·.st)) == some .writing).foldl
      (fun (s : State) x => s.endWriteBack b.id x.1 x.2) s) (s.settleStores fun e => e.ctx == ctx)
  bs.foldl (fun (s : State) b => b.committing.foldl (fun (s : State) t => if s.versLost t then s else s.commit t) s) s1

/-- FENCE_SYS_COMPLETE (R127, R128): the threads' own accesses of every class but G are ordered, and the context's writes that
have entered a queue have been performed. -/
def execFenceSysComplete (x : ThreadRef) (s : State) : Host.Outcome State Fault Refusal :=
  .next <|
    match s.thread? x with
    | some t =>
      if t.wait == .fence then
        ((s.orderAt x (· == .fence) t.pc sysCls).drainCtx (s.blockCtx x.block)).modGroup x.block x.group
          (·.release (fun _ u => u.wait == .fence && u.pc == t.pc) id)
      else s
    | none => s

-- Completion waits.

/-- The uniform WAITC (R248). -/
def execWaitc (x : WaitU) (s : State) : Host.Outcome State Fault Refusal :=
  uniform s 0 (fun w => sOk w x.d.toNat 1 1) [(x.d.toNat, 1)] fun w => s.waitc w x.k.toNat (w.uni.sget x.d.toNat)

/-- WAITC.L (R248); the last of a chain reads the register from before it (R186). -/
def execWaitcL (x : WaitL) (s : State) : Host.Outcome State Fault Refusal :=
  perLane s fun w g =>
    if sOk w x.d.toNat 1 1 && s.sPoisoned w x.d.toNat 1 then s.laneFaultAll w g false .engineFault
    else syncIssue (fun w => sOk w x.d.toNat 1 1) s w g fun s1 => s1.waitc w x.k.toNat (w.srcUni.sget x.d.toNat)

/-- WAITC_SATISFIED (R248): the waiting lanes named, all at one program counter, or the control thread, join. -/
def execWaitcSatisfied (a : Agent) (s : State) : Host.Outcome State Fault Refusal :=
  .next <|
    let s0 := { s with cur := a }
    match s0.who with
    | none => s
    | some w =>
      match w.wait with
      | .waitc k v =>
        if w.threads.all (fun x => x.2.wait == .waitc k v && x.2.pc == w.pc) && s.waitcDone w k v then
          { s0.waitcJoin w k v with cur := s.cur }
        else s
      | _ => s

-- PHINT and TRAP.

/-- A liveness record's bytes (R194, R195), none where they cannot be read. -/
def State.liveRecord (s : State) (x : Site) (i : Nat) : Option (List Byte) :=
  match (s.globPlace x (x.grid.desc.codeBase + 64 + 64 * i) false).2 with
  | .ok (.glob k _ _ _) => some (s.readMem k 64)
  | .ok (.peer k) => (s.peerRead k 64).toOption
  | _ => none

/-- The AB ranges of a liveness record: start and length, unused ones left out (R195). -/
def recordRanges (r : List Byte) : List (Nat × Nat) :=
  (List.range 4).filterMap fun i =>
    let lo := ofBytes ((r.drop (24 + 8 * i)).take 4)
    let len := ofBytes ((r.drop (28 + 8 * i)).take 4)
    if len == 0 then none else some (lo, len)

/-- Whether PHINT i names a record that R194 allows. -/
def State.recordOk (s : State) (w : Who) (i : Nat) : Bool :=
  decide (i < w.grid.desc.recs) &&
    match s.liveRecord w.site i with
    | none => false
    | some r =>
      ((r.drop 17).take 7).all (· == 0) && ((r.drop 56).take 8).all (· == 0) &&
        (recordRanges r).all fun (lo, len) =>
          decide (lo + len ≤ abSize (s.ownQ w.site w.core)) &&
            !((s.contribs (s.ctxFn w.ctx) w.core).any fun c => decide (lo < c.1 + c.2) && decide (c.1 < lo + len))

/-- PHINT (R249): a running thread stops after it while a soft pre-emption of the block is pending. -/
def execPhint (x : PhI) (s : State) : Host.Outcome State Fault Refusal :=
  perLane s fun w g => syncIssue (fun w => s.recordOk w x.i.toNat) s w g fun s1 =>
    s1.modLanes w.blk.id g.num w.lanes fun _ t =>
      let t1 := { t with pc := (w.pc + 4) % 2 ^ 56 }
      match w.blk.pre with
      | .soft _ => if t.st == .running then { t1 with wait := .phint x.i.toNat } else t1
      | _ => t1

/-- TRAP (R250): the guarded lanes fault, after the chain that it ends (R188). A lane for which the chain's flags also raise an
enabled FLAG_TRAP takes TRAP_INSTRUCTION alone (log 9). -/
def execTrap (x : TrapK) (s : State) : Host.Outcome State Fault Refusal :=
  perLane s fun w g =>
    match w.lanes.filter fun l => s.pPoisoned ⟨w.blk.id, g.num, l⟩ x.g.toNat with
    | l :: ls => s.laneFaults w g false ((l :: ls).map fun i => ⟨i, .engineFault, 0, w.addr, w.pc, false⟩)
    | [] =>
      syncIssue (fun _ => true) s w g fun s1 =>
        let hit := (w.threads.filter fun (_, t) => t.guard x.g).map (·.1)
        (s1.setPc w (w.pc + 4)).takeTraps w.blk.id g.num false
          (hit.map fun l => ⟨l, .trapInstruction, x.k.toNat, w.addr, (w.pc + 4) % 2 ^ 56, false⟩)

-- The GTIMER deadline (R361).

/-- Whether an agent's deadline has been reached. -/
def Uni.due (u : Uni) : Bool := u.deadline != 0 && decide (u.deadline.toNat ≤ u.gtimer.toNat)

/-- The threads that take TIMER: RUNNING or WAITING, not in handler code; a commit in progress ends first (log 15). -/
def Thread.takesTimer (t : Thread) : Bool :=
  t.st == .running && (match t.wait with
    | .commit _ => false
    | _ => true)

/-- GTIMER_DEADLINE (R358, R361): at an instruction boundary, after any chain. -/
def execGtimerDeadline (a : Agent) (s : State) : Host.Outcome State Fault Refusal :=
  .next <|
    match a with
    | .frag b g _ =>
      match (s.block? b).bind (·.group? g) with
      | none => s
      | some x =>
        if !x.uni.due || x.chain.isSome || x.saved then s
        else
          let ls := (List.range 32).filterMap fun i => (x.thread? i).bind fun t =>
            if t.takesTimer then some (⟨i, .timer, 0, x.uni.deadline, t.pc, false⟩ : LaneTrap) else none
          (s.modGroup b g fun y => { y with uni := { y.uni with deadline := 0 } }).takeTraps b g false ls
    | .ctl b rank quad =>
      match (s.block? b).bind (·.ctl? rank quad) with
      | none => s
      | some c =>
        if !c.uni.due then s
        else
          let s1 := s.modCtl b rank quad fun y => { y with uni := { y.uni with deadline := 0 } }
          if c.st == .running then s1.takeCtlTrap b rank quad ⟨0, .timer, 0, c.uni.deadline, c.pc, false⟩ else s1
    | .none => s

end Sys2Proof.Machine
end

