-- ==== Sys2Proof/Machine/Preempt.lean ====
section
/-!
DEFINITION. Pre-emption (12_dispatch_and_issue.md R321; 13_policy_engines.md R328; 14_traps_preemption_debug.md R352 to R356, R358;
10_control_thread_and_engine_instructions.md R281; 11_refinement_loop.md R299; 01_address_spaces.md R37; 05_consistency.md
R140): victims, the two grades, the save of a group, and the swap-out of a block.
-/
namespace Sys2Proof.Machine

-- Frames and the spill area (R356).

/-- How many members of a saved block lie on a die's frames, or with none named in the spill area. -/
def Frame.members (f : Frame) (die : Option Nat) : Nat :=
  ((List.range f.spilled.length).filter fun i =>
    match die with
    | some k => !(f.spilled.getD i false) && f.dies.getD i 0 == k
    | none => f.spilled.getD i false).length

/-- The frames of a die that hold saved members. -/
def State.framesUsed (s : State) (die : Nat) : Nat :=
  s.blocks.foldl (fun n b => if b.pre == .swapped then n + ((b.frame.map (·.members (some die))).getD 0) else n) 0

/-- The members of a function's blocks that lie in its spill area. -/
def State.spillUsed (s : State) (fn : Nat) : Nat :=
  s.blocks.foldl (fun n b =>
    if b.pre == .swapped && s.blockFn b == fn then n + ((b.frame.map (·.members none)).getD 0) else n) 0

/-- The members of a die's blocks that are being pre-empted. -/
def State.leavingOn (s : State) (die : Nat) : Nat :=
  s.blocks.foldl (fun n b =>
    if b.resident && b.pre != .none && b.cluster / 4 == die then n + b.cores.length else n) 0

/-- Whether a block's members could be saved beside those already leaving and `more` others: what the die's free frames do
not take must fit in the function's spill area (log 33). -/
def State.spillFits (s : State) (b : Block) (more : Nat) : Bool :=
  let fn := s.blockFn b
  let die := b.cluster / 4
  let beyond := s.framesUsed die + s.leavingOn die + more + b.cores.length - 16
  beyond == 0 || decide ((s.spillUsed fn + beyond) * frameBytes ≤ (s.fnRegs fn).spillSize.toNat)

/-- Whether a block may be chosen as a victim (R356, R358). -/
def State.mayYield (s : State) (b : Block) (more : Nat) : Bool :=
  b.resident && b.pre == .none && !s.anyFrozen b (((s.grid? b.grid).map (·.ctx)).getD 0) && s.spillFits b more

-- Requests (R352).

/-- GRACE of PECTL. -/
def Disp.grace (d : Disp) : Nat := bitsOf d.pectl.toNat 16 0

/-- A microsecond on the device's timeline. -/
def usec : Nat := 17000

/-- A soft request; a grace window of 0 takes the block at the hard grade at once. -/
def State.preempt (s : State) (b : Nat) : State :=
  s.modBlock b fun x =>
    let g := (s.disp x.cluster).grace
    if x.pre != .none then x else { x with pre := if g == 0 then .hard else .soft (s.clk17 + g * usec) }

/-- The resident blocks of a cluster that match, longest resident first. -/
def State.longest (s : State) (cluster : Nat) (p : Block → Bool) : List Block :=
  sortBy (fun x y => decide (x.placedNs ≤ y.placedNs)) (s.blocks.filter fun b => b.resident && b.cluster == cluster && p b)

/-- The first n blocks of a list that may yield, each counted against the room of the next. -/
def State.takeYield (s : State) : Nat → Nat → List Block → List Nat
  | 0, _, _ => []
  | _, _, [] => []
  | n + 1, more, b :: r =>
    if s.mayYield b more then b.id :: s.takeYield n (more + b.cores.length) r else s.takeYield (n + 1) more r

-- Time-slicing (R321).

/-- A block counted as gone. -/
def State.without (s : State) (b : Nat) : State := s.modBlock b fun x => { x with pre := .swapped }

/-- Whether TryPlace for a head would succeed in a state. -/
def State.wouldPlace (s : State) (g : Grid) (cluster : Nat) (old : Option Block) : Bool :=
  (s.findPlace g cluster old).2.isSome

/-- Victims taken in order until the head would be placed; none where all of them do not suffice. -/
def State.pickVictims (s : State) (g : Grid) (cluster : Nat) (old : Option Block) : State → Nat → List Block → List Nat
  | _, _, [] => []
  | freed, more, b :: r =>
    if freed.wouldPlace g cluster old then []
    else if s.mayYield b more then b.id :: s.pickVictims g cluster old (freed.without b.id) (more + b.cores.length) r
    else s.pickVictims g cluster old freed more r

/-- The head of a cluster that has been reserved for TSLICE without placing a block. -/
def State.slicedHead (s : State) (cluster : Nat) : Option Grid :=
  let d := s.disp cluster
  (d.head.bind s.grid?).bind fun g =>
    if g.reserved && decide (g.reservedAt + d.tslice * usec ≤ s.clk17) && s.hasWork g cluster then some g else none

/-- The victims of a cluster's head now; blocks already being pre-empted there count as gone. -/
def State.victims (s : State) (cluster : Nat) (g : Grid) : List Nat :=
  let d := s.disp cluster
  let old := (s.swappedOf g.id).head?
  let gone := (s.blocks.filter fun b => b.resident && b.cluster == cluster && b.pre != .none).foldl
    (fun (s : State) b => s.without b.id) s
  let cands := s.longest cluster fun b =>
    b.pre == .none && ((s.grid? b.grid).map fun x => decide (x.prio ≤ g.prio)).getD false &&
      decide (b.placedNs + d.tslice * 1000 ≤ s.ns)
  let vs := s.pickVictims g cluster old gone 0 cands
  if (vs.foldl (fun (s : State) v => s.without v) gone).wouldPlace g cluster old then vs else []

/-- TSLICE_EXPIRY (R321). -/
def execTsliceExpiry (cluster : Nat) (s : State) : Host.Outcome State Fault Refusal :=
  .next <|
    match s.slicedHead cluster with
    | none => s
    | some g =>
      match s.victims cluster g with
      | [] => s
      | v :: vs =>
        let earlier := match (s.disp cluster).victims with
          | some (h, l) => if h == g.id then l else []
          | none => []
        let tokens (v : Nat) : Nat := (((s.block? v).bind fun b => s.grid? b.grid).map (·.desc.tokens)).getD 0
        ((v :: vs).foldl (fun (s : State) b => s.preempt b) s).modDisp cluster fun d =>
          { d with victims := some (g.id, earlier ++ (v :: vs).map fun v => (some v, tokens v)) }

/-- Whether a block's grace window has ended. -/
def State.graceOver (s : State) (b : Block) : Bool :=
  match b.pre with
  | .soft e => b.resident && decide (e ≤ s.clk17)
  | _ => false

-- The save of a group (R353 to R355).

/-- The record a thread stopped at a PHINT named. -/
def Thread.hint (t : Thread) : Option Nat :=
  match t.wait with
  | .phint i => some i
  | _ => none

/-- Whether a thread counts as stopped at the soft grade. -/
def Thread.stopped (t : Thread) : Bool := t.st == .parked || t.st == .drained || (t.st == .running && t.hint.isSome)

/-- Whether a thread's commit or close, once begun, has still to complete (R251). -/
def Thread.completing (t : Thread) : Bool :=
  match t.wait with
  | .commit _ => true
  | .close => true
  | _ => false

/-- Whether a group may be saved now, at its block's grade. -/
def State.savable (s : State) (b : Block) (g : Group) : Bool :=
  b.resident && !g.saved && !g.retired && g.chain.isNone &&
    !s.frozen b (((s.grid? b.grid).map (·.ctx)).getD 0) (b.rankOf g.num) (b.quadOf g.num) &&
    match b.pre with
    | .soft _ => g.threads.all Thread.stopped
    | .hard => g.threads.all fun t => !t.completing
    | _ => false

/-- The records that decide what a group's save keeps: those of its PHINTs at the soft grade, every record of the kernel at the
hard grade; and whether the save is soft. -/
def Group.saveRecords (g : Group) (pre : Pre) (recs : Nat) : List Nat × Bool :=
  match pre with
  | .soft _ => (g.threads.filterMap Thread.hint, true)
  | _ => (List.range recs, false)

/-- The union of some records' bytes as numbers: VMASK, SMASK, PMASK (R195). -/
def saveMasks (rs : List (List Byte)) : Nat × Nat × Nat :=
  rs.foldl (fun (a : Nat × Nat × Nat) r =>
    (a.1 ||| ofBytes (r.take 8), a.2.1 ||| ofBytes ((r.drop 8).take 8), a.2.2 ||| ofBytes ((r.drop 16).take 1))) (0, 0, 0)

/-- The masks of registers a save keeps: all at the hard grade; all outside the clear range where no thread stands at a
PHINT; else those the records name. -/
def GridDesc.keeps (d : GridDesc) (soft : Bool) (hints : Bool) (rs : List (List Byte)) : Nat × Nat × Nat :=
  if !soft then (2 ^ 64 - 1, 2 ^ 64 - 1, 255)
  else if hints then saveMasks rs
  else
    let clr := if d.clear then (List.range 64).foldl (fun m i => if d.vlo ≤ i && i ≤ d.vhi then m ||| 2 ^ i else m) 0 else 0
    (2 ^ 64 - 1 - clr, 2 ^ 64 - 1, 255)

/-- Registers of a file that a mask does not name, read as zero. -/
def keepRegs (m : Nat) (v : List Word) : List Word := (List.range v.length).map fun i => if bitOf m i then v.getD i 0 else 0

/-- A group as its save leaves it. -/
def Group.keep (g : Group) (m : Nat × Nat × Nat) : Group :=
  let th := g.threads.map fun t => { t with v := keepRegs m.1 t.v, p := t.p &&& BitVec.ofNat 8 m.2.2 }
  { g with saved := true, uni := { g.uni with s := keepRegs m.2.1 g.uni.s }, threads := th }

/-- Whether a poisoned register of a group is one that a save does not keep. -/
def PoisonReg.lost (p : PoisonReg) (b g : Nat) (m : Nat × Nat × Nat) : Bool :=
  match p with
  | .v t r => t.block == b && t.group == g && !bitOf m.1 r
  | .p t r => t.block == b && t.group == g && !bitOf m.2.2 r
  | .s x r => x.block == b && x.group == g && !bitOf m.2.1 r
  | _ => false

/-- A save with nothing in it. -/
def Frame.empty : Frame := ⟨[], [], [], [], false, [], [], []⟩

/-- AB ranges added to what a block's save keeps, each once. -/
def Frame.addRanges (f : Frame) (ab : List (Nat × Nat × Nat)) : Frame :=
  { f with ranges := ab.foldl (fun l e => if l.contains e then l else l ++ [e]) f.ranges }

/-- A group saved: what is not kept becomes zero, and its AB ranges join the block's. -/
def State.saveGroup (s : State) (b : Block) (gr : Grid) (g : Group) : State :=
  let rank := b.rankOf g.num
  let x : Site := ⟨b, gr, rank, b.quadOf g.num, b.coreOf rank⟩
  let sel := g.saveRecords b.pre gr.desc.recs
  let rs := sel.1.filterMap fun i => s.liveRecord x i
  let m := gr.desc.keeps sel.2 (!sel.1.isEmpty) rs
  let ab : List (Nat × Nat × Nat) := rs.flatMap fun r => (recordRanges r).map fun (a : Nat × Nat) => (rank, a.1, a.2)
  let s1 := s.modBlock b.id fun y =>
    let f := y.frame.getD Frame.empty
    { y.modGroup g.num (·.keep m) with frame := some (f.addRanges ab) }
  { s1 with regPoison := s1.regPoison.filter fun p => !p.lost b.id g.num m }

/-- A group of a block with its grid, where it may be saved now. -/
def State.toSave (s : State) (x : GroupRef) : Option (Block × Grid × Group) :=
  (s.block? x.block).bind fun b => (s.grid? b.grid).bind fun gr =>
    (b.group? x.group).bind fun g => if s.savable b g then some (b, gr, g) else none

/-- A group that may be saved is saved, its issued accesses made first (R251). -/
def State.saveNow (s : State) (x : GroupRef) : State :=
  if (s.toSave x).isNone then s
  else
    let s1 := s.settleLate fun l => agentsMeet l.owner (.frag x.block x.group 0xFFFFFFFF)
    match s1.toSave x with
    | some (b, gr, g) => s1.saveGroup b gr g
    | none => s1

/-- GROUP_SAVE (R353 to R355). -/
def execGroupSave (x : GroupRef) (s : State) : Host.Outcome State Fault Refusal := .next (s.saveNow x)

/-- The groups of a block that are stopped at the soft grade saved there: its grace window ends for the others (R352, R353). -/
def State.saveStopped (s : State) (block : Nat) : State :=
  ((s.block? block).map fun b => b.groups).getD [] |>.foldl (fun (s : State) g => s.saveNow ⟨block, g.num⟩) s

/-- GRACE_WINDOW_EXPIRY (R352, R353): the groups not yet stopped are taken at the hard grade, engine operations are cut. -/
def execGraceWindowExpiry (block : Nat) (s : State) : Host.Outcome State Fault Refusal :=
  .next <|
    match s.block? block with
    | some b => if s.graceOver b then (s.saveStopped block).modBlock block fun x => { x with pre := .hard } else s
    | none => s

-- The swap-out of a block (R281, R355, R356).

/-- Whether an operation that a swap-out completes first has still to. -/
def State.finishesNow (s : State) (o : EngOp) : Bool :=
  s.mustFinish o &&
    match o.kind with
    | .tryAlloc _ => s.queueHead o
    | .swap => o.started || s.mxReady o
    | _ => true

/-- Whether an operation belongs to the refinement controller, whose live run is cut at its boundary at either grade (R299). -/
def EngOp.isRfl (o : EngOp) : Bool := o.queue == .rfl

/-- Whether a block leaves its cores now: every group saved or retired; at the soft grade no operation runs on, at the hard
grade none has still to finish; a refinement run whose DONE has begun is between two boundaries (R299). -/
def State.swapReady (s : State) (b : Block) : Bool :=
  let ops := s.ops.filter (·.block == b.id)
  b.resident && b.groups.all (fun g => g.saved || g.retired) && !s.anyFrozen b (((s.grid? b.grid).map (·.ctx)).getD 0) &&
    match b.pre with
    | .soft _ => ops.all fun o => o.isRfl && o.got.isEmpty
    | .hard => ops.all fun o => !s.finishesNow o && (!o.isRfl || o.got.isEmpty)
    | _ => false

/-- The CB offset of a place on a core, through an owner's logical banks. -/
def cbOff (owned : List Nat) (core key : Nat) : Option Nat :=
  if key < cbPlace core 0 0 0 || cbPlace (core + 1) 0 0 0 ≤ key then none
  else
    let k := key - cbPlace core 0 0 0
    (indexWhere owned (· == k / 65536 / 4)).map fun i => (4 * i + k / 65536 % 4) * 65536 + k % 65536

/-- Where a member's saved storage holds a place: the kind and offset, one for each range that covers it. -/
def State.savedAt (s : State) (b : Block) (fn : Nat) (d : GridDesc) (f : Frame) (rank key : Nat) : List (Nat × Nat) :=
  let core := b.coreOf rank
  let owned := s.ownedQuads core fn
  let ab := match abOff owned core key with
    | none => []
    | some a =>
      (if b.cbase ≤ a && a < b.cbase + d.c * 2 ^ 16 then [(0, a - b.cbase)] else []) ++
        (if f.ranges.any (fun x => x.1 == rank && decide (x.2.1 ≤ a) && decide (a < x.2.1 + x.2.2)) then [(2, a)] else [])
  let cb := match cbOff owned core key with
    | none => []
    | some a => if b.cb.any (fun e => e.1 == rank && e.2 == a / 65536) then [(1, a)] else []
  ab ++ cb

/-- The save of a block's storage (R355): bytes that are not zero, bank counters, poisoned units; frames first, then spill. -/
def State.frameOf (s : State) (b : Block) (fn : Nat) (d : GridDesc) : Frame :=
  let f := b.frame.getD Frame.empty
  let ranks := List.range b.cores.length
  let die := b.cluster / 4
  let room := 16 - s.framesUsed die
  let places := s.spillRoom fn (ranks.length - room)
  { f with
    bytes := s.mem.flatMap fun (c : Nat × Byte) => ranks.flatMap fun r =>
      (s.savedAt b fn d f r c.1).map fun (k : Nat × Nat) => (⟨r, k.1, k.2, c.2⟩ : SavedByte),
    counters := b.cb.map fun (e : Nat × Nat) =>
      let core := b.coreOf e.1
      (e.1, e.2, tabGet s.cbCount (core * 16 + physBank (s.ownedQuads core fn) e.2) (0, 0, 0)),
    spilled := ranks.map fun (r : Nat) => decide (room ≤ r),
    dies := ranks.map fun _ => die,
    spillAt := ranks.map fun (r : Nat) => places.getD (r - room) 0,
    poison := s.poison.flatMap fun (u : Nat × Nat) => ranks.flatMap fun r =>
      (s.savedAt b fn d f r u.1).map fun (k : Nat × Nat) => (r, k.1, k.2, u.2) }

/-- An operation as a swap-out leaves it (R281): a load or a zeroing starts afresh; no fill is waited for, and what was read
of a row or a plane is read again. -/
def EngOp.cut (o : EngOp) : EngOp :=
  let x := { o with waitGran := none, replay := false, rowIn := [], planeIn := [] }
  match o.kind with
  | .lds _ => { x with started := false, prog2 := 0 }
  | .zero _ => { x with started := false, prog := 0, prog2 := 0 }
  | _ => x

/-- The events of a swap-out (R327): BLOCK at the cluster left, WAKE at every cluster of the grid's masks. -/
def State.swapEvents (s : State) (b : Block) (g : Grid) : State :=
  let t := s.tenantOf g
  let s1 := s.fire b.cluster ⟨3, g.id, t, (s.ns - b.placedNs) / 1000⟩
  (g.offers.map (·.cluster)).foldl (fun (s : State) k => s.fire k ⟨4, g.id, t, 0⟩) s1

/-- The AB ranges that the hard grade keeps of members whose groups have retired: those of every record of the kernel (R355). -/
def State.retiredRanges (s : State) (b : Block) (gr : Grid) : List (Nat × Nat × Nat) :=
  if b.pre != .hard then []
  else
    (b.groups.filter (·.retired)).flatMap fun g =>
      let rank := b.rankOf g.num
      let x : Site := ⟨b, gr, rank, b.quadOf g.num, b.coreOf rank⟩
      ((List.range gr.desc.recs).filterMap (s.liveRecord x)).flatMap fun r =>
        (recordRanges r).map fun (a : Nat × Nat) => (rank, a.1, a.2)

/-- A block's storage as it leaves: its accesses made, its pending bytes published, its planes and AB ranges noted in its
record. -/
def State.leaveCores (s : State) (b : Block) (g : Grid) : State :=
  let s1 := (List.range b.cores.length).foldl (fun (s : State) r => s.publishAll b.id r (b.coreOf r)) (s.orderBlock b.id)
  s1.modBlock b.id fun x =>
    { x with
      frame := some ((x.frame.getD Frame.empty).addRanges (s1.retiredRanges x g)),
      pairs := x.pairs.map fun p =>
        { p with savedActive := (s1.planesOf b p.rank p.quad).1, savedShadow := (s1.planesOf b p.rank p.quad).2 } }

/-- A block swapped out (R140, R281, R355): waiting accesses made and pending bytes published, granules cut (R37), storage
saved, its cores given up. -/
def State.swapOut (s : State) (b : Block) : State :=
  match s.grid? b.grid with
  | none => s
  | some g =>
    let s1 := s.leaveCores b g
    let b := (s1.block? b.id).getD b
    let f := s1.frameOf b (s.ctxFn g.ctx) g.desc
    let out := f.images.foldl (fun (s : State) i => s.putImage b f i.1 i.2) s1
    let kept := { f with bytes := f.bytes.filter fun x => !(f.spilled.getD x.rank false) }
    let s2 := out.modBlock b.id fun x =>
      { x with pre := .swapped, frame := some kept, regions := x.regions.map fun r => { r with grans := r.grans.map Granule.cut } }
    let s3 := { s2 with ops := modIf s2.ops (fun o => o.block == b.id) EngOp.cut }
    (((s3.dropRfl b.id).swapEvents b g).wantRounds).tick

/-- Every block that is ready to leave. -/
def State.swapOuts (s : State) : State :=
  s.blocks.foldl (fun (s : State) b =>
    match s.block? b.id with
    | some x => if s.swapReady x then s.swapOut x else s
    | none => s) s

end Sys2Proof.Machine
end

