-- ==== Sys2Proof/Machine/Tregal.lean ====
section
/-!
DEFINITION. Tregal (13_policy_engines.md R329 to R336, R338 to R341): the bytecode, the engine that runs a routine, and
the loader's checks.
-/
namespace Sys2Proof.Machine

-- Words (R331).

def trOp (w : Nat) : Nat := bitsOf w 31 24
def trA (w : Nat) : Nat := bitsOf w 23 20
def trB (w : Nat) : Nat := bitsOf w 19 16
def trImm (w : Nat) : Nat := w % 2 ^ 16

/-- The counters: first number and length of each scalar and vector (R335). -/
def counterTable : List (Nat × Nat) :=
  [(0x000, 1), (0x001, 1), (0x002, 1), (0x003, 1), (0x004, 1), (0x005, 1), (0x010, 16), (0x020, 16), (0x030, 1),
   (0x031, 1), (0x032, 1), (0x040, 16), (0x050, 16), (0x060, 16), (0x070, 16), (0x080, 16), (0x090, 16), (0x0A0, 1),
   (0x100, 16), (0x110, 16), (0x120, 16), (0x130, 16), (0x140, 16), (0x150, 1), (0x200, 64), (0x240, 64), (0x280, 64),
   (0x2C0, 64), (0x300, 64), (0x340, 64), (0x380, 4), (0x384, 4)]

/-- The length of the vector that begins at a number. -/
def vectorLen (n : Nat) : Option Nat := (counterTable.find? (·.1 == n)).map (·.2)
/-- Whether a number is in the table. -/
def counterListed (n : Nat) : Bool := counterTable.any fun e => decide (e.1 ≤ n) && decide (n < e.1 + e.2)

/-- The decision registers of a point (R327). -/
def pointRegs (p : Nat) : Nat := if p == 2 || p == 5 then 2 else 1
/-- The allowance of a point's routine. -/
def allowance (p : Nat) : Nat :=
  match p with
  | 0 => 256
  | 1 => 512
  | 2 => 1024
  | 3 => 256
  | 4 => 512
  | _ => 2048

/-- Whether a kind of set may hold a routine for a point. -/
def mayHold (ring : Bool) (p : Nat) : Bool := if ring then p == 1 || p == 2 || p == 5 else p != 2

/-- The cycles of a word; a scan's quarter is rounded up (log 27). -/
def trCycles (w : Nat) : Nat :=
  match trOp w with
  | 0x50 => 4
  | 0x51 => 4
  | 0x52 => 3
  | 0x53 => 3
  | 0x54 => 140
  | 0x55 => 140
  | 0x56 => 140
  | 0x60 => scan
  | 0x61 => scan
  | _ => 1
where
  scan : Nat :=
    match trImm w / 2 ^ 14 with
    | 0 => 4 + ceilDiv ((vectorLen (trImm w % 2 ^ 12)).getD 1) 4
    | 1 => 7
    | _ => 144

-- The engine (R330, R332 to R334).

/-- A counter as the routine captured it. -/
def TrEnv.ctr (e : TrEnv) (n : Nat) : Nat := ((e.ctrs.find? (·.1 == n)).map (·.2)).getD 0

def TrRun.get (r : TrRun) (i : Nat) : Nat := r.g.getD i 0
def TrRun.put (r : TrRun) (i v : Nat) : TrRun := { r with g := r.g.set i (v % 2 ^ 64) }
def TrRun.next (r : TrRun) : TrRun := { r with pc := r.pc + 1 }
/-- A register written and the next word. -/
def TrRun.write (r : TrRun) (i v : Nat) : TrRun := (r.put i v).next

/-- SignExtend(imm16, 64). -/
def imm64 (i : Nat) : Nat := toBits 64 (sext 16 i)

/-- The window of a set: die, base offset, bytes, rights (R338). -/
def winDie (w : DWord) : Nat := bitsOf w.toNat 2 1
def winBase (w : DWord) : Nat := bitsOf w.toNat 17 8 * 4096
def winSize (w : DWord) : Nat := 64 * 2 ^ bitsOf w.toNat 7 4

/-- The address a window word reaches. -/
def winAddr (r : TrRun) (w : Nat) : Nat :=
  trImm w % 2 ^ 12 + 8 * (r.get (trB w) % 2 ^ (trImm w / 2 ^ 12))

/-- An entry that names a context of a tenant with a right (R89, R333). -/
def State.tenantGrant (s : State) (tenant : Nat) (op : Acc) (e : DWord) : Bool :=
  grantHas (bitsOf e.toNat 56 45) op e && (s.ctxDesc (bitsOf e.toNat 56 45)).tenant == tenant

/-- An entry that names a context of a tenant with each of some rights (R340). -/
def State.tenantHolds (s : State) (tenant : Nat) (rights : List Acc) (e : DWord) : Bool :=
  grantNames (bitsOf e.toNat 56 45) e && (s.ctxDesc (bitsOf e.toNat 56 45)).tenant == tenant &&
    rights.all fun op => s.tenantGrant tenant op e

/-- Whether a set may make a mailbox access of its window (R333). -/
def State.mbxAllowed (s : State) (x : TrSet) (op : Acc) (off n : Nat) : Bool :=
  if x.tenant == 16 then true
  else grantsCover (s.tenantGrant x.tenant op) (s.dieHw (winDie x.window)).mbxg 65 (winBase x.window + off) n

/-- A word of the state window, a buffered write first. -/
def TrRun.stateWord (r : TrRun) (e : TrEnv) (off : Nat) : Nat :=
  match r.buf.reverse.find? (·.1 == off) with
  | some b => b.2
  | none => (e.window.getD (off / 8) 0).toNat

/-- The index and value of the least, or greatest, word among those a mask names; ties go to the lowest index. -/
def scanWords (max : Bool) (mask : Nat) (ws : List Nat) : Nat × Nat :=
  let f (best : Option (Nat × Nat)) (i : Nat) : Option (Nat × Nat) :=
    let v := ws.getD i 0
    if !bitOf mask i then best
    else
      match best with
      | none => some (i, v)
      | some b => if (if max then decide (b.2 < v) else decide (v < b.2)) then some (i, v) else some b
  ((List.range ws.length).foldl f none).getD (2 ^ 64 - 1, 0)

/-- RAND's generator (R334). -/
def randStep (x : Nat) : Nat :=
  let a := x ^^^ (x * 2 ^ 13 % 2 ^ 64)
  let b := a ^^^ (a / 2 ^ 7)
  b ^^^ (b * 2 ^ 17 % 2 ^ 64)

/-- ENDLOOP. -/
def TrRun.endLoop (r : TrRun) : TrRun :=
  match r.loops with
  | [] => r.next
  | l :: ls =>
    if l.left ≤ 1 then { r with loops := ls }.next
    else { (r.put l.reg l.next) with pc := l.body, loops := { l with left := l.left - 1, next := l.next + 1 } :: ls }

/-- A branch. -/
def TrRun.branch (r : TrRun) (w : Nat) (c : Bool) : TrRun := { r with pc := r.pc + 1 + if c then trImm w else 0 }

/-- A scan over its source, the mailbox window's words one at a time (R334). -/
def TrRun.scan (r : TrRun) (e : TrEnv) (w : Nat) (s : State) : State × TrRun :=
  let off := trImm w % 2 ^ 12
  let max := trOp w == 0x61
  let put (ws : List Nat) : TrRun :=
    let (i, v) := scanWords max (r.get (trB w)) ws
    (r.put (trA w) i).write (trA w + 1) v
  match trImm w / 2 ^ 14 with
  | 0 => (s, put ((List.range ((vectorLen off).getD 1)).map fun i => e.ctr (off + i)))
  | 1 => (s, put ((List.range 16).map fun i => r.stateWord e (off + 8 * i)))
  | _ =>
    if s.mbxAllowed e.set .read off 128 then
      let ws := r.scanned ++ [s.word64 (mbxPlace (winDie e.set.window) (winBase e.set.window + off + 8 * r.scanned.length))]
      (s.tick, if ws.length < 16 then { r with scanned := ws } else { put ws with scanned := [] })
    else (s, { r with stopped := true })

/-- MLD, MST and MCAS. -/
def TrRun.mbx (r : TrRun) (e : TrEnv) (w : Nat) (s : State) : State × TrRun :=
  let off := if trOp w == 0x56 then trImm w % 2 ^ 12 else winAddr r w
  let k := mbxPlace (winDie e.set.window) (winBase e.set.window + off)
  let op : Acc := if trOp w == 0x54 then .read else if trOp w == 0x55 then .write else .atomic
  if !s.mbxAllowed e.set op off 8 then (s, { r with stopped := true })
  else
    let old := ofBytes (s.readMem k 8)
    match op with
    | .read => (s.tick, r.write (trA w) old)
    | .write => ((s.writeMem k (toBytes 8 (r.get (trA w)))).tick, r.next)
    | .atomic =>
      ((if old == r.get (trA w) then s.writeMem k (toBytes 8 (r.get (trB w))) else s).tick, r.write (trA w) old)

/-- One word that touches registers alone. -/
def TrRun.alu (r : TrRun) (e : TrEnv) (w : Nat) : TrRun :=
  let a := r.get (trA w)
  let b := r.get (trB w)
  let i := trImm w
  match trOp w with
  | 0x01 => r.write (trA w) (imm64 i)
  | 0x10 => r.write (trA w) (a + b)
  | 0x11 => r.write (trA w) (a + 2 ^ 64 - b)
  | 0x12 => r.write (trA w) (a * b)
  | 0x13 => r.write (trA w) (a &&& b)
  | 0x14 => r.write (trA w) (a ||| b)
  | 0x15 => r.write (trA w) (a ^^^ b)
  | 0x16 => r.write (trA w) (min a b)
  | 0x17 => r.write (trA w) (max a b)
  | 0x18 => r.write (trA w) (popCount 64 b)
  | 0x20 => r.write (trA w) (b + imm64 i)
  | 0x21 => r.write (trA w) (b &&& i)
  | 0x22 => r.write (trA w) (b ||| i)
  | 0x23 => r.write (trA w) (b * 2 ^ i)
  | 0x24 => r.write (trA w) (b / 2 ^ i)
  | 0x30 => r.branch w (a == b)
  | 0x31 => r.branch w (a != b)
  | 0x32 => r.branch w (decide (a < b))
  | 0x33 => r.branch w true
  | 0x40 => { (r.put (trA w) 0) with pc := r.pc + 1, loops := ⟨r.pc + 1, i, trA w, 1⟩ :: r.loops }
  | 0x41 => r.endLoop
  | 0x50 => r.write (trA w) (e.ctr i)
  | 0x51 => r.write (trA w) (e.ctr (i + b % ((vectorLen i).getD 1)))
  | 0x52 => r.write (trA w) (r.stateWord e (winAddr r w))
  | 0x53 => { r with buf := r.buf ++ [(winAddr r w, a)] }.next
  | 0x70 => { r with d := r.d.set (i % 16) a }.next
  | 0x7F => { r with done := true }
  | _ => r.next

/-- The generator's next value, kept by the dispatcher. -/
def State.rand (s : State) (cluster : Nat) : State × Nat :=
  let v := randStep (s.disp cluster).gen.toNat
  (s.modDisp cluster fun d => { d with gen := BitVec.ofNat 64 v }, v)

/-- One word of a routine, or of one that scans mailbox memory the next read. -/
def TrRun.word (r : TrRun) (e : TrEnv) (s : State) : State × TrRun :=
  let w := (e.code.getD r.pc 0).toNat
  let r1 := if r.scanned.isEmpty then { r with cycles := r.cycles + trCycles w } else r
  if r1.cycles ≥ allowance e.point && trOp w != 0x7F then (s, { r1 with stopped := true })
  else
    match trOp w with
    | 0x54 => r1.mbx e w s
    | 0x55 => r1.mbx e w s
    | 0x56 => r1.mbx e w s
    | 0x60 => r1.scan e w s
    | 0x61 => r1.scan e w s
    | 0x71 => let (s1, v) := s.rand e.cluster; (s1, r1.write (trA w) v)
    | _ => (s, r1.alu e w)

/-- Words until DONE or a stop. -/
def TrRun.go (e : TrEnv) : Nat → TrRun → State → State × TrRun
  | 0, r, s => (s, { r with stopped := true })
  | k + 1, r, s =>
    if r.done || r.stopped then (s, r)
    else
      let (s1, r1) := r.word e s
      TrRun.go e k r1 s1

/-- A routine at its first word (R329). -/
def TrRun.first (defaults : List Nat) : TrRun := ⟨List.replicate 16 0, defaults, 0, [], [], 0, [], false, false⟩

/-- The counters that a word names (R331). -/
def namedCounters (w : Nat) : List Nat :=
  let vector (n : Nat) : List Nat := (List.range ((vectorLen n).getD 1)).map (n + ·)
  match trOp w with
  | 0x50 => [trImm w]
  | 0x51 => vector (trImm w)
  | 0x60 => if trImm w / 2 ^ 14 == 0 then vector (trImm w % 2 ^ 12) else []
  | 0x61 => if trImm w / 2 ^ 14 == 0 then vector (trImm w % 2 ^ 12) else []
  | _ => []

/-- The counters that a routine names, captured at its start (R329). -/
def captured (code : List Word) (ctr : Nat → Nat) : List (Nat × Nat) :=
  (code.flatMap fun w => namedCounters w.toNat).eraseDups.map fun n => (n, ctr n)

-- The loader (R338 to R340).

/-- The codes of R339. -/
inductive TrErr where
  | image | length | opcode | operand | branch | loop | window | counter | decision | bound | grant | access
deriving DecidableEq, Repr

def TrErr.code : TrErr → Nat
  | .image => 1 | .length => 2 | .opcode => 3 | .operand => 4 | .branch => 5 | .loop => 6 | .window => 7
  | .counter => 8 | .decision => 9 | .bound => 10 | .grant => 11 | .access => 12

/-- The op values of R331. -/
def trOps : List Nat :=
  [0x01, 0x10, 0x11, 0x12, 0x13, 0x14, 0x15, 0x16, 0x17, 0x18, 0x20, 0x21, 0x22, 0x23, 0x24, 0x30, 0x31, 0x32, 0x33,
   0x40, 0x41, 0x50, 0x51, 0x52, 0x53, 0x54, 0x55, 0x56, 0x60, 0x61, 0x70, 0x71, 0x7F]

/-- The limits and zero fields of a word whose op is listed. -/
def trOperandOk (w : Nat) : Bool :=
  let a := trA w
  let b := trB w
  let i := trImm w
  let op := trOp w
  if op == 0x01 || op == 0x50 then b == 0
  else if 0x10 ≤ op && op ≤ 0x18 then i == 0
  else if op == 0x23 || op == 0x24 then decide (i ≤ 63)
  else if op == 0x33 then a == 0 && b == 0
  else if op == 0x40 then b == 0 && decide (1 ≤ i) && decide (i ≤ 64)
  else if op == 0x41 || op == 0x7F then a == 0 && b == 0 && i == 0
  else if 0x52 ≤ op && op ≤ 0x55 then i / 2 ^ 12 != 0 || b == 0
  else if op == 0x56 then i / 2 ^ 12 == 0
  else if op == 0x60 || op == 0x61 then decide (a ≤ 14) && i / 2 ^ 14 != 3 && bitsOf i 13 12 == 0
  else if op == 0x70 then b == 0 && i / 16 == 0
  else if op == 0x71 then b == 0 && i == 0
  else true

/-- Whether a word's counter numbers are listed. -/
def trCounterOk (w : Nat) : Bool :=
  let i := trImm w
  match trOp w with
  | 0x50 => counterListed i
  | 0x51 => (vectorLen i).isSome
  | 0x60 => i / 2 ^ 14 != 0 || (vectorLen (i % 2 ^ 12)).isSome
  | 0x61 => i / 2 ^ 14 != 0 || (vectorLen (i % 2 ^ 12)).isSome
  | _ => true

/-- Whether a reach lies in the declared mailbox window with a right (bit of the rights field). -/
def mbxReach (win : DWord) (right off last : Nat) : Bool :=
  bitOf win.toNat 0 && bitOf win.toNat (18 + right) && off % 8 == 0 && decide (last + 8 ≤ winSize win)

/-- The window checks of a word. -/
def trWindowOk (win : DWord) (w : Nat) : Bool :=
  let i := trImm w
  let off := i % 2 ^ 12
  let last := off + 8 * (2 ^ (i / 2 ^ 12) - 1)
  let here := off % 8 == 0 && decide (last + 8 ≤ 1024)
  let scan := if i / 2 ^ 14 == 1 then off % 8 == 0 && decide (off + 120 + 8 ≤ 1024)
    else if i / 2 ^ 14 == 2 then mbxReach win 0 off (off + 120) else true
  match trOp w with
  | 0x52 => here
  | 0x53 => here
  | 0x54 => mbxReach win 0 off last
  | 0x55 => mbxReach win 1 off last
  | 0x56 => mbxReach win 2 off off
  | 0x60 => scan
  | 0x61 => scan
  | _ => true

/-- CheckWord. -/
def checkWord (win : DWord) (p w : Nat) : Option TrErr :=
  if !trOps.contains (trOp w) then some .opcode
  else if !trOperandOk w then some .operand
  else if !trCounterOk w then some .counter
  else if trOp w == 0x70 && pointRegs p ≤ trImm w % 16 then some .decision
  else if !trWindowOk win w then some .window
  else none

/-- A loader's view of a routine: for each word the loop body it lies in, and for each LOOP its end. -/
structure TrShape where
  body : List (Option Nat)
  ends : List (Nat × Nat)

/-- The pass over a routine's words. -/
def shapeOf (win : DWord) (p : Nat) : Nat → List Nat → List Nat → TrShape → Except (TrErr × Nat) (TrShape × List Nat)
  | _, [], op, t => .ok (t, op)
  | i, w :: ws, op, t =>
    match checkWord win p w with
    | some e => .error (e, i)
    | none =>
      let t1 : TrShape := { t with body := t.body ++ [op.head?] }
      if trOp w == 0x40 then
        if op.length == 2 then .error (.loop, i) else shapeOf win p (i + 1) ws (i :: op) t1
      else if trOp w == 0x41 then
        match op with
        | [] => .error (.loop, i)
        | top :: r => shapeOf win p (i + 1) ws r { body := t.body ++ [some top], ends := t.ends ++ [(top, i)] }
      else if trOp w == 0x7F && !op.isEmpty then .error (.loop, i)
      else shapeOf win p (i + 1) ws op t1

/-- The first branch that leaves its body or the routine. -/
def badBranch (ws : List Nat) (t : TrShape) : Option Nat :=
  (List.range ws.length).find? fun i =>
    let w := ws.getD i 0
    let dest := i + 1 + trImm w
    0x30 ≤ trOp w && trOp w ≤ 0x33 && (decide (ws.length ≤ dest) || t.body.getD dest none != t.body.getD i none)

/-- L of the words from the last one back: the list of costs from word i on. -/
def costsFrom (t : TrShape) : Nat → List Nat → List Nat
  | _, [] => []
  | i, w :: ws =>
    let rest := costsFrom t (i + 1) ws
    let at_ (j : Nat) : Nat := rest.getD (j - (i + 1)) 0
    let c := trCycles w
    let op := trOp w
    let l :=
      if op == 0x7F || op == 0x41 then c
      else if op == 0x40 then
        c + trImm w * at_ (i + 1) + at_ (((t.ends.find? (·.1 == i)).map (·.2)).getD i + 1)
      else if op == 0x33 then c + at_ (i + 1 + trImm w)
      else if 0x30 ≤ op && op ≤ 0x32 then c + max (at_ (i + 1)) (at_ (i + 1 + trImm w))
      else c + at_ (i + 1)
    l :: rest

/-- One routine checked: the rejection and its word. -/
def checkRoutine (win : DWord) (p : Nat) (ws : List Nat) : Option (TrErr × Nat) :=
  match shapeOf win p 0 ws [] ⟨[], []⟩ with
  | .error e => some e
  | .ok (t, op) =>
    if !op.isEmpty || trOp (ws.getD (ws.length - 1) 0) != 0x7F then some (.loop, ws.length - 1)
    else
      match badBranch ws t with
      | some i => some (.branch, i)
      | none => if allowance p < (costsFrom t 0 ws).getD 0 0 then some (.bound, 0) else none

/-- An image's header: routine table, window, total words, kind. -/
structure TrImage where
  table : List (Nat × Nat)
  window : DWord
  words : Nat
  ring : Bool

def imageOf (h : List Byte) : TrImage :=
  { table := (List.range 6).map fun p => (bitsOf (field h (4 * p) 4) 8 0, bitsOf (field h (4 * p) 4) 31 16),
    window := BitVec.ofNat 64 (field h 0x18 8), words := bitsOf (field h 0x20 4) 10 0, ring := bitOf (field h 0x20 4) 16 }

/-- The header's own limits. A window that is not valid has no limits on its page and size. -/
def headerFieldsOk (h : List Byte) : Bool :=
  let w := field h 0x18 8
  let x := field h 0x20 4
  ((List.range 6).all fun p =>
    let r := field h (4 * p) 4
    decide (bitsOf r 8 0 ≤ 256) && bitsOf r 15 9 == 0) &&
    !bitOf w 3 && w / 2 ^ 21 == 0 &&
    (!bitOf w 0 || (decide (bitsOf w 7 4 ≤ 10) && decide (512 ≤ bitsOf w 17 8) && decide (bitsOf w 17 8 ≤ 1022))) &&
    decide (1 ≤ bitsOf x 10 0) && decide (bitsOf x 10 0 ≤ 1536) && bitsOf x 15 11 == 0 && x / 2 ^ 17 == 0 &&
    (h.drop 0x24).all (· == 0)

/-- The code words of an image. -/
def imageCode (bs : List Byte) : List Word :=
  (List.range (bs.length / 4)).map fun i => BitVec.ofNat 32 (field bs (4 * i) 4)

/-- The checks on routines, in point order: the first rejection with its point and word. -/
def checkRoutines (m : TrImage) (code : List Word) : List Nat → Option (TrErr × Nat × Nat)
  | [] => none
  | p :: ps =>
    let (n, first) := m.table.getD p (0, 0)
    if n == 0 then checkRoutines m code ps
    else if !mayHold m.ring p || decide (m.words < first + n) then some (.image, p, 0)
    else
      match checkRoutine m.window p (((code.drop first).take n).map (·.toNat)) with
      | some (e, i) => some (e, p, i)
      | none => checkRoutines m code ps

/-- The rights a window declares, as accesses. -/
def winRights (w : DWord) : List Acc :=
  (if bitOf w.toNat 18 then [Acc.read] else []) ++ (if bitOf w.toNat 19 then [Acc.write] else []) ++
    (if bitOf w.toNat 20 then [Acc.atomic] else [])

/-- The checks from the window on, in the order of R340. -/
def State.checkImage (s : State) (m : TrImage) (tenant : Nat) (kind : Bool) (h : List Byte) (code : List Word) :
    Option (TrErr × Nat × Nat) :=
  let w := m.window
  if !headerFieldsOk h || m.ring != kind then some (.image, 0, 0)
  else if bitOf w.toNat 0 && decide (0x3FF000 < winBase w + winSize w) then some (.window, 0, 0)
  else if !kind && bitOf w.toNat 0 &&
      !grantsCover (s.tenantHolds tenant (winRights w)) (s.dieHw (winDie w)).mbxg 65 (winBase w) (winSize w)
  then some (.grant, 0, 0)
  else checkRoutines m code (List.range 6)

/-- TRLCTL after a load, and TRLIDX. -/
def State.endLoad (s : State) (fn : Nat) (r : Option (TrErr × Nat × Nat)) : State :=
  s.modFn fn fun f =>
    let kept := f.trlCtl &&& 0x0FFF8000
    match r with
    | none => { f with trlCtl := kept ||| 0x2000, trlIdx := 0, trlRun := none }
    | some (e, p, i) =>
      { f with trlCtl := kept ||| BitVec.ofNat 32 e.code, trlIdx := BitVec.ofNat 32 (p * 2 ^ 16 + i % 256), trlRun := none }

/-- Install (R341); a decision in progress goes on with the sets it began with. -/
def State.installSet (s : State) (x : TrSet) : State :=
  { s with
    sets := s.sets.filter (fun y => y.tenant != x.tenant) ++ [x],
    disps := s.disps.map fun d =>
      let policy := d.2.policy.map fun (p : Decision) => { p with replaced := p.replaced ++ [(x.tenant, s.sets.find? (·.tenant == x.tenant))] }
      let overruns := d.2.overruns.filter fun o => o.1 != x.tenant
      (d.1, { d.2 with overruns := overruns, policy := policy }) }

/-- The loader's run (R340) with the address and TRLCTL that GO found; a page it waits for leaves GO set. -/
def State.runLoad (s : State) (fn : Nat) (addr : DWord) (ctl : Word) : State :=
  let ctx := bitsOf ctl.toNat 27 16
  let kind := bitOf ctl.toNat 15
  let d := s.ctxDesc ctx
  let at_ := bitsOf addr.toNat 55 6 * 64
  if d.fn != fn || !d.valid || (kind && fn != 0) then s.endLoad fn (some (.access, 0, 0))
  else
    match s.qpRead ctx at_ 64 with
    | (s1, .wait) => s1
    | (s1, .fail _) => s1.endLoad fn (some (.access, 0, 0))
    | (s1, .ok h) =>
      let m := imageOf h
      match s1.qpRead ctx (at_ + 64) (4 * m.words) with
      | (s2, .wait) => s2
      | (s2, .fail _) => s2.endLoad fn (some (.access, 0, 0))
      | (s2, .ok bs) =>
        let code := imageCode bs
        match s2.checkImage m d.tenant kind h code with
        | some e => s2.endLoad fn (some e)
        | none =>
          (s2.installSet ⟨if kind then 16 else d.tenant, m.table, m.window, code, [], false⟩).endLoad fn none

/-- A function's load in progress, looked at again. -/
def State.loadSet (s : State) (fn : Nat) : State :=
  match (s.fnRegs fn).trlRun with
  | some (a, c) => s.runLoad fn a c
  | none => s

/-- TRLCTL's writable fields after a write. -/
def trlStored (old v : Word) : Word := (old &&& 0x80007FFF) ||| (v &&& 0x0FFF8000)

/-- A load begun: GO reads 1, the loader holds the address and the fields. -/
def State.startLoad (s : State) (fn : Nat) (v : Word) : State :=
  s.modFn fn fun f =>
    { f with trlCtl := trlStored f.trlCtl v ||| 0x80000000, trlRun := some (f.trlAddr, trlStored f.trlCtl v) }

/-- A write of TRLCTL (R339, R381): nothing before READY; one of GO = 1 while a load runs is ignored; the fields written
while a load runs name what CAROUSEL reads and the next load, not that one. -/
def State.writeTrl (s : State) (fn : Nat) (v : Word) : State :=
  let f := s.fnRegs fn
  if !f.ready || (bitOf f.trlCtl.toNat 31 && bitOf v.toNat 31) then s
  else if bitOf v.toNat 31 then (s.startLoad fn v).loadSet fn
  else s.modFn fn fun x => { x with trlCtl := trlStored x.trlCtl v }

/-- TREGAL_LOAD (R339, R340). -/
def execTregalLoad (fn : Nat) (v : BitVec 32) (s : State) : Host.Outcome State Fault Refusal := .next (s.writeTrl fn v)

/-- Loads that wait for pages, tried again. -/
def State.retryLoads (s : State) : State :=
  (s.fns.map (·.1)).foldl State.loadSet s

/-- CAROUSEL as TRLCTL reads it (R336, R339). -/
def State.carouselBit (s : State) (fn : Nat) : Bool :=
  let f := s.fnRegs fn
  let t := if bitOf f.trlCtl.toNat 15 then 16 else (s.ctxDesc (bitsOf f.trlCtl.toNat 27 16)).tenant
  ((s.sets.find? (·.tenant == t)).map (·.carousel)).getD false

end Sys2Proof.Machine
end

