-- ==== Sys2Proof/Machine/Policy.lean ====
section
/-!
DEFINITION. The policy engines' decisions (13_policy_engines.md R327 to R329, R335 to R337, R341, R342): the counters, the six
points, overruns, and the moves that MIGRATE asks for.
-/
namespace Sys2Proof.Machine

-- Published hot lists (02_translation_and_leases.md R64).

/-- The place of a stack's list. -/
def hotPlace (stack : Nat) : Nat := mbxPlace (stack / 3) (0x3FF000 + stack % 3 * 0x440)
/-- The frame, context and estimate of an entry. -/
def State.hotEntry (s : State) (stack i : Nat) : HotEntry :=
  let w := s.word64 (hotPlace stack + 16 * i)
  ⟨w % 2 ^ 36, bitsOf w 47 36, s.word64 (hotPlace stack + 16 * i + 8) % 2 ^ 24⟩
/-- The number of valid entries of a list. -/
def State.hotCount (s : State) (stack : Nat) : Nat := ofBytes (s.readMem (hotPlace stack + 0x404) 1) % 2 ^ 7
/-- Whether an entry is valid and visible to a set (R64). -/
def State.hotSeen (s : State) (tenant stack i : Nat) : Bool :=
  decide (i < s.hotCount stack) && (tenant == 16 || (s.ctxDesc (s.hotEntry stack i).ctx).tenant == tenant)

-- Counters (R335).

/-- The handle of a grid. -/
def Grid.handle (g : Grid) (num : Nat) : Nat := g.ctx * 2 ^ 52 + num % 2 ^ 10 * 2 ^ 42 + g.index % 2 ^ 42
/-- The handle of a grid by its identity. -/
def State.handleOf (s : State) (grid : Nat) : Nat :=
  match s.grid? grid with
  | some g => g.handle (((s.queue? g.queue).map (·.num)).getD 0)
  | none => 0

/-- The blocks resident in a cluster. -/
def State.residentIn (s : State) (cluster : Nat) : List Block := s.blocks.filter fun b => b.resident && b.cluster == cluster
/-- The tenant of a block. -/
def State.blockTenant (s : State) (b : Block) : Nat := ((s.grid? b.grid).map s.tenantOf).getD 16
/-- The unallocated CB banks of a core. -/
def State.freeCb (s : State) (core : Nat) : Nat :=
  16 - s.blocks.foldl (fun n b => if b.resident then n + (b.cb.filter fun e => b.coreOf e.1 == core).length else n) 0
/-- The queues of a tenant. -/
def State.queuesOf (s : State) (tenant : Nat) : List Queue := s.queues.filter fun q => (s.ctxDesc q.ctx).tenant == tenant
/-- QAGE in microseconds. -/
def State.queueAge (s : State) (tenant : Nat) : Nat :=
  (s.queuesOf tenant).foldl (fun m q => match q.oldestAt with
    | some a => max m ((s.clk17 - a) / usec)
    | none => m) 0

/-- A per-tenant counter. -/
def State.tenantCounter (s : State) (cluster kind tenant : Nat) : Nat :=
  let mine := (s.residentIn cluster).filter fun b => s.blockTenant b == tenant
  match kind with
  | 0x040 => mine.length
  | 0x050 => (s.readyOf cluster tenant).length
  | 0x060 => mine.foldl (fun n b => n + ((s.grid? b.grid).map (·.desc.tokens)).getD 0) 0
  | 0x070 => (s.queuesOf tenant).foldl (fun n q => n + (q.widx - q.ridx)) 0
  | _ => s.queueAge tenant

/-- A counter of a core of the cluster. -/
def State.coreCounter (s : State) (cluster kind i : Nat) : Nat :=
  let core := cluster * 12 + i
  if 12 ≤ i then 0
  else
    match kind with
    | 0x010 => (List.range 4).foldl (fun n q => n + (s.freeSlots core q).length) 0
    | 0x020 => s.freeCb core
    | _ => (s.disp cluster).issueLast.getD i 0

/-- An entry of an R-vector for a ready grid. -/
def State.gridCounter (s : State) (cluster kind : Nat) (g : Grid) : Nat :=
  match kind with
  | 0x100 => s.handleOf g.id
  | 0x110 => ((g.offerAt cluster).bind (·.rank)).getD 0
  | 0x120 => (s.clk17 - ((g.offerAt cluster).map (·.at_)).getD 0) / usec
  | 0x130 => g.prio
  | _ => g.desc.m

/-- A hot-page counter: n counts from 0x200 on. -/
def State.hotCounter (s : State) (cluster tenant n : Nat) : Nat :=
  let die := cluster / 4
  if n < 0x180 then
    let stack := die * 3 + n / 0x80
    let i := n % 64
    if s.hotSeen tenant stack i then (if n % 0x80 < 64 then (s.hotEntry stack i).frame else (s.hotEntry stack i).est) else 0
  else if n < 0x184 then
    if n == 0x183 then 0
    else (List.range 64).foldl (fun m i => if s.hotSeen tenant (die * 3 + n % 4) i then m ||| 2 ^ i else m) 0
  else if n == 0x187 then 0
  else ofBytes (s.readMem (hotPlace (die * 3 + n % 4) + 0x400) 4)

/-- The inputs of an event: those its point lists, or else a free value. -/
def State.eventInput (s : State) (e : TrEvent) (tenant n : Nat) : Nat :=
  let free (k : Nat) : Nat := (Config.freeDWord (s.fresh + k)).toNat
  let grid := e.point == 0 || e.point == 3 || e.point == 4
  match n with
  | 0 => e.point
  | 1 => if grid then s.handleOf e.grid else free 0
  | 2 => if grid then e.tenant else if e.point == 1 && tenant != 16 then tenant else free 1
  | _ => if grid || e.point == 5 then e.arg else free 2

/-- The tenants with a ready grid in a cluster that a set may see. -/
def State.readyTenants (s : State) (cluster tenant : Nat) : Nat :=
  (List.range 16).foldl (fun m t =>
    if (tenant == 16 || tenant == t) && !(s.readyOf cluster t).isEmpty then m ||| 2 ^ t else m) 0

/-- The valid entries of the R-vectors. -/
def State.readyValid (s : State) (cluster tenant : Nat) : Nat := if tenant == 16 then 0 else 2 ^ min 16 (s.readyOf cluster tenant).length - 1

/-- A counter as a routine of a set captures it. -/
def State.counter (s : State) (cluster tenant : Nat) (e : TrEvent) (n : Nat) : Nat :=
  if n < 4 then s.eventInput e tenant n
  else if n == 4 then s.ns % 2 ^ 64
  else if n == 5 then cluster
  else if n < 0x030 then s.coreCounter cluster (n / 16 * 16) (n % 16)
  else if n == 0x030 then s.ptFree
  else if n == 0x031 then (s.residentIn cluster).length
  else if n < 0x040 then s.readyTenants cluster tenant
  else if n < 0x090 then if tenant == 16 || tenant == n % 16 then s.tenantCounter cluster (n / 16 * 16) (n % 16) else 0
  else if n < 0x0A0 then s.coreCounter cluster 0x090 (n % 16)
  else if n == 0x0A0 then (s.disp cluster).missLast
  else if n < 0x150 then
    if tenant == 16 then 0
    else (((s.readyOf cluster tenant)[n % 16]?).map fun g => s.gridCounter cluster (n / 16 * 16) g).getD 0
  else if n == 0x150 then s.readyValid cluster tenant
  else s.hotCounter cluster tenant (n - 0x200)

-- A routine at a point (R329, R336).

/-- EN of TRCTL. -/
def Disp.enabled (d : Disp) : Bool := bitOf d.trctl.toNat 31
/-- TICKP of TRCTL. -/
def Disp.tickp (d : Disp) : Nat := bitsOf d.trctl.toNat 19 0

/-- None, as a decision register may hold it. -/
def trNone : Nat := 2 ^ 64 - 1

/-- The decision registers' defaults (R327). -/
def trDefaults (e : TrEvent) : List Nat :=
  match e.point with
  | 0 => [carouselRank e.arg]
  | 2 => [trNone, 0]
  | 4 => [1]
  | 5 => [trNone, trNone]
  | _ => [trNone]

/-- The sets that a load has replaced since a cluster's decision began, as they stood (R341). -/
def State.replacedSets (s : State) (cluster : Nat) : List (Nat × Option TrSet) :=
  (((s.disp cluster).policy).map (·.replaced)).getD []

/-- The set of a tenant, or 16 for the ringmaster set, that a cluster's decision knows: no decision mixes two (R341). -/
def State.setFor (s : State) (cluster tenant : Nat) : Option TrSet :=
  match (s.replacedSets cluster).find? (·.1 == tenant) with
  | some o => o.2
  | none => s.sets.find? (·.tenant == tenant)

/-- The set whose routine decides a point for a tenant; none where the carousel does. -/
def State.setAt (s : State) (cluster tenant point : Nat) : Option TrSet :=
  if !(s.disp cluster).enabled then none
  else
    (s.setFor cluster tenant).bind fun x =>
      if x.carousel || (x.routines.getD point (0, 0)).1 == 0 then none else some x

/-- A set's state window in a cluster; zero until written. -/
def TrSet.windowAt (x : TrSet) (cluster : Nat) : List DWord := tabGet x.state cluster (List.replicate 128 0)

/-- Whether a load has replaced the set that a routine belongs to since its decision began: its windows and counts are
cleared (R341). -/
def State.gone (s : State) (e : TrEnv) : Bool := (s.replacedSets e.cluster).any (·.1 == e.set.tenant)

/-- A routine that reached DONE: its buffered writes made, its count of overruns cleared; of a set that a load has replaced
there is nothing left to write to. -/
def State.routineDone (s : State) (e : TrEnv) (r : TrRun) : State :=
  if s.gone e then s
  else
    let win := r.buf.foldl (fun (w : List DWord) (b : Nat × Nat) => w.set (b.1 / 8) (BitVec.ofNat 64 b.2)) e.window
    let s1 := s.modDisp e.cluster fun d => { d with overruns := d.overruns.filter fun o => o.1 != e.set.tenant }
    { s1 with sets := modIf s1.sets (fun y => y.tenant == e.set.tenant) fun y => { y with state := tabSet y.state e.cluster win } }

/-- A routine that was stopped: an overrun; the third in a row gives the set's points to the carousel. -/
def State.routineStopped (s : State) (e : TrEnv) : State :=
  let x := e.set.tenant
  let s1 := s.modDisp e.cluster fun d => { d with ovr := min (d.ovr + 1) 0xFFFF }
  if s.gone e then s1
  else
    let s2 := s1.modDisp e.cluster fun d => { d with overruns := tabMod d.overruns x 0 (· + 1) }
    if tabGet (s2.disp e.cluster).overruns x 0 < 3 then s2
    else { s2 with sets := modIf s2.sets (fun y => y.tenant == x) fun y => { y with carousel := true } }

-- The points (R327, R328).

/-- What the routine of a set left in a decision register; none where the carousel decides. -/
def Decision.reg (d : Decision) (tenant i : Nat) : Option Nat :=
  ((d.ended.find? (·.1 == tenant)).bind (·.2)).bind fun r => r[i]?

/-- ENQUEUE: a value above 255 is none, and the default stands. -/
def State.actEnqueue (s : State) (cluster : Nat) (d : Decision) : State :=
  let r := (d.reg d.ev.tenant 0).getD (carouselRank d.ev.arg)
  let rank := if 255 < r then carouselRank d.ev.arg else r
  (s.modOffer d.ev.grid cluster fun o => { o with rank := some rank }).wantRound cluster

/-- PICK: the round's order; the tenant's D0 is an index into the R-vectors that its routine captured. -/
def State.actPick (s : State) (cluster : Nat) (d : Decision) : State :=
  let t := (d.reg 16 0).getD trNone
  let order :=
    if 16 ≤ t || (s.readyOf cluster t).isEmpty then s.carouselOrder cluster
    else s.orderFrom cluster t (d.ready[(d.reg t 0).getD trNone]?)
  let round := s.roundOf cluster order
  s.modDisp cluster fun x => { x with order := round }

/-- TICK: the blocks a tenant yields. -/
def State.actTick (s : State) (cluster : Nat) (d : Decision) : State :=
  let t := (d.reg 16 0).getD trNone
  let n := (d.reg 16 1).getD 0
  if 16 ≤ t || n == 0 then s
  else
    let bs := s.longest cluster fun b => s.blockTenant b == t
    (s.takeYield (min n bs.length) 0 bs).foldl (fun (s : State) b => s.preempt b) s

/-- BLOCK: a new rank. -/
def State.actBlock (s : State) (cluster : Nat) (d : Decision) : State :=
  let r := (d.reg d.ev.tenant 0).getD trNone
  if 255 < r then s else s.modOffer d.ev.grid cluster fun o => { o with rank := some r }

/-- WAKE: a deferral or an attempt. -/
def State.actWake (s : State) (cluster : Nat) (d : Decision) : State :=
  (s.modOffer d.ev.grid cluster fun o => { o with deferred := (d.reg d.ev.tenant 0).getD 1 == 0 }).wantRounds

-- MIGRATE.

/-- The entries of a table that are not zero. -/
def State.tableSlots (s : State) (table : Nat) : List Nat :=
  ((s.mem.filter fun c => decide (table ≤ c.1) && decide (c.1 < table + 2 ^ 14)).map fun c => (c.1 - table) / 8).eraseDups

/-- The leaves below a table, each once: first VA and slot. -/
def State.leavesUnder (s : State) : Nat → Nat → Nat → List (Nat × Slot)
  | 0, _, _ => []
  | l + 1, table, va =>
    if !isHbm table then []
    else
      (s.tableSlots table).flatMap fun i =>
        let e := s.entryAt (table + 8 * i)
        match pteKind (l + 1) e with
        | .leaf => if i % 4 ^ pteSpan e == 0 then [(va + i * 2 ^ levelBits (l + 1), ⟨table, l + 1, e⟩)] else []
        | .table => s.leavesUnder l (ptePa e) (va + i * 2 ^ levelBits (l + 1))
        | _ => []

/-- The leaves that map a 64 KiB frame of HBM, with their contexts; any copy of a replicated page counts. -/
def State.leavesOf (s : State) (frame : Nat) : List (Nat × Nat) :=
  (s.ctxs.filter (·.2.valid)).flatMap fun c =>
    match rootTable c.2.root with
    | none => []
    | some t =>
      ((s.leavesUnder 4 t 0).filter fun x =>
        pteMt x.2.entry == 0 && (allCopies x.2.entry x.2.base).any fun p =>
          decide (p < (frame + 1) * 2 ^ 16) && decide (frame * 2 ^ 16 < p + 2 ^ x.2.bits)).map fun x => (c.1, x.1)

/-- A move asked for: each page whose leaf maps the frame, with every copy of it, refused and counted where R65 or the
tenant's own contexts do not allow it (log 84). -/
def State.moveFrame (s : State) (tenant frame die : Nat) : State :=
  let ls := s.leavesOf frame
  if ls.isEmpty || (tenant != 16 && ls.any fun x => (s.ctxDesc x.1).tenant != tenant) then
    { s with migRefused := s.migRefused + 1 }
  else
    ls.foldl (fun (s : State) x =>
      match s.movePage x.1 x.2 die allDies with
      | (s1, .refused) => { s1 with migRefused := s1.migRefused + 1 }
      | (s1, _) => s1) s

/-- MIGRATE: each set's request, in the order its routines ran. -/
def State.actMigrate (s : State) (d : Decision) : State :=
  d.ended.foldl (fun (s : State) (x : Nat × Option (List Nat)) =>
    match x.2 with
    | none => s
    | some r => if r.getD 1 trNone < 4 then s.moveFrame x.1 (r.getD 0 trNone % 2 ^ 36) (r.getD 1 trNone) else s) s

/-- Whether a tenant has a live grid in a cluster. -/
def State.liveIn (s : State) (cluster tenant : Nat) : Bool :=
  s.grids.any fun g => (g.offerAt cluster).isSome && !g.complete && s.tenantOf g == tenant

-- A decision (R329).

/-- The sets whose routines an event runs; PICK's second is the one its first names. -/
def State.setsFor (s : State) (cluster : Nat) (e : TrEvent) : List Nat :=
  match e.point with
  | 1 => [16]
  | 2 => [16]
  | 5 => 16 :: (List.range 16).filter (s.liveIn cluster)
  | _ => [e.tenant]

/-- What a decision comes to, once its last routine has ended. -/
def State.actOn (s : State) (cluster : Nat) (d : Decision) : State :=
  match d.ev.point with
  | 0 => s.actEnqueue cluster d
  | 1 => s.actPick cluster d
  | 2 => s.actTick cluster d
  | 3 => s.actBlock cluster d
  | 4 => s.actWake cluster d
  | _ => s.actMigrate d

/-- The outcome of one set's routine noted: PICK goes on to the set of the tenant that the ringmaster's D0 names. -/
def Decision.note (d : Decision) (tenant : Nat) (r : Option (List Nat)) : Decision :=
  let t := (r.getD []).getD 0 trNone
  { d with ended := d.ended ++ [(tenant, r)], now := none,
           todo := if d.ev.point == 1 && tenant == 16 && decide (t < 16) then d.todo ++ [t] else d.todo }

/-- The routine of a set for an event, at its first word with its counters captured; none where the carousel decides. -/
def State.routineFor (s : State) (cluster tenant : Nat) (e : TrEvent) : Option (TrEnv × TrRun) :=
  (s.setAt cluster tenant e.point).map fun x =>
    let r := x.routines.getD e.point (0, 0)
    let code := (x.code.drop r.2).take r.1
    let ctrs := captured code (s.counter cluster tenant e)
    (⟨x, code, ctrs, e.point, x.windowAt cluster, cluster⟩, TrRun.first (trDefaults e))

def State.putDecision (s : State) (cluster : Nat) (d : Option Decision) : State :=
  s.modDisp cluster fun x => { x with policy := d }

/-- One step of a decision with what runs a routine on: its words, the end of a routine, the next routine's start, or the
dispatcher's act on it. Once EN is 0 no routine runs on, and the carousel decides (R337). -/
def State.decisionStep (s : State) (cluster : Nat) (run : TrEnv → TrRun → State → State × TrRun) (d : Decision) : State :=
  if !(s.disp cluster).enabled then ((s.putDecision cluster none).actOn cluster { d with ended := [] }).tick
  else
  match d.now, d.todo with
  | some (e, r), _ =>
    let (s1, r1) := run e r s
    if r1.stopped then (s1.routineStopped e).putDecision cluster (some (d.note e.set.tenant none))
    else if r1.done then (s1.routineDone e r1).putDecision cluster (some (d.note e.set.tenant (some r1.d)))
    else s1.putDecision cluster (some { d with now := some (e, r1) })
  | none, t :: ts =>
    let e := if d.ev.point == 1 then { d.ev with tenant := t } else d.ev
    match s.routineFor cluster t e with
    | some x =>
      let ready := if t == 16 then d.ready else ((s.readyOf cluster t).take 16).map (·.id)
      { s with fresh := s.fresh + 3 }.putDecision cluster (some { d with todo := ts, now := some x, ready := ready })
    | none => s.putDecision cluster (some ({ d with todo := ts }.note t none))
  | none, [] => ((s.putDecision cluster none).actOn cluster d).tick

/-- The event at the head of a dispatcher's queue taken up. -/
def State.beginDecision (s : State) (cluster : Nat) : State :=
  match (s.disp cluster).events with
  | [] => s
  | e :: r =>
    let todo := s.setsFor cluster e
    s.modDisp cluster fun d => { d with events := r, policy := some ⟨e, todo, [], none, [], []⟩ }

/-- A word of the routine in progress or another step of its decision; with none in progress the next event is taken up. -/
def State.policyStep (s : State) (cluster : Nat) : State :=
  match (s.disp cluster).policy with
  | some d => s.decisionStep cluster (fun e r s => r.word e s) d
  | none => s.beginDecision cluster

/-- A decision run to its end: 17 routines at most, each begun and run on, and the act. -/
def State.endDecision (cluster : Nat) : Nat → State → State
  | 0, s => s
  | n + 1, s =>
    match (s.disp cluster).policy with
    | none => s
    | some d => State.endDecision cluster n (s.decisionStep cluster (fun e r s => TrRun.go e (allowance e.point + 1) r s) d)

/-- The decision in progress, or with none that of the event at the head, made. -/
def State.decideHead (s : State) (cluster : Nat) : State :=
  State.endDecision cluster 40 (if (s.disp cluster).policy.isSome then s else s.beginDecision cluster)

/-- The event being decided, or the next. -/
def Disp.event? (d : Disp) : Option TrEvent := (d.policy.map (·.ev)).orElse fun _ => d.events.head?

/-- The event decided where it meets a condition. -/
def State.decideIf (s : State) (cluster : Nat) (p : TrEvent → Bool) : State :=
  if (((s.disp cluster).event?).map p).getD false then s.decideHead cluster else s

/-- Whether TICKP has passed since a cluster's last TICK. -/
def State.tickDue (s : State) (cluster : Nat) : Bool :=
  let d := s.disp cluster
  decide (d.tickAt + d.tickp * usec ≤ s.clk17)

/-- A TICK fires; the counters of the period are taken. -/
def State.fireTick (s : State) (cluster : Nat) : State :=
  let now := (clusterCores cluster).map fun c => (s.coreHw c).issues
  let misses := (tabGet s.clusters cluster {}).misses
  (s.modDisp cluster fun d =>
    { d with tickAt := d.tickAt + d.tickp * usec, issueBase := now, missBase := misses, missLast := misses - d.missBase,
             issueLast := (List.range 12).map fun i => now.getD i 0 - d.issueBase.getD i 0 }).fire cluster ⟨2, 0, 0, 0⟩

/-- TREGAL_ENQUEUE (R327, R328). -/
def execTregalEnqueue (cluster grid : Nat) (s : State) : Host.Outcome State Fault Refusal :=
  .next (s.decideIf cluster fun e => e.point == 0 && e.grid == grid)
/-- TREGAL_PICK. -/
def execTregalPick (cluster : Nat) (s : State) : Host.Outcome State Fault Refusal :=
  .next (s.decideIf cluster fun e => e.point == 1)
/-- TREGAL_TICK. -/
def execTregalTick (cluster : Nat) (s : State) : Host.Outcome State Fault Refusal :=
  .next ((if s.tickDue cluster then s.fireTick cluster else s).decideIf cluster fun e => e.point == 2)
/-- TREGAL_BLOCK: of the block's grid, or of a block that has exited since. -/
def execTregalBlock (cluster block : Nat) (s : State) : Host.Outcome State Fault Refusal :=
  .next (s.decideIf cluster fun e => e.point == 3 && ((s.block? block).map (·.grid)).getD e.grid == e.grid)
/-- TREGAL_WAKE. -/
def execTregalWake (cluster grid arg : Nat) (s : State) : Host.Outcome State Fault Refusal :=
  .next (s.decideIf cluster fun e => e.point == 4 && e.grid == grid && e.arg == arg)
/-- TREGAL_MIGRATE. -/
def execTregalMigrate (cluster stack : Nat) (s : State) : Host.Outcome State Fault Refusal :=
  .next (s.decideIf cluster fun e => e.point == 5 && e.arg == stack)

/-- Whether the head event's routines would be stopped. -/
def State.overruns (s : State) (cluster : Nat) : Bool :=
  (((s.modDisp cluster fun d => { d with ovr := 0 }).decideHead cluster).disp cluster).ovr != 0

/-- POLICY_WATCHDOG_OVERRUN (R336): the head event, where a routine of it is stopped. -/
def execPolicyWatchdogOverrun (cluster : Nat) (s : State) : Host.Outcome State Fault Refusal :=
  .next (if s.overruns cluster then s.decideHead cluster else s)

/-- TRSEED_WRITE (R334, R342). -/
def execTrseedWrite (cluster : Nat) (v : BitVec 64) (s : State) : Host.Outcome State Fault Refusal :=
  .next (if v == 0 then s else s.modDisp cluster fun d => { d with trseed := v, gen := v })

end Sys2Proof.Machine
end

