-- ==== Sys2Proof/Machine/Memsys.lean ====
section
/-!
DEFINITION. The memory system's own events: TLB invalidation (02_translation_and_leases.md R48, R49), the access sketch and
its hot lists (R62 to R64), and ECC errors (03_caches_versions_mailbox.md R79, R80; 14_traps_preemption_debug.md R351).
-/
namespace Sys2Proof.Machine

-- Invalidation.

def tlbiScope (v : Nat) : Nat := bitsOf v 3 2
def tlbiCtx (v : Nat) : Nat := bitsOf v 27 16

/-- Whether a command is rejected (R48). -/
def State.tlbiRejects (s : State) (fn v : Nat) : Bool :=
  tlbiScope v == 3 || !((s.ctxs.any fun c => c.1 == tlbiCtx v) && s.ctxFn (tlbiCtx v) == fn) ||
    (tlbiScope v == 0 && (s.fnRegs fn).tlbiNpg == 0)

/-- TLBI_CTL's fields after a write, GO and a rejection apart. -/
def tlbiStored (old v : Nat) : Nat :=
  bitsOf old 31 31 * 2 ^ 31 + bitsOf v 27 16 * 2 ^ 16 + bitsOf v 3 2 * 4 + (if bitOf v 1 then 0 else bitsOf old 1 1 * 2)

/-- A write of TLBI_CTL: ignored before READY, and as a whole where GO = 1 is written while GO reads 1. -/
def State.writeTlbi (s : State) (fn v : Nat) : State :=
  let r := s.fnRegs fn
  let old := r.tlbiCtl.toNat
  let st := tlbiStored old v
  let put (x : Nat) (c : List Nat) : State := s.modFn fn fun f => { f with tlbiCtl := BitVec.ofNat 32 x, tlbiRun := c }
  if !r.ready || (bitOf v 31 && bitOf old 31) then s
  else if !bitOf v 31 then put st r.tlbiRun
  else if s.tlbiRejects fn v then put (st ||| 2) r.tlbiRun
  else put (st + 2 ^ 31) [tlbiScope v, tlbiCtx v, bitsOf r.tlbiVa.toNat 55 12 * 4096, r.tlbiNpg.toNat * 4096]

/-- TLBI_GO (R48). -/
def execTlbiGo (fn : Nat) (v : BitVec 32) (s : State) : Host.Outcome State Fault Refusal := .next (s.writeTlbi fn v.toNat)

/-- The translations a command names, dropped (R49). -/
def State.tlbiDrop (s : State) (fn : Nat) (c : List Nat) : State :=
  let ctx := c.getD 1 0
  match c.getD 0 0 with
  | 0 => s.dropXlat (· == ctx) (c.getD 2 0) (c.getD 3 0)
  | 1 => s.dropXlat (· == ctx) 0 (2 ^ 56)
  | _ => s.dropXlat (fun k => s.ctxFn k == fn) 0 (2 ^ 56)

/-- The contexts a command names. -/
def State.tlbiNames (s : State) (fn : Nat) (c : List Nat) (k : Nat) : Bool :=
  if c.getD 0 0 < 2 then k == c.getD 1 0 else s.ctxFn k == fn

/-- TLBI_COMPLETE (R49): on all dies nothing of the range is held any more, and the accesses that used it have reached their
homes; GO returns to 0. -/
def execTlbiComplete (fn : Nat) (s : State) : Host.Outcome State Fault Refusal :=
  .next <|
    let r := s.fnRegs fn
    if bitOf r.tlbiCtl.toNat 31 then
      (((s.drainXlat (s.tlbiNames fn r.tlbiRun)).tlbiDrop fn r.tlbiRun).modFn fn fun f =>
        { f with tlbiCtl := f.tlbiCtl &&& 0x7FFFFFFF, tlbiRun := [] }).tick
    else s

-- The sketch.


/-- IVAL of SKCTL. -/
def Sketch.ival (k : Sketch) : Nat := bitsOf k.skctl.toNat 16 0

/-- The multipliers A_i. -/
def sketchMul : List Nat := [0x9E3779B97, 0xC2B2AE35D, 0x1656467B1, 0x27D4EB2F5]

/-- The row hash h_i. -/
def sketchHash (f a : Nat) : Nat := f * a % 2 ^ 36 / 2 ^ 24

/-- A counter of a row. -/
def Sketch.cell (k : Sketch) (i h : Nat) : Nat := tabGet k.cnt (i * 4096 + h) 0

/-- The four counters of a frame raised, saturating. -/
def Sketch.bump (k : Sketch) (f : Nat) : Sketch :=
  (List.range 4).foldl (fun (k : Sketch) i =>
    let j := i * 4096 + sketchHash f (sketchMul.getD i 0)
    { k with cnt := tabMod k.cnt j 0 fun n => min (n + 1) 0xFFFFFF }) k

/-- The estimate of a frame. -/
def Sketch.est (k : Sketch) (f : Nat) : Nat :=
  (List.range 4).foldl (fun m i => min m (k.cell i (sketchHash f (sketchMul.getD i 0)))) 0xFFFFFF

/-- The entry to be replaced: the smallest estimate, among equals the highest frame. -/
def leastHot : List HotEntry → Option HotEntry
  | [] => none
  | e :: r =>
    match leastHot r with
    | none => some e
    | some m => if e.est < m.est || (e.est == m.est && m.frame < e.frame) then some e else some m

/-- The list after a burst. -/
def hotInsert (l : List HotEntry) (e : HotEntry) : List HotEntry :=
  if l.any (·.frame == e.frame) then modIf l (·.frame == e.frame) fun _ => e
  else if l.length < 64 then l ++ [e]
  else
    match leastHot l with
    | some m => if m.est < e.est then modIf l (·.frame == m.frame) fun _ => e else l
    | none => l

/-- CountBurst. -/
def Sketch.burst (k : Sketch) (f ctx : Nat) : Sketch :=
  let k1 := k.bump f
  { k1 with hot := hotInsert k1.hot ⟨f, ctx, k1.est f⟩ }

/-- SKETCH_COUNT_BURST (R62): the burst that the stack's controller served first of those it has still to count. -/
def execSketchCountBurst (stack frame ctx : Nat) (s : State) : Host.Outcome State Fault Refusal :=
  .next (if (s.sketch stack).on && (s.sketch stack).waiting.head? == some (frame, ctx) then
      s.modSketch stack fun k => { k.burst frame ctx with waiting := k.waiting.drop 1 }
    else s)

/-- The list sorted. -/
def sortHot (l : List HotEntry) : List HotEntry :=
  sortBy (fun a b => decide (b.est < a.est) || (a.est == b.est && decide (a.frame ≤ b.frame))) l

/-- The 1,088 bytes of a published list. -/
def hotBytes (l : List HotEntry) (seq ival : Nat) : List Byte :=
  (l.flatMap fun e => toBytes 8 (e.frame % 2 ^ 36 + e.ctx % 2 ^ 12 * 2 ^ 36) ++ toBytes 8 (e.est % 2 ^ 24)) ++
    List.replicate (16 * (64 - l.length)) 0 ++ toBytes 4 seq ++ toBytes 4 l.length ++ toBytes 4 ival ++ List.replicate 52 0

/-- The events of a publication (R327): WAKE for the die's clusters that lie in the masks of a grid with swapped-out blocks,
and MIGRATE in each of them; which fires first is open. -/
def State.listEvents (s : State) (stack : Nat) : State :=
  let cl := (List.range 4).map fun (i : Nat) => stack / 3 * 4 + i
  let wake (s : State) : State := s.grids.foldl (fun (s : State) g =>
    if (s.swappedOf g.id).isEmpty then s
    else (cl.filter fun k => (g.offerAt k).isSome).foldl (fun (s : State) k => s.fire k ⟨4, g.id, s.tenantOf g, 1⟩) s) s
  let migrate (s : State) : State := cl.foldl (fun (s : State) k => s.fire k ⟨5, 0, 0, stack % 3⟩) s
  (if Config.freeBool s.fresh then migrate (wake s) else wake (migrate s)).fresh1

/-- The close of an interval (R63): sorted, published, cleared; SKSEQ counts it. -/
def State.closeSketch (s : State) (stack : Nat) : State :=
  let k := s.sketch stack
  let l := sortHot k.hot
  let seq := k.skseq + 1
  let s1 := (s.homeWrite (hotPlace stack) (hotBytes l seq.toNat k.ival)).modSketch stack fun k =>
    { k with skseq := seq, cnt := [], hot := [], start := k.start + k.ival * usec }
  (s1.listEvents stack).tick

/-- Whether a stack's interval is over; an IVAL written while it runs counts for it (DESIGN CHOICE, log 85). -/
def State.sketchDue (s : State) (stack : Nat) : Bool :=
  let k := s.sketch stack
  k.on && decide (k.start + k.ival * usec ≤ s.clk17)

/-- SKETCH_INTERVAL_CLOSE (R63, R64). -/
def execSketchIntervalClose (stack : Nat) (s : State) : Host.Outcome State Fault Refusal :=
  .next (if stack < 12 && s.sketchDue stack then s.closeSketch stack else s)

/-- SKCTL_WRITE (R63): setting EN begins an interval, clearing it clears counters and list; an IVAL out of range leaves IVAL
as it is (log 34). -/
def execSkctlWrite (stack : Nat) (v : BitVec 32) (s : State) : Host.Outcome State Fault Refusal :=
  .next <|
    if 12 ≤ stack then s
    else
      let k := s.sketch stack
      let iv := bitsOf v.toNat 16 0
      let ival := if 100 ≤ iv && iv ≤ 100000 then iv else k.ival
      let on := bitOf v.toNat 31
      s.modSketch stack fun k =>
        { k with
          skctl := BitVec.ofNat 32 (ival + if on then 2 ^ 31 else 0),
          cnt := if on then k.cnt else [], hot := if on then k.hot else [], waiting := if on then k.waiting else [],
          start := if on && !k.on then s.clk17 else k.start }

-- Errors.

/-- Whether a correctable or uncorrectable error can strike there: the location exists. -/
def errLocOk (l : ErrLoc) : Bool :=
  match l with
  | .llcSector pa => isHbm pa
  | .mbxSector die off => decide (die < 4) && decide (off < 2 ^ 22)
  | .abWord core bank row => decide (core < 192) && decide (bank < 32) && decide (row < 4096)
  | .wbWord core bank row => decide (core < 192) && decide (bank < 16) && decide (row < 2048)
  | .cbCell core bank row col => decide (core < 192) && decide (bank < 16) && decide (row < 64) && decide (col < 128)
  | _ => true

/-- A unit poisoned. -/
def State.poisonUnit (s : State) (k n : Nat) : State :=
  if s.poison.contains (k, n) then s else { s with poison := s.poison ++ [(k, n)] }

/-- A register poisoned. -/
def State.poisonReg (s : State) (p : PoisonReg) : State :=
  if s.regPoison.contains p then s else { s with regPoison := s.regPoison ++ [p] }

/-- A version struck: its bytes go at once, the task's fault is still to come (R79, R86). -/
def State.loseVersion (s : State) (die line : Nat) (t : ThreadRef) : State :=
  match s.versions.find? fun v => v.tag == t && v.die == die && v.line == line with
  | some v => { s with versions := s.versions.filter (·.tag != t) ++ [{ v with bytes := [], poisoned := true }] }
  | none => s

/-- A plane of a quadrant struck. -/
def State.poisonPlane (s : State) (quad : Nat) (shadow : Bool) : State :=
  let hit (p : Plane) : Plane := { p with poisoned := true }
  s.modQuadHw quad fun h => if shadow then { h with shadow := h.shadow.map hit } else { h with active := h.active.map hit }

/-- A clean line of a core's caches discarded, to be fetched again; counted among soft errors logged and discarded (R79). -/
def State.loseClean (s : State) (core line : Nat) : State :=
  ((s.dropClean core fun l => l.line == line).modCoreHw core fun h =>
    { h with ic := h.ic.filter fun l => l.line != line }).countEvent 0x0030 1

/-- The same of a cluster's L2. -/
def State.loseL2 (s : State) (cluster line : Nat) : State :=
  (s.dropSharers line (BitVec.ofNat 16 (2 ^ cluster))).countEvent 0x0030 1

/-- The same of a die's LLC, where a clean line equals its home. -/
def State.loseLlc (s : State) (die line : Nat) : State :=
  (s.llcEvict die ((s.dieHw die).llc.find? (·.line == line))).countEvent 0x0030 1

/-- A sector of a domain's pending data struck (R79). -/
def State.losePending (s : State) (block rank sector : Nat) : State :=
  s.modBlock block fun b =>
    let hit (p : PendByte) : PendByte := if p.key / 32 == sector then { p with bad := true } else p
    { b with doms := b.doms.modify rank fun l => l.map hit }

/-- What an uncorrectable error does where it strikes. -/
def State.strike (s : State) (loc : ErrLoc) : State :=
  match loc with
  | .cleanLine core line => s.loseClean core line
  | .l2Line cluster line => s.loseL2 cluster line
  | .llcLine die line => s.loseLlc die line
  | .pendSector b rank sector => s.losePending b rank sector
  | .llcSector pa => s.poisonUnit (pa / 32 * 32) 32
  | .mbxSector die off => s.poisonUnit (mbxPlace die (off / 32 * 32)) 32
  | .versionLine die line t => s.loseVersion die line t
  | .abWord core bank row => s.poisonUnit (abPlace core bank row 0) 16
  | .wbWord core bank row => s.poisonUnit (wbPlace core (bank * 2 ^ 16 + row * 32)) 32
  | .cbCell core bank row col => s.poisonUnit (cbPlace core bank row col) 5
  | .vreg t r => s.poisonReg (.v t r)
  | .preg t r => s.poisonReg (.p t r)
  | .sreg g r => s.poisonReg (.s g r)
  | .creg g r => s.poisonReg (.c g r)
  | .ctlSreg b rank q r => s.poisonReg (.cs b rank q r)
  | .ctlCreg b rank q r => s.poisonReg (.cc b rank q r)
  | .plane q sh => s.poisonPlane q sh
  | .frame b => s.modBlock b fun x => { x with frame := x.frame.map fun f => { f with poisoned := true } }
  | .fetchAhead _ => s.countEvent 0x0030 1

/-- UNCORRECTABLE_ERROR (R79, R80, R351, R358); the accesses still to take effect do so first. -/
def execUncorrectableError (loc : ErrLoc) (s : State) : Host.Outcome State Fault Refusal :=
  .next (if errLocOk loc then s.settleAllLate.strike loc else s)

/-- CORRECTABLE_ERROR (R79, R80): corrected and counted. -/
def execCorrectableError (loc : ErrLoc) (s : State) : Host.Outcome State Fault Refusal :=
  .next (if errLocOk loc then { s with corrected := s.corrected + 1 } else s)

end Sys2Proof.Machine
end

