-- ==== Sys2Proof/Machine/Firmware.lean ====
section
/-!
DEFINITION. What the host and the firmware write (00_scope.md R5, R6; 12_dispatch_and_issue.md R302, R303, R306, R319, R320;
13_policy_engines.md R339, R342; 14_traps_preemption_debug.md R352, R356, R359, R362, R366, R367, R369;
15_host_and_platform.md R372 to R377, R379, R381). Registers of a function are dead before READY; those of firmware and debug space
are not a function's. A field whose write the spec ignores keeps its value while the other fields are written (log 34).
-/
namespace Sys2Proof.Machine

/-- A function's registers changed, once it is ready (R381). -/
def State.setFn (s : State) (fn : Nat) (f : FnRegs → FnRegs) : State := if (s.fnRegs fn).ready then s.modFn fn f else s

-- Doorbells (R306).

/-- DBELL_WRITE. -/
def execDbellWrite (fn : Nat) (v : BitVec 64) (s : State) : Host.Outcome State Fault Refusal :=
  .next <|
    if !(s.fnRegs fn).ready then s
    else
      let ctx := bitsOf v.toNat 63 52
      match s.queueNamed ctx (bitsOf v.toNat 51 42) with
      | some q =>
        let n := (v.toNat % 2 ^ 42 + 2 ^ 42 - q.widx % 2 ^ 42) % 2 ^ 42
        if s.ctxFn ctx == fn && !q.device && decide (1 ≤ n) && decide (n + (q.widx - q.ridx) ≤ q.entries) then
          s.changeQueue q.id fun x => { x with widx := x.widx + n }
        else s.countEvent 0x0020 1
      | none => s.countEvent 0x0020 1

-- Queue control blocks (R303).

/-- Whether an update keeps R303's limits. -/
def State.qcbOk (s : State) (h : QcbHalf) : Bool :=
  let c := h.ctrl.toNat
  let m := h.clusterMask.toNat
  h.ringBase.toNat % 4096 == 0 && decide (h.ringBase.toNat < 2 ^ 56) && decide (4 ≤ c % 32) && decide (c % 32 ≤ 20) &&
    bitsOf c 7 5 == 0 && !bitOf c 9 && c / 2 ^ 14 == 0 && h.ident.toNat / 2 ^ 22 == 0 && m != 0 &&
    (m &&& (s.ctxDesc (h.ident.toNat % 2 ^ 12)).clusters) == m && h.statusLine.toNat % 64 == 0 &&
    decide (h.statusLine.toNat < 2 ^ 56)

/-- A queue at its first update. -/
def Queue.fresh (id now : Nat) (h : QcbHalf) : Queue :=
  { id := id, ctx := h.ident.toNat % 2 ^ 12, num := bitsOf h.ident.toNat 21 12, qcbh := h, version := 0,
    replicas := List.replicate 4 false, widx := 0, ridx := 0, didx := 0, resv := 0, state := .unmapped, mapped := false,
    since := now, err := 0, errIndex := 0, errNode := none, ready := [], run := [], skip := 0, graphs := [], marker := 0,
    markerClk := 0, rearms := 0, statusSeq := 0, statusBad := false, avail := [] }

/-- The hypervisor half rewritten: VERSION one higher, the other dies' replicas invalid; a queue that changes its owner die
gives its thread up. -/
def Queue.update (q : Queue) (h : QcbHalf) : Queue :=
  let x := { q with qcbh := h, version := (q.version + 1) % 2 ^ 32 }
  let y := { x with replicas := (List.range 4).map fun (i : Nat) => i == x.die }
  if x.die == q.die || q.state == .error then y else { y with mapped := false, state := .unmapped }

/-- QCB_UPDATE; one that breaks a limit is rejected and changes nothing (R5). -/
def execQcbUpdate (h : QcbHalf) (s : State) : Host.Outcome State Fault Refusal :=
  .next <|
    if !s.qcbOk h then s
    else
      match s.queues.find? fun q => q.ctx == h.ident.toNat % 2 ^ 12 && q.num == bitsOf h.ident.toNat 21 12 with
      | some q =>
        let s1 := s.modQueue q.id fun x => x.update h
        if (q.update h).state == q.state then s1 else s1.statusLine q.id
      | none =>
        { s with queues := s.queues ++ [(Queue.fresh s.nextId s.clk17 h).update h], nextId := s.nextId + 1 }

-- Page responses (R374 to R376).

/-- A response dropped (R375). -/
def State.dropResponse (s : State) : State := s.countEvent 0x0021 1

/-- An accepted response: the waiting access looks again, or meets the refusal. -/
def State.acceptPage (s : State) (q : PageReq) (ok : Bool) : State :=
  let s1 := if ok then { s with pageReqs := s.pageReqs.filter (· != q) }
    else { s with pageReqs := modIf s.pageReqs (· == q) fun x => { x with refused := true } }
  s1.retryLoads.wantRounds

/-- The outstanding request a response names. -/
def State.requestOf (s : State) (fn tag : Nat) (pri : Bool) : Option PageReq :=
  s.pageReqs.find? fun q => q.pri == pri && !q.refused && q.tag == tag && (pri || q.fn == fn)

/-- A response to a request whose generation is past: it is dropped, and the request is answered (R375, log 23). -/
def State.staleResponse (s : State) (q : PageReq) : State := { s with pageReqs := s.pageReqs.filter (· != q) }.dropResponse

/-- PRRESP_WRITE (R375). -/
def execPrrespWrite (fn : Nat) (v : BitVec 64) (s : State) : Host.Outcome State Fault Refusal :=
  .next <|
    let r := s.fnRegs fn
    let gen := bitsOf v.toNat 63 48
    if !r.ready then s
    else
      match s.requestOf fn (v.toNat % 2 ^ 32) false with
      | some q =>
        if gen == r.fngen.toNat then s.acceptPage q (bitsOf v.toNat 39 32 == 0)
        else if gen == q.gen then s.staleResponse q
        else s.dropResponse
      | none => s.dropResponse

/-- Host ranges less the 4 KiB page at an address. -/
def withoutPage (l : List (Nat × Nat)) (a : Nat) : List (Nat × Nat) :=
  l.flatMap fun g =>
    [(g.1, min (g.1 + g.2) a - g.1), (max g.1 (a + 4096), g.1 + g.2 - max g.1 (a + 4096))].filter fun (x : Nat × Nat) =>
      x.2 != 0

/-- The host translation of a HOST leaf's page there again. -/
def State.hostBack (s : State) (ctx va : Nat) : State :=
  match s.leafOf ctx va with
  | .leaf x => { s with hostGone := withoutPage s.hostGone (x.base + va % 2 ^ x.bits) }
  | _ => s

/-- PRI_RESPONSE (R375). -/
def execPriResponse (idx : Nat) (ok : Bool) (s : State) : Host.Outcome State Fault Refusal :=
  .next <|
    match s.requestOf 0 idx true with
    | some q =>
      if q.gen == (s.fnRegs q.fn).fngen.toNat then
        (if ok then s.hostBack q.ctx q.va else s).acceptPage q ok
      else s.staleResponse q
    | none => s.dropResponse

/-- ATS_INVALIDATION (R376): the accesses that used the translation are performed at the host, and no cache of the device
holds it. -/
def execAtsInvalidation (base len : Nat) (s : State) : Host.Outcome State Fault Refusal :=
  .next <|
    if len == 0 then s
    else
      let hit (e : TlbEntry) : Bool :=
        pteMt e.leaf == 1 && decide (leafBase e.bits e.leaf < base + len) && decide (base < leafBase e.bits e.leaf + 2 ^ e.bits)
      let s1 := s.drainHost base len
      ({ s1 with
        hostGone := s1.hostGone ++ [(base, len)],
        cores := s1.cores.map fun (c : Nat × CoreHw) =>
          (c.1, { c.2 with tlb := c.2.tlb.filter fun e => !hit e, slice := c.2.slice.filter fun e => !hit e }) }).tick

-- Interrupts (R377).

/-- INTPEND_CLEAR. -/
def execIntpendClear (fn : Nat) (v : BitVec 64) (s : State) : Host.Outcome State Fault Refusal :=
  .next (s.setFn fn fun f => { f with intPend := f.intPend &&& ~~~v })

/-- Whether a vector's owed message may be sent. -/
def State.messageDue (s : State) (fn vec : Nat) : Bool :=
  let r := s.fnRegs fn
  tabGet r.unsent vec 0 != 0 && !bitOf r.vecMask.toNat vec &&
    match r.lastMsg.find? (·.1 == vec) with
    | some m => decide (m.2 + r.icoal.toNat * usec ≤ s.clk17)
    | none => true

/-- INTERRUPT_MESSAGE. -/
def execInterruptMessage (fn vec : Nat) (s : State) : Host.Outcome State Fault Refusal :=
  .next <|
    if s.messageDue fn vec then
      { (s.modFn fn fun f =>
          { f with unsent := tabMod f.unsent vec 0 (· - 1), lastMsg := tabSet f.lastMsg vec s.clk17 }) with
        messages := s.messages ++ [(fn, vec)] }
    else s

-- Quadrant owners (R372, R373).

/-- QOWN_WRITE: the change waits until the quadrant is empty. -/
def execQownWrite (quad : Nat) (v : BitVec 32) (s : State) : Host.Outcome State Fault Refusal :=
  .next <|
    let fn := v.toNat % 32
    if 768 ≤ quad || (16 < fn && fn != 31) then s
    else s.modQuadHw quad fun q => { q with wanted := if q.own == fn then none else some fn }

/-- Whether a quadrant holds no block, no control thread and no live operation. -/
def State.quadEmpty (s : State) (quad : Nat) : Bool :=
  (s.blocksOn (quad / 4) (quad % 4)).isEmpty && !s.ctlTaken (quad / 4) (quad % 4) &&
    s.ops.all fun o => s.opQuad o != some quad

/-- The change itself (R49, R373): what used the old owner's translations reaches its home, banks and L1 ways are zeroed, the
translations removed from the core; FNGEN at a first quadrant. -/
def State.changeOwner (s : State) (quad fn : Nat) : State :=
  let old := (s.quadHw quad).own
  let keep (c : Nat) : Bool := s.ctxFn c != old
  let s1 := ((s.drainXlat fun c => !keep c).zeroQuad quad).dropL1Of (quad / 4) old
  let s2 := s1.modCoreHw (quad / 4) fun h =>
    { h with tlb := h.tlb.filter fun e => keep e.ctx, slice := h.slice.filter fun e => keep e.ctx,
             ptrs := h.ptrs.filter fun e => keep e.ctx }
  let first := fn != 31 && (s2.quadsOf fn).isEmpty
  let s3 := s2.modQuadHw quad fun q => { q with own := fn, wanted := none }
  ((if first then s3.nextGen fn else s3).wantRounds).tick

/-- QOWN_CHANGE. -/
def execQownChange (quad : Nat) (s : State) : Host.Outcome State Fault Refusal :=
  .next <|
    match (s.quadHw quad).wanted with
    | some fn => if s.quadEmpty quad then s.changeOwner quad fn else s
    | none => s

/-- PTPOOL_SIZE_WRITE (R319). -/
def execPtpoolSizeWrite (v : BitVec 32) (s : State) : Host.Outcome State Fault Refusal :=
  .next (if 768 < v.toNat % 2 ^ 10 then s else { s with ptpool := v.toNat % 2 ^ 10 }.wantRounds)

-- Debug (R367, R369).

/-- A dump's entry for a register write that waits on memory (R367): slot, lanes and instruction, and the register as a wait names
it (v(r) as r, s(r) as 0x44 + r). -/
def dumpEntry (slot lanes pc r : Nat) : List Byte :=
  let reg := if r < 0x44 then r else r - 0x44 + 2 ^ 6
  toBytes 8 (reg + slot * 2 ^ 8 + 0xFFFF * 2 ^ 16 + lanes * 2 ^ 32) ++ toBytes 8 pc

/-- The entries of an access that is to write `dst.2` registers from `dst.1` on. -/
def dumpAccess (slot lanes pc : Nat) (dst : Nat × Nat) : List (List Byte) :=
  (List.range dst.2).map fun i => dumpEntry slot lanes pc (dst.1 + i)

/-- The registers a late access is to write. -/
def LateAcc.dst (l : LateAcc) : Nat × Nat :=
  let n := match l.kind with
    | .load _ _ _ => accWords l.n
    | .atom _ _ _ => l.n / 4
    | .store _ _ _ => 0
  (if l.uni then l.d + 0x44 else l.d, n)

/-- The entries of a group: its fragments that wait for fills, then its late accesses, those of one instruction together. -/
def State.dumpGroup (s : State) (b : Block) (g : Group) : List (List Byte) :=
  let fills := (List.range 32).flatMap fun l =>
    match g.thread? l with
    | some t =>
      match t.wait with
      | .fill _ _ dst _ _ =>
        let f := g.fillFragment l
        if f.head? == some l then dumpAccess g.slot (maskOf f).toNat t.pc dst else []
      | _ => []
    | none => []
  let mine := s.wq.late.filter fun l => l.writes && sameUni l.owner (.frag b.id g.num 0)
  let lanes (l : LateAcc) : Nat :=
    (mine.filter fun k => k.issue == l.issue && k.dst == l.dst).foldl (fun m k =>
      match k.owner with
      | .frag _ _ x => m ||| x.toNat
      | _ => m) 0
  fills ++ ((mine.map fun l => (l.issue, l.pc, l.dst, lanes l)).eraseDups.flatMap fun x => dumpAccess g.slot x.2.2.2 x.2.1 x.2.2.1)

/-- The entries of a control thread, which has no lanes. -/
def State.dumpCtl (s : State) (b : Block) (c : Ctl) : List (List Byte) :=
  (match c.wait with
    | .fill _ _ dst _ _ => dumpAccess 0xFF 0 c.pc dst
    | _ => []) ++
    (s.wq.late.filter fun l => l.writes && sameUni l.owner (.ctl b.id c.rank c.quad)).flatMap fun l => dumpAccess 0xFF 0 l.pc l.dst

/-- Every register write that waits in a quadrant (R367): the model's arithmetic results are written as their instruction issues
(log 35). -/
def State.dumpOf (s : State) (quad : Nat) : List (List Byte) :=
  s.blocks.flatMap fun b =>
    let fn := s.ctxFn (s.blockCtx b.id)
    let here (rank q : Nat) : Bool := b.resident && quadNo (b.coreOf rank) (s.physQuad (b.coreOf rank) fn q) == quad
    ((b.groups.filter fun g => !g.retired && !g.saved && here (b.rankOf g.num) (b.quadOf g.num)).flatMap (s.dumpGroup b)) ++
      ((b.ctls.filter fun c => here c.rank c.quad).flatMap (s.dumpCtl b))

/-- The dump written to DBGBUF, where that is a place of the device's memory, and counted. -/
def State.dump (s : State) (quad : Nat) : State :=
  let es := s.dumpOf quad
  let k := (s.quadHw quad).dbgBuf.toNat
  let s1 := if es.isEmpty || !isHbm k then s else s.homeWrite k es.flatten
  s1.modQuadHw quad fun q => { q with dbgEntries := es.length }

/-- DBGCTL: STOP, SESSION, CTXID, RUN, and DUMP while the quadrant is stopped. -/
def State.writeDbg (s : State) (quad v : Nat) : State :=
  if 768 ≤ quad then s
  else
    (if bitOf v 28 && (s.quadHw quad).stopped then s.dump quad else s).modQuadHw quad fun q =>
      { q with stopped := (q.stopped || bitOf v 31) && !bitOf v 30, session := bitOf v 29, dbgCtx := bitsOf v 27 16 }

/-- DBGCTL as it reads. -/
def QuadHw.dbgCtl (q : QuadHw) : Nat :=
  (if q.stopped then 2 ^ 31 else 0) + (if q.session then 2 ^ 29 else 0) + q.dbgCtx % 2 ^ 12 * 2 ^ 16 + q.dbgEntries % 2 ^ 16

/-- DEBUG_STOP: STOP written, the session as it is. -/
def execDebugStop (quad : Nat) (s : State) : Host.Outcome State Fault Refusal :=
  .next (s.writeDbg quad ((s.quadHw quad).dbgCtl % 2 ^ 31 + 2 ^ 31))
/-- DEBUG_RUN. -/
def execDebugRun (quad : Nat) (s : State) : Host.Outcome State Fault Refusal :=
  .next (s.writeDbg quad ((s.quadHw quad).dbgCtl % 2 ^ 30 + 2 ^ 30))
/-- DEBUG_DUMP. -/
def execDebugDump (quad : Nat) (s : State) : Host.Outcome State Fault Refusal :=
  .next (s.writeDbg quad ((s.quadHw quad).dbgCtl % 2 ^ 30 + 2 ^ 28))

/-- A monitor's results cleared. -/
def Monitor.clear (m : Monitor) : Monitor := { m with min := 0, max := 0, bins := [] }

/-- A monitor of a core changed. -/
def State.modMon (s : State) (core n : Nat) (f : Monitor → Monitor) : State :=
  if 4 ≤ n then s else s.modCoreHw core fun h => { h with mons := tabMod h.mons n {} f }

/-- MONITOR_CLEAR. -/
def execMonitorClear (core n : Nat) (s : State) : Host.Outcome State Fault Refusal := .next (s.modMon core n Monitor.clear)

/-- MONCTL: a SRC of 8 to 15 leaves SRC as it is. -/
def Monitor.write (m : Monitor) (v : Nat) : Monitor :=
  let src := if v % 16 < 8 then v % 16 else m.ctl.toNat % 16
  let x := { m with ctl := BitVec.ofNat 32 (bitsOf v 31 31 * 2 ^ 31 + bitsOf v 15 4 * 16 + src) }
  if bitOf v 30 then x.clear else x

/-- Whether a function whose debug space holds a core's comparators is READY (R366, R381): one that owns a quadrant of the
core. -/
def State.debugReady (s : State) (core : Nat) : Bool := (List.range 4).any fun q => (s.fnRegs (s.quadHw (quadNo core q)).own).ready

/-- A watchpoint comparator of a core changed, where its function is READY. -/
def State.modWp (s : State) (core n : Nat) (f : Watchpoint → Watchpoint) : State :=
  if 8 ≤ n || !s.debugReady core then s else s.modCoreHw core fun h => { h with wps := tabMod h.wps n {} f }

-- Other registers.

/-- DSCTL, PECTL, TRCTL after a write. -/
def dsctlOf (old v : Nat) : Nat :=
  (if bitsOf v 31 24 == 0 then bitsOf old 31 24 else bitsOf v 31 24) * 2 ^ 24 +
    (if 100 ≤ bitsOf v 19 0 && bitsOf v 19 0 ≤ 1000000 then bitsOf v 19 0 else bitsOf old 19 0)
def pectlOf (old v : Nat) : Nat := if bitsOf v 16 0 ≤ 100000 then bitsOf v 16 0 else old
def trctlOf (old v : Nat) : Nat :=
  bitsOf v 31 31 * 2 ^ 31 + (if 100 ≤ bitsOf v 19 0 && bitsOf v 19 0 ≤ 1000000 then bitsOf v 19 0 else bitsOf old 19 0)

/-- A context descriptor's 8-byte word written (R302); words 2 to 7 are reserved, and a word whose reserved bits are not zero is
rejected (R5). -/
def State.writeCtx (s : State) (ctx word : Nat) (v : Nat) : State :=
  let d := s.ctxDesc ctx
  if 4096 ≤ ctx then s
  else if word == 0 then { s with ctxs := tabSet s.ctxs ctx { d with root := BitVec.ofNat 64 v } }
  else if word == 1 && bitsOf v 30 21 == 0 then
    { s with ctxs := tabSet s.ctxs ctx { d with ident := BitVec.ofNat 32 v, ctrl := BitVec.ofNat 32 (v / 2 ^ 32) } }
  else s

/-- An export table entry's word (R379): the rights stand in bits 63:61 of its length word, atomic, write, read (log 36). -/
def State.writeExport (s : State) (port entry : Nat) (f : ExportEnt → ExportEnt) : State :=
  if 16 ≤ port || 64 ≤ entry then s else { s with exports := tabMod s.exports (port * 64 + entry) {} f }

/-- PRQSIZE: a power of two from 16 to 4,096; another value is ignored. -/
def prqOk (n : Nat) : Bool := decide (16 ≤ n) && decide (n ≤ 4096) && 2 ^ n.log2 == n

/-- The registers of a function. -/
def State.writeFnReg (s : State) (r : RegName) (v : Nat) : State :=
  let w (n : Nat) : Word := BitVec.ofNat 32 n
  let d (n : Nat) : DWord := BitVec.ofNat 64 n
  match r with
  | .tlbiCtl fn => s.writeTlbi fn (v % 2 ^ 32)
  | .tlbiVa fn => s.setFn fn fun f => { f with tlbiVa := d (bitsOf v 55 12 * 4096) }
  | .tlbiNpg fn => s.setFn fn fun f => { f with tlbiNpg := w v }
  | .trlAddr fn => s.setFn fn fun f => { f with trlAddr := d (bitsOf v 55 6 * 64) }
  | .trlCtl fn => s.writeTrl fn (w v)
  | .rstCtl fn => s.writeRstCtl fn v
  | .rstTmo fn => s.setFn fn fun f =>
      if 100 ≤ bitsOf v 19 0 && bitsOf v 19 0 ≤ 1000000 then { f with rstTmo := w (bitsOf v 19 0) } else f
  | .clkOfs fn =>
    if fn == 0 || decide (v < (s.fnRegs fn).clkOfs.toNat) then s else s.setFn fn fun f => { f with clkOfs := d v }
  | .spillBase fn => s.setFn fn fun f => { f with spillBase := d (bitsOf v 51 21 * 2 ^ 21) }
  | .spillSize fn => s.setFn fn fun f => { f with spillSize := d v }
  | .prqBase fn => s.setFn fn fun f => { f with prqBase := d v }
  | .prqSize fn => s.setFn fn fun f => if prqOk v then { f with prqSize := w v } else f
  | .icoal fn => s.setFn fn fun f => { f with icoal := BitVec.ofNat 16 v }
  | .vecMask fn => s.setFn fn fun f => { f with vecMask := d v }
  | _ => s

/-- The registers of firmware and debug space. -/
def State.writeDevReg (s : State) (r : RegName) (v : Nat) : State :=
  let w (n : Nat) : Word := BitVec.ofNat 32 n
  let d (n : Nat) : DWord := BitVec.ofNat 64 n
  match r with
  | .vsctl die => if 4 < v % 8 then s else s.modDieHw die fun h => { h with vsctl := w (v % 8) }
  | .mbxg die e =>
    if 64 ≤ e then s
    else s.modDieHw die fun h => { h with mbxg := tabSet h.mbxg e (d v &&& 0x8FFFE000001FFFFF) }
  | .dsctl k => s.modDisp k fun x => { x with dsctl := w (dsctlOf x.dsctl.toNat v) }
  | .pectl k => s.modDisp k fun x => { x with pectl := w (pectlOf x.pectl.toNat v) }
  | .trctl k => s.modDisp k fun x => { x with trctl := w (trctlOf x.trctl.toNat v) }
  | .ctxWord c k => s.writeCtx c k v
  | .wpBase core n => s.modWp core n fun x => { x with base := d (bitsOf v 55 0) }
  | .wpLim core n => s.modWp core n fun x => { x with lim := d (bitsOf v 55 0) }
  | .wpCtl core n => s.modWp core n fun x => { x with ctl := w v &&& 0x8FFF0007 }
  | .monCtl core n => s.modMon core n fun x => x.write v
  | .dbgCtl quad => s.writeDbg quad (v % 2 ^ 32)
  | .dbgBuf quad => s.modQuadHw quad fun q => { q with dbgBuf := d v }
  | .exportBase p e => s.writeExport p e fun x => { x with base := d v }
  | .exportLen p e => s.writeExport p e fun x => { x with len := d v }
  | .exportPhys p e => s.writeExport p e fun x => { x with phys := d v }
  | _ => s

/-- A function's registers as they read: those of one that is not READY read as zero (R381). -/
def FnRegs.seen (f : FnRegs) : FnRegs := if f.ready then f else { rstCtl := 0, rstTmo := 0, stage := f.stage }

/-- FNSTAT (R381). -/
def FnRegs.fnstat (f : FnRegs) : Nat := (if f.ready then 2 ^ 31 else 0) + f.stage % 256

/-- A register of a function as it reads. -/
def State.readFnReg (s : State) (r : RegName) : Nat :=
  let f (fn : Nat) : FnRegs := (s.fnRegs fn).seen
  match r with
  | .tlbiCtl fn => (f fn).tlbiCtl.toNat
  | .tlbiVa fn => (f fn).tlbiVa.toNat
  | .tlbiNpg fn => (f fn).tlbiNpg.toNat
  | .trlAddr fn => (f fn).trlAddr.toNat
  | .trlCtl fn => (f fn).trlCtl.toNat
  | .rstCtl fn => (f fn).rstCtl.toNat
  | .rstTmo fn => (f fn).rstTmo.toNat
  | .clkOfs fn => (f fn).clkOfs.toNat
  | .spillBase fn => (f fn).spillBase.toNat
  | .spillSize fn => (f fn).spillSize.toNat
  | .prqBase fn => (f fn).prqBase.toNat
  | .prqSize fn => (f fn).prqSize.toNat
  | .icoal fn => (f fn).icoal.toNat
  | .vecMask fn => (f fn).vecMask.toNat
  | .fngen fn => (f fn).fngen.toNat
  | .intPend fn => (f fn).intPend.toNat
  | .fnstat fn => (s.fnRegs fn).fnstat
  | _ => 0

/-- A register of firmware or debug space as it reads. -/
def State.readDevReg (s : State) (r : RegName) : Nat :=
  let wp (core n : Nat) : Watchpoint := if s.debugReady core then tabGet (s.coreHw core).wps n {} else {}
  let ex (p e : Nat) : ExportEnt := tabGet s.exports (p * 64 + e) {}
  match r with
  | .vsctl die => (s.dieHw die).vsctl.toNat
  | .mbxg die e => (tabGet (s.dieHw die).mbxg e 0).toNat
  | .dsctl k => (s.disp k).dsctl.toNat
  | .pectl k => (s.disp k).pectl.toNat
  | .trctl k => (s.disp k).trctl.toNat
  | .ctxWord c 0 => (s.ctxDesc c).root.toNat
  | .ctxWord c 1 => (joinPair (s.ctxDesc c).ident (s.ctxDesc c).ctrl).toNat
  | .wpBase core n => (wp core n).base.toNat
  | .wpLim core n => (wp core n).lim.toNat
  | .wpCtl core n => (wp core n).ctl.toNat
  | .monCtl core n => (tabGet (s.coreHw core).mons n {}).ctl.toNat
  | .dbgCtl quad => (s.quadHw quad).dbgCtl
  | .dbgBuf quad => (s.quadHw quad).dbgBuf.toNat
  | .exportBase p e => (ex p e).base.toNat
  | .exportLen p e => (ex p e).len.toNat
  | .exportPhys p e => (ex p e).phys.toNat
  | _ => 0

/-- A register as it reads: each name is of one of the two kinds. -/
def State.readReg (s : State) (r : RegName) : Nat := s.readFnReg r + s.readDevReg r

/-- REGISTER_WRITE (R5, R6): a read-only register ignores it. -/
def execRegisterWrite (r : RegName) (v : BitVec 64) (s : State) : Host.Outcome State Fault Refusal :=
  .next ((s.writeFnReg r v.toNat).writeDevReg r v.toNat)

end Sys2Proof.Machine
end

