-- ==== Sys2Proof/Machine/LaunchOps.lean ====
section
/-!
DEFINITION. LAUNCH and SIGNAL (10_control_thread_and_engine_instructions.md R278, R279; 12_dispatch_and_issue.md R306).
-/
namespace Sys2Proof.Machine

/-- The checks of LAUNCH. -/
def State.launchFault (s : State) (x : Site) (b : Block32) (here : DWord) : Option (Cause × DWord) :=
  let p := blkPtr b 0
  if ptrSpace p != 0 || decide (1023 < blkWord b 2) || blkWord b 3 != 0 then some (.illegalOperand, here)
  else if p.toNat % 64 != 0 then some (.alignment, p)
  else s.checkSpan x .ce .read p 64

/-- LAUNCH (R278). -/
def execLaunch (x : UE1) (s : State) : Host.Outcome State Fault Refusal :=
  execBlockCmd x.e.toNat 4 State.launchFault .launch x.t.toNat (fun b => .launch (blkPtr b 0) (blkWord b 2) none) s

/-- The checks of SIGNAL. -/
def State.signalFault (s : State) (x : Site) (b : Block32) (here : DWord) : Option (Cause × DWord) :=
  let p := blkPtr b 0
  if ptrSpace p != 0 && ptrSpace p != 5 then some (.illegalOperand, here)
  else if p.toNat % 8 != 0 then some (.alignment, p)
  else (s.checkAccess x .ce .atomic p 8).map fun c => (c, p)

/-- SIGNAL.ADD (R279). -/
def execSignalAdd (x : UE1) (s : State) : Host.Outcome State Fault Refusal :=
  execBlockCmd x.e.toNat 4 State.signalFault .launch x.t.toNat (fun b => .signal false (blkPtr b 0) (blkPtr b 2)) s

/-- SIGNAL.SET (R279). -/
def execSignalSet (x : UE1) (s : State) : Host.Outcome State Fault Refusal :=
  execBlockCmd x.e.toNat 4 State.signalFault .launch x.t.toNat (fun b => .signal true (blkPtr b 0) (blkPtr b 2)) s

/-- What the write of a packet into a ring slot comes to: its place, or the cause of R278. -/
def State.slotPlace (s : State) (ctx va : Nat) : Except Cause Nat :=
  match s.leafOf ctx va with
  | .leaf x =>
    if !pteWr x.entry then .error .accessClass
    else if pteMt x.entry == 1 && s.hostAbsent (x.base + va % 2 ^ x.bits) then .error .leaseViolation
    else .ok (x.at va)
  | _ => .error .leaseViolation

/-- The slot reserved and marked ready, the write index advanced over ready slots. -/
def State.reserveSlot (s : State) (id : Nat) (void : Bool) : State :=
  s.changeQueue id fun q =>
    ({ q with resv := q.resv + 1, ready := q.ready ++ [(q.resv, void)] } : Queue).advance (q.ready.length + 1)

/-- A die that has used its replica of a control block holds a valid one (R303). -/
def State.useReplica (s : State) (id die : Nat) : State :=
  s.modQueue id fun q => { q with replicas := q.replicas.set die true }

/-- A packet written into the slot at the reservation index, which is the operation's footprint (R132). -/
def State.writeSlot (s : State) (o : EngOp) (q : Queue) (ptr : DWord) (num : Nat) (bs : List Byte) : State :=
  let va := q.slotVa q.resv
  match s.slotPlace q.ctx va with
  | .ok k =>
    (((s.homeWrite k bs).reserveSlot q.id false).modOp o.id fun y =>
      { y with started := true, kind := .launch ptr num (some q.resv), foot := [(k, k + 63)] }).tick
  | .error c =>
    ((s.reserveSlot q.id true).modOp o.id fun y =>
      { y with started := true, fault := some (c.code, BitVec.ofNat 64 va), kind := .launch ptr num (some q.resv) }).tick

/-- LAUNCH_SLOT_WRITE (R278, R306). -/
def execLaunchSlotWrite (id : Nat) (s : State) : Host.Outcome State Fault Refusal :=
  .next <|
    match (s.op? id).bind fun o => (s.opSite o).map fun x => (o, x) with
    | none => s
    | some (o, x) =>
      match o.kind with
      | .launch ptr num none =>
        if !s.opLive o || o.fault.isSome then s
        else
          match s.engReadAt x .ce ptr 64 with
          | (s1, .ok bs) =>
            match s1.queueNamed x.ctx num with
            | none => s1.stopNowhere id .illegalOperand
            | some q =>
              if !q.device then s1.stopNowhere id .illegalOperand
              else if q.entries ≤ q.resv - q.ridx then s
              else (s1.useReplica q.id x.die).writeSlot o q ptr num bs
          | (s1, m) => s1.haltOp id m
      | _ => s

/-- Whether the write index has passed a slot. -/
def State.slotPassed (s : State) (ctx num slot : Nat) : Bool :=
  ((s.queueNamed ctx num).map fun q => decide (slot < q.widx)).getD true

/-- LAUNCH_COMPLETE (R256, R278). -/
def execLaunchComplete (id : Nat) (s : State) : Host.Outcome State Fault Refusal :=
  .next <|
    match (s.op? id).bind fun o => (s.opSite o).map fun x => (o, x) with
    | none => s
    | some (o, x) =>
      match o.kind with
      | .launch _ num slot =>
        if !s.opLive o then s
        else if o.fault.isSome then s.finishOp o
        else
          match slot with
          | some i =>
            if s.slotPassed x.ctx num i then s.finishOp { o with words := [BitVec.ofNat 32 i] } else s
          | none => s
      | _ => s

/-- The atomic of a SIGNAL at its place (R124, R279), which is its footprint. -/
def State.signalAtomic (s : State) (o : EngOp) (x : Site) (set : Bool) (p v : DWord) (pl : Place) : State :=
  let stop (s : State) (c : Cause) : State := s.finishOp { o with fault := some (c.code, p) }
  let mt := match pl with
    | .glob _ _ mt _ => mt
    | .peer _ => 2
    | _ => 0
  if mt != 0 then stop s .accessClass
  else
    match s.atomBy x .none pl (if set then 6 else 0) 8 v.toNat 0 with
    | (s1, .ok old) =>
      s1.finishOp { o with words := pairWords (BitVec.ofNat 64 old), foot := (pl.key.map fun k => [(k, k + 7)]).getD [] }
    | (s1, .error c) => stop s1 c

/-- SIGNAL_COMPLETE (R256, R279). -/
def execSignalComplete (id : Nat) (s : State) : Host.Outcome State Fault Refusal :=
  .next <|
    match (s.op? id).bind fun o => (s.opSite o).map fun x => (o, x) with
    | none => s
    | some (o, x) =>
      match o.kind with
      | .signal set p v =>
        if !s.opLive o then s
        else
          match s.place x (0, 0) p with
          | (s1, .ok pl) => s1.signalAtomic o x set p v pl
          | (s1, .error c) => s1.finishOp { o with fault := some (c.code, p) }
      | _ => s

end Sys2Proof.Machine
end

