-- ==== Sys2Proof/Machine/Packets.lean ====
section
/-!
DEFINITION. The packets of a ring and the nodes of a graph (12_dispatch_and_issue.md R307, R309 to R313, R324; R61).
-/
namespace Sys2Proof.Machine

-- COPY (R309).

/-- Bytes at a VA of a context, read at their homes over its leaves; bytes no leaf maps any more are free values. -/
def State.vaRead (s : State) (ctx : Nat) : Nat → Nat → Nat → State × List Byte
  | 0, _, _ => (s, [])
  | k + 1, va, n =>
    let m := min n (4096 - va % 4096)
    if m == 0 then (s, [])
    else
      let (s1, b) := match s.leafOf ctx va with
        | .leaf x => (s.homeServed (x.at va) m ctx).homeBytes (x.at va) m
        | _ => ({ s with fresh := s.fresh + m }, (List.range m).map fun (i : Nat) => Config.freeByte (s.fresh + i))
      let (s2, bs) := s1.vaRead ctx k (va + m) (n - m)
      (s2, b ++ bs)

/-- Bytes written at a VA of a context within one 32-byte sector. -/
def State.vaWrite (s : State) (ctx va : Nat) (bs : List Byte) : State :=
  match s.leafOf ctx va with
  | .leaf x => (s.homeWrite (x.at va) bs).llcUse ctx (x.at va / 128) true none false none
  | _ => s

/-- The ranges of a COPY as leases: R on the source, W on the destination, PLACE = STAY. -/
def copyRanges (raw : List DWord) : List LeaseRange :=
  let n := pktBody raw 2
  [⟨pktBody raw 0, n, true, false, false, false, false, 0, 0, 0⟩,
   ⟨pktBody raw 1, n, false, true, false, false, false, 0, 0, 0⟩]

/-- The bytes of the source, by number, whose value from before an overlapping copy may be the one that byte i of it takes
(R264): its own, or, where the copy writes that place too, those that the byte written there may have taken. -/
def overlapFrom (src dst len : Nat) : Nat → Nat → List Nat
  | 0, i => [i]
  | k + 1, i => i :: (if dst ≤ src + i && src + i < dst + len && src != dst then overlapFrom src dst len k (src + i - dst) else [])

/-- A byte of an overlapping copy: what its place holds, or one of those values, as a free value has it. -/
def overlapByte (src dst len : Nat) (snap : List Byte) (pick i : Nat) (now : Byte) : Byte :=
  match overlapFrom src dst len len i with
  | [_] => now
  | l =>
    match pick % (l.length + 1) with
    | 0 => now
    | k + 1 => snap.getD (l.getD k i) now

/-- What a COPY keeps of its source: all of it, where its destination overlaps it. -/
def State.copySnap (s : State) (ctx : Nat) (raw : List DWord) : List Byte :=
  let src := pktBody raw 0
  let dst := pktBody raw 1
  let len := pktBody raw 2
  if src + len ≤ dst || dst + len ≤ src then [] else (s.vaRead ctx (len / 4096 + 2) src len).2

/-- The next sector of a COPY from byte `prog` of it on, and the bytes moved. Source bytes that the copy also writes are
chosen as R264 allows (log 17). -/
def State.packetSector (s : State) (ctx : Nat) (raw : List DWord) (snap : List Byte) (prog : Nat) : State × Nat :=
  let src := pktBody raw 0
  let dst := pktBody raw 1
  let len := pktBody raw 2
  let n := min (len - prog) (32 - (dst + prog) % 32)
  let (s1, bs) := s.vaRead ctx 3 (src + prog) n
  let bs' := if snap.isEmpty then bs
    else (List.range n).map fun (i : Nat) =>
      overlapByte src dst len snap (Config.freeDWord (s1.fresh + i)).toNat (prog + i) (bs.getD i 0)
  (({ s1 with fresh := s1.fresh + n }.vaWrite ctx (dst + prog) bs').tick, n)

/-- The rest of a COPY, sector by sector in ascending order. -/
def State.copyRest (s : State) (ctx : Nat) (raw : List DWord) (snap : List Byte) : Nat → Nat → State
  | 0, _ => s
  | k + 1, prog =>
    if pktBody raw 2 ≤ prog then s
    else
      let (s1, n) := s.packetSector ctx raw snap prog
      s1.copyRest ctx raw snap k (prog + n)

/-- The sectors a COPY may have. -/
def copySectors (raw : List DWord) : Nat := pktBody raw 2 / 32 + 2

/-- COPY_PACKET (R309): its ranges resolved, marked and pinned; the copy engines then move its sectors. -/
def execCopyPacket (x : PktRef) (s : State) : Host.Outcome State Fault Refusal :=
  .next <| s.packet x 2 fun s p =>
    match s.resolveAll p.q.ctx p.q.die s.nextId qeAccess (copyRanges p.raw) with
    | (s1, .wait) => (s1, .hold)
    | (s1, .fail c) => (s1, .fail c)
    | (s1, .ok ps) => ((s1.markLeaves (copyRanges p.raw) ps).pinAll ps, .run ps (s1.copySnap p.q.ctx p.raw))

-- WAIT, COND, SIGNAL, INTERRUPT, MARKER (R309, R310).

/-- The signal of WAIT and COND read at its home with acquire order, and its condition. -/
def State.condition (s : State) (ctx : Nat) (raw : List DWord) : State × QpRes Bool :=
  qpThen (s.signalAt ctx (raw.getD 3 0) false) fun s1 k =>
    (s1.tick, .ok (signalHolds (pktBody raw 2) (s1.word64 k) (pktBody raw 1)))

/-- WAIT_PACKET. -/
def execWaitPacket (x : PktRef) (s : State) : Host.Outcome State Fault Refusal :=
  .next <| s.packet x 3 fun s p =>
    match s.condition p.q.ctx p.raw with
    | (s1, .ok true) => (s1, .done true)
    | (s1, .ok false) => (s1, .block)
    | (s1, .wait) => (s1, .hold)
    | (s1, .fail c) => (s1, .fail c)

/-- COND_PACKET: false, a ring packet marks the packets after it as completed. -/
def execCondPacket (x : PktRef) (s : State) : Host.Outcome State Fault Refusal :=
  .next <| s.packet x 5 fun s p =>
    match s.condition p.q.ctx p.raw with
    | (s1, .ok b) =>
      (if !b && p.node.isNone then s1.modQueue p.q.id fun q => { q with skip := pktBody p.raw 2 / 2 ^ 8 } else s1, .done b)
    | (s1, .wait) => (s1, .hold)
    | (s1, .fail c) => (s1, .fail c)

/-- SIGNAL_PACKET. -/
def execSignalPacket (x : PktRef) (s : State) : Host.Outcome State Fault Refusal :=
  .next <| s.packet x 4 fun s p =>
    match s.signalAt p.q.ctx (p.raw.getD 3 0) true with
    | (s1, .ok k) => (s1.homeAtomic k (bitOf (pktBody p.raw 2) 0) (pktBody p.raw 1), .done true)
    | (s1, .wait) => (s1, .hold)
    | (s1, .fail c) => (s1, .fail c)

/-- INTERRUPT_PACKET. -/
def execInterruptPacket (x : PktRef) (s : State) : Host.Outcome State Fault Refusal :=
  .next <| s.packet x 8 fun s p => (s.raiseIrq (s.ctxFn p.q.ctx) (pktVector p.raw), .done true)

/-- MARKER_PACKET: the tag and CLK64 go to the status line. -/
def execMarkerPacket (x : PktRef) (s : State) : Host.Outcome State Fault Refusal :=
  .next <| s.packet x 9 fun s p =>
    let mark (q : Queue) : Queue := { q with marker := pktBody p.raw 0, markerClk := s.clk17 / 17 }
    (if p.node.isSome then s.changeQueue p.q.id mark else s.modQueue p.q.id mark, .done true)

-- LEASE packets (R61, R309).

/-- The frames of the leaves of a range. -/
def State.framesOf (s : State) (ctx base len : Nat) : List Nat :=
  (s.rangePins ⟨base, len, false, false, false, false, false, 0, 0, 0⟩ ctx (len / 4096 + 2) base).map (·.key)

/-- The leases that stand: each grid's, and each running COPY's, with the pages they pin. -/
def State.leasesHeld (s : State) : List (List LeaseRange × List Pin) :=
  (s.grids.filter (·.lease == .granted)).map (fun g => (g.leases, g.pins)) ++
    s.queues.flatMap fun q =>
      (q.run.filter fun r => pktKind r.raw == 2 && !r.done).map (fun r => (copyRanges r.raw, r.pins)) ++
      q.graphs.flatMap fun g => g.running.filterMap fun r =>
        let raw := g.nodes.getD r.node []
        if pktKind raw == 2 && !r.done then some (copyRanges raw, r.pins) else none

/-- Whether a lease with W, of any context, covers a page of a range (R61). -/
def State.writtenOver (s : State) (ctx base len : Nat) : Bool :=
  let frames := s.framesOf ctx base len
  s.leasesHeld.any fun h => h.2.any fun p => frames.contains p.key &&
    h.1.any fun l => l.w && decide (l.base < p.va + 2 ^ p.bits) && decide (p.va < l.base + l.len)

/-- Each replicated page from a VA on copied from its primary to its other replicas. -/
def State.syncPages (s : State) (ctx last : Nat) : Nat → Nat → State
  | 0, _ => s
  | k + 1, va =>
    if last ≤ va then s
    else
      match s.leafOf ctx va with
      | .leaf x =>
        let s1 := ((allCopies x.entry x.base).drop 1).foldl (fun (s : State) d => s.copyPlace x.base d (2 ^ x.bits)) s
        s1.tick.syncPages ctx last k (x.first va + 2 ^ x.bits)
      | _ => s.syncPages ctx last k (va / 4096 * 4096 + 4096)

/-- The synchronisation a REPL.SYNC makes, none while a lease with W covers its range. -/
def State.replSync (s : State) (ctx : Nat) (raw : List DWord) : Option State :=
  let base := pktBody raw 0
  let len := pktBody raw 1
  if s.writtenOver ctx base len then none else some (s.syncPages ctx (base + len) (len / 4096 + 2) base)

/-- REPL_SYNC. -/
def execReplSync (x : PktRef) (s : State) : Host.Outcome State Fault Refusal :=
  .next <| s.packet x 10 fun s p =>
    if bitOf (pktBody p.raw 2) 0 then (s, .hold)
    else
      match s.replSync p.q.ctx p.raw with
      | some s1 => (s1, .done true)
      | none => (s, .run [])

/-- The range of a PRELOAD, read with RD (log 26). -/
def preloadRange (raw : List DWord) : LeaseRange :=
  ⟨pktBody raw 0, pktBody raw 1, true, false, false, false, false, bitsOf (pktBody raw 2) 9 8, bitsOf (pktBody raw 2) 13 12, 0⟩

/-- PRELOAD: the range resolved as a lease and released at once. -/
def execPreload (x : PktRef) (s : State) : Host.Outcome State Fault Refusal :=
  .next <| s.packet x 10 fun s p =>
    if !bitOf (pktBody p.raw 2) 0 then (s, .hold)
    else
      match s.resolveAll p.q.ctx p.q.die s.nextId qeAccess [preloadRange p.raw] with
      | (s1, .wait) => (s1, .hold)
      | (s1, .fail c) => (s1, .fail c)
      | (s1, .ok ps) => (s1.markLeaves [preloadRange p.raw] ps, .done true)

-- Graphs (R312, R313).

/-- The successors of a node: four indices, none where 0xFFFF. -/
def succsOf (raw : List DWord) : List (Option Nat) :=
  (List.range 4).map fun i =>
    let x := bitsOf (raw.getD 1 0).toNat (16 * i + 15) (16 * i)
    if x == 0xFFFF then none else some x

/-- A node's predecessor count. -/
def predsOf (raw : List DWord) : Nat := (raw.getD 2 0).toNat % 2 ^ 16

/-- The checks of a graph. -/
def graphOk (nodes : List (List DWord)) : Bool :=
  let all := nodes.flatMap fun x => (succsOf x).filterMap id
  all.all (fun i => decide (i < nodes.length)) &&
    (List.range nodes.length).all (fun i => predsOf (nodes.getD i []) == (all.filter (· == i)).length) &&
    nodes.any (fun x => predsOf x == 0) && nodes.all fun x => packetOk x true

/-- A list of 64-byte nodes. -/
def nodesOf (bs : List Byte) : List (List DWord) :=
  (List.range (bs.length / 64)).map fun i => wordsOf ((bs.drop (64 * i)).take 64)

/-- Nodes released: a REARM has nothing to start and is done at once; the others wait to start. -/
def GraphRun.release (g : GraphRun) (ns : List Nat) : GraphRun :=
  let rearm (n : Nat) : Bool := pktKind (g.nodes.getD n []) == 7
  { g with released := g.released ++ ns.filter (fun n => !rearm n),
           running := g.running ++ (ns.filter rearm).map fun n => (⟨n, true, true, 0, [], []⟩ : NodeRun) }

/-- A pass begun. -/
def GraphRun.pass (g : GraphRun) : GraphRun :=
  let pend := g.nodes.map predsOf
  ({ g with pend := pend, released := [], running := [], flag := false, most := 2 ^ 32 } : GraphRun).release
    ((List.range g.nodes.length).filter fun i => pend.getD i 0 == 0)

/-- GRAPH_PACKET (R313). -/
def execGraphPacket (x : PktRef) (s : State) : Host.Outcome State Fault Refusal :=
  .next <| s.packet x 6 fun s p =>
    match s.qpRead p.q.ctx (pktBody p.raw 0) (64 * pktBody p.raw 1) with
    | (s1, .wait) => (s1, .hold)
    | (s1, .fail c) => (s1, .fail c)
    | (s1, .ok bs) =>
      let nodes := nodesOf bs
      if !graphOk nodes then (s1, .fail qePacket)
      else
        let g : GraphRun := ⟨p.idx, nodes, [], [], [], false, 0, 0, false⟩
        (s1.modQueue p.q.id fun q => { q with graphs := q.graphs ++ [g.pass] }, .run [])

/-- A node that has completed releases its successors (R313). -/
def GraphRun.completed (g : GraphRun) (r : NodeRun) : GraphRun :=
  let raw := g.nodes.getD r.node []
  let rearm := pktKind raw == 7
  let ss := (if pktKind raw == 5 then (if r.outcome then (succsOf raw).take 2 else (succsOf raw).drop 2) else succsOf raw).filterMap id
  let pend := ss.foldl (fun (l : List Nat) i => modAt l i (· - 1)) g.pend
  let freed := (List.range g.nodes.length).filter fun i => ss.contains i && pend.getD i 0 == 0
  let g1 : GraphRun :=
    { g with pend := pend, running := g.running.filter (·.node != r.node), flag := g.flag || rearm,
             most := if rearm then min g.most (pktBody raw 0) else g.most }
  if g.failed then g1 else g1.release freed

/-- A pass with nothing released or running: the graph ends, or runs again. -/
def State.endPass (s : State) (q : Queue) (g : GraphRun) : State :=
  if g.failed || !g.released.isEmpty || !g.running.isEmpty then s
  else if !g.flag || decide (g.most ≤ g.rearms) then
    (s.changeQueue q.id fun x => { x with rearms := g.rearms, graphs := x.graphs.filter (·.index != g.index) }).workDone
      q.id g.index none true
  else
    s.modQueue q.id fun x =>
      { x with graphs := modIf x.graphs (·.index == g.index) fun y => ({ y with rearms := y.rearms + 1 } : GraphRun).pass }

/-- A running COPY or REPL.SYNC brought to its end: what remains of it done, its pins lowered; none while it waits. -/
def State.finishWork (s : State) (ctx : Nat) (raw : List DWord) (prog : Nat) (pins : List Pin) (snap : List Byte) : Option State :=
  match pktKind raw with
  | 2 => some ((s.copyRest ctx raw snap (copySectors raw) prog).unpinAll pins)
  | 10 => s.replSync ctx raw
  | _ => none

/-- A node's completion. -/
def State.nodeComplete (s : State) (q : Queue) (g : GraphRun) (r : NodeRun) : State :=
  let raw := g.nodes.getD r.node []
  let s1 := if bitOf (pktFlags raw) 2 then s.raiseIrq (s.ctxFn q.ctx) (pktVector raw) else s
  let g1 := g.completed r
  ((s1.noteLive q.ctx).modQueue q.id fun x =>
    { x with graphs := modIf x.graphs (·.index == g.index) fun _ => g1 }).endPass q g1

/-- GRAPH_NODE_COMPLETE (R313). -/
def execGraphNodeComplete (queue graph node : Nat) (s : State) : Host.Outcome State Fault Refusal :=
  .next <|
    match (s.queue? queue).bind fun q => (q.graphs.find? (·.index == graph)).bind fun g =>
        (g.running.find? (·.node == node)).map fun r => (q, g, r) with
    | none => s
    | some (q, g, r) =>
      if r.done then s.nodeComplete q g r
      else
        match s.finishWork q.ctx (g.nodes.getD node []) r.prog r.pins r.snap with
        | some s1 => s1.nodeComplete q g r
        | none => s

/-- PACKET_COMPLETION (R310): a packet whose work has ended performs its SA and IRQ. -/
def execPacketCompletion (queue index : Nat) (s : State) : Host.Outcome State Fault Refusal :=
  .next <|
    match (s.queue? queue).bind fun q => (q.run.find? (·.index == index)).map fun r => (q, r) with
    | none => s
    | some (q, r) =>
      if r.failed then s
      else if r.done then s.completePacket queue r
      else
        match s.finishWork q.ctx r.raw r.prog r.pins r.snap with
        | some s1 => s1.workDone queue index none true
        | none => s

/-- One sector of a running COPY packet or node (R131). -/
def State.copyPacketStep (s : State) (ref : PktRef) : State :=
  match s.queue? ref.queue with
  | none => s
  | some q =>
    match ref.node with
    | none =>
      match q.run.find? fun r => !r.done && !r.failed && pktKind r.raw == 2 && decide (r.prog < pktBody r.raw 2) with
      | none => s
      | some r =>
        let (s1, n) := s.packetSector q.ctx r.raw r.snap r.prog
        s1.modQueue q.id fun x =>
          { x with run := modIf x.run (·.index == r.index) fun y => { y with prog := y.prog + n } }
    | some (g, n) =>
      match (q.graphs.find? (·.index == g)).bind fun x => (x.running.find? (·.node == n)).map fun r => (x.nodes.getD n [], r) with
      | none => s
      | some (raw, r) =>
        if pktKind raw != 2 || decide (pktBody raw 2 ≤ r.prog) then s
        else
          let (s1, m) := s.packetSector q.ctx raw r.snap r.prog
          s1.modNode q.id g n fun y => { y with prog := y.prog + m }

-- Wake-ups and mapping (R307, R324).

/-- A ring WAIT evaluated afresh: where it holds its packet completes, and a thread that stood at it reads on. -/
def State.wakeRing (s : State) (q : Queue) : State :=
  match q.waiting with
  | none => s
  | some r =>
    if !q.mapped then s
    else
      match s.condition q.ctx r.raw with
      | (s1, .ok true) =>
        (s1.workDone q.id r.index none true).changeQueue q.id fun x =>
          if x.state == .blocked then { x with state := .active, since := s1.clk17, served := s1.seq } else x
      | (s1, .ok false) =>
        if q.state == .active then s1.changeQueue q.id fun x => { x with state := .blocked, since := s1.clk17, served := s1.seq }
        else s1
      | (s1, .wait) => s1
      | (s1, .fail c) => s1.failPacket ⟨q, r.index, none, r.raw⟩ c

/-- The waiting WAIT nodes of a queue's graphs: graph, node, words. -/
def Queue.waitNodes (q : Queue) : List (Nat × Nat × List DWord) :=
  q.graphs.flatMap fun g => g.running.filterMap fun r =>
    let raw := g.nodes.getD r.node []
    if pktKind raw == 3 && !r.done then some (g.index, r.node, raw) else none

/-- A WAIT node evaluated afresh. -/
def State.wakeNode (s : State) (q : Queue) (x : Nat × Nat × List DWord) : State :=
  match s.condition q.ctx x.2.2 with
  | (s1, .ok true) => s1.workDone q.id x.1 (some x.2.1) true
  | (s1, .ok false) => s1
  | (s1, .wait) => s1
  | (s1, .fail c) => s1.failPacket ⟨q, x.1, some x.2.1, x.2.2⟩ c

/-- WAIT_WAKE (R307): the queue's waits evaluated afresh; a status line that is owed is written. -/
def execWaitWake (queue : Nat) (s : State) : Host.Outcome State Fault Refusal :=
  .next <|
    match s.queue? queue with
    | none => s
    | some q =>
      let s1 := q.waitNodes.foldl (fun (s : State) x => s.wakeNode q x) (s.wakeRing q)
      if ((s1.queue? queue).map (·.statusBad)).getD false then s1.statusLine queue else s1

/-- Whether an unmapped queue may be mapped: it has a packet to read, or its WAIT's condition holds. -/
def State.mappable (s : State) (q : Queue) : Bool :=
  (q.state == .unmapped || q.state == .idle) && !q.mapped && (s.ctxDesc q.ctx).valid &&
    match q.waiting with
    | none => decide (q.ridx < q.widx)
    | some r =>
      match (s.condition q.ctx r.raw).2 with
      | .ok b => b
      | .wait => false
      | .fail _ => true

/-- The queues that hold a thread of a die. -/
def State.threadsOf (s : State) (die : Nat) : List Queue :=
  s.queues.filter fun q => q.mapped && q.state != .error && q.die == die

/-- Since when an unmapped queue has waited. -/
def Queue.waitingSince (q : Queue) : Nat := (q.oldestAt).getD q.since

/-- Whether a queue is the one its die maps next: priority class, then time spent waiting. -/
def State.mapsNext (s : State) (q : Queue) : Bool :=
  s.queues.all fun y => y.id == q.id || y.die != q.die || !s.mappable y || decide (y.prio < q.prio) ||
    (y.prio == q.prio && (decide (q.waitingSince < y.waitingSince) || (y.waitingSince == q.waitingSince && decide (q.id < y.id))))

/-- The mapped queue of a die that has been BLOCKED longest. -/
def State.longestBlocked (s : State) (die : Nat) : Option Queue :=
  ((s.threadsOf die).filter (·.state == .blocked)).foldl (fun (a : Option Queue) q =>
    match a with
    | none => some q
    | some b => if q.since < b.since then some q else some b) none

/-- A queue given a thread: ACTIVE, or IDLE with nothing to read; one that stands at a WAIT evaluates it. -/
def State.mapQueue (s : State) (q : Queue) : State :=
  s.changeQueue q.id fun x => { x with mapped := true, since := s.clk17, state := .active }

/-- QUEUE_MAP (R307, R324). -/
def execQueueMap (queue : Nat) (s : State) : Host.Outcome State Fault Refusal :=
  .next <|
    match s.queue? queue with
    | none => s
    | some q =>
      if !s.mappable q || !s.mapsNext q then s
      else if (s.threadsOf q.die).length < 64 then s.mapQueue q
      else
        match s.longestBlocked q.die with
        | none => s
        | some b => (s.changeQueue b.id fun x => { x with mapped := false, state := .unmapped }).mapQueue q

/-- Whether a queue stands BLOCKED, mapped or not. -/
def Queue.isBlocked (q : Queue) : Bool := q.state == .blocked || (q.state == .unmapped && q.waiting.isSome)

/-- Whether anything of a context is live, or a lease of it resolving (R324): a released node that is held for a page among
them. -/
def State.ctxLive (s : State) (ctx : Nat) : Bool :=
  (s.grids.any fun g => g.ctx == ctx && !g.complete) ||
    s.queues.any fun q => q.ctx == ctx &&
      ((q.run.any fun r => [2, 10].contains (pktKind r.raw) && !r.failed) ||
        q.graphs.any fun g => !g.running.isEmpty || (!g.failed && !g.released.isEmpty))

/-- WCYCLE of a context, in ms (R302). -/
def CtxDesc.wcycle (d : CtxDesc) : Nat := if bitsOf d.ctrl.toNat 31 16 == 0 then 10 else bitsOf d.ctrl.toNat 31 16

/-- Whether the conditions of R324 have held for the context's WCYCLE. -/
def State.waitCycle (s : State) (ctx : Nat) : Bool :=
  let qs := s.queues.filter fun q => q.ctx == ctx
  let held (t : Nat) : Bool := decide (t + (s.ctxDesc ctx).wcycle * 1000000 * 17 ≤ s.clk17)
  !qs.isEmpty && qs.all (fun q => q.isBlocked && held q.since) && !s.ctxLive ctx && held (tabGet s.lastLive ctx 0)

/-- WAIT_CYCLE_TIMEOUT (R324, R346): every queue of the context enters ERROR, and the function's log names it. -/
def execWaitCycleTimeout (ctx : Nat) (s : State) : Host.Outcome State Fault Refusal :=
  .next <|
    if !s.waitCycle ctx then s
    else
      let s1 := (s.queues.filter fun q => q.ctx == ctx).foldl (fun (s : State) q =>
        s.queueError q.id qeCycle ((q.waiting.map (·.index)).getD q.ridx) none) s
      s1.modFn (s.ctxFn ctx) fun f => { f with faultLog := f.faultLog ++ [(Cause.waitCycle.code, ctx)] }

end Sys2Proof.Machine
end

