-- ==== Sys2Proof/Machine/Sha.lean ====
section
/-!
DEFINITION. SHA-384, the digest function that 15_host_and_platform.md R382 names, as FIPS 180-4 defines it (PRESUMED, log 98). Its
constants are bits of the fractional parts of roots of primes, which are computed here.
-/
namespace Sys2Proof.Machine

-- Constants.

/-- Whether a number is prime. -/
def isPrime (n : Nat) : Bool := decide (2 ≤ n) && (List.range n).all fun d => decide (d < 2) || n % d != 0

/-- The first 80 primes. -/
def shaPrimes : List Nat := (List.range 410).filter isPrime

/-- The integer root of n: r with the bits below k added from the highest down while the p-th power stays within n. -/
def rootFrom (p n : Nat) : Nat → Nat → Nat
  | 0, r => r
  | k + 1, r => rootFrom p n k (if (r + 2 ^ k) ^ p ≤ n then r + 2 ^ k else r)

/-- The first 64 bits of the fraction of the p-th root of a prime. -/
def rootFraction (p prime : Nat) : DWord := BitVec.ofNat 64 (rootFrom p (prime * 2 ^ (64 * p)) 68 0)

/-- The words K of the rounds. -/
def shaWords : List DWord := shaPrimes.map (rootFraction 3)

/-- The words a digest starts from. -/
def shaStart : List DWord := ((shaPrimes.drop 8).take 8).map (rootFraction 2)

-- One block.

def shaBig0 (x : DWord) : DWord := x.rotateRight 28 ^^^ x.rotateRight 34 ^^^ x.rotateRight 39
def shaBig1 (x : DWord) : DWord := x.rotateRight 14 ^^^ x.rotateRight 18 ^^^ x.rotateRight 41
def shaSmall0 (x : DWord) : DWord := x.rotateRight 1 ^^^ x.rotateRight 8 ^^^ (x >>> 7)
def shaSmall1 (x : DWord) : DWord := x.rotateRight 19 ^^^ x.rotateRight 61 ^^^ (x >>> 6)

/-- n more words of a message schedule, the newest first. -/
def shaSchedule : Nat → List DWord → List DWord
  | 0, l => l
  | n + 1, l => shaSchedule n ((shaSmall1 (l.getD 1 0) + l.getD 6 0 + shaSmall0 (l.getD 14 0) + l.getD 15 0) :: l)

/-- One round over the working words a to h. -/
def shaRound (v : List DWord) (kw : DWord × DWord) : List DWord :=
  let a := v.getD 0 0
  let b := v.getD 1 0
  let c := v.getD 2 0
  let e := v.getD 4 0
  let f := v.getD 5 0
  let g := v.getD 6 0
  let t1 := v.getD 7 0 + shaBig1 e + ((e &&& f) ^^^ (~~~e &&& g)) + kw.1 + kw.2
  let t2 := shaBig0 a + ((a &&& b) ^^^ (a &&& c) ^^^ (b &&& c))
  [t1 + t2, a, b, c, v.getD 3 0 + t1, e, f, g]

/-- Bytes as words, the highest byte first. -/
def beWords (bs : List Byte) : List DWord :=
  (List.range (bs.length / 8)).map fun i => BitVec.ofNat 64 (ofBytes ((bs.drop (8 * i)).take 8).reverse)

/-- A block of 128 bytes taken into a digest. -/
def shaBlock (h : List DWord) (bs : List Byte) : List DWord :=
  let w := (shaSchedule 64 (beWords bs).reverse).reverse
  let v := (shaWords.zip w).foldl shaRound h
  (h.zip v).map fun x => x.1 + x.2

-- The digest.

/-- A message with its padding and its length in bits. -/
def shaPadded (bs : List Byte) : List Byte :=
  bs ++ [0x80] ++ List.replicate ((128 - (bs.length + 17) % 128) % 128) 0 ++ (toBytes 16 (8 * bs.length)).reverse

/-- SHA-384 of a byte string. -/
def sha384 (bs : List Byte) : List Byte :=
  let m := shaPadded bs
  let h := (List.range (m.length / 128)).foldl (fun h i => shaBlock h ((m.drop (128 * i)).take 128)) shaStart
  (h.take 6).flatMap fun x => (toBytes 8 x.toNat).reverse

end Sys2Proof.Machine
end

