-- ==== Sys2Proof/Machine/Platform.lean ====
section
/-!
DEFINITION. The module's outside (02_translation_and_leases.md R67; 03_caches_versions_mailbox.md R70; 05_consistency.md R123;
15_host_and_platform.md R379 to R384): bring-up and measurement, SPDM, the host's and the peers' accesses, links, heat.
-/
namespace Sys2Proof.Machine

-- Bring-up (R381, R382).

/-- A measurement register holds 48 bytes. -/
def fit48 (b : List Byte) : List Byte := (b ++ List.replicate 48 0).take 48

/-- MEAS ← SHA-384(MEAS ‖ digest). -/
def extendMeas (meas : List (List Byte)) (i : Nat) (digest : List Byte) : List (List Byte) :=
  modAt meas i fun m => fit48 (sha384 (m ++ fit48 digest))

/-- The digest of the image that runs: that of the selected slot where it verifies, else that of the other; none where both
fail. -/
def imageRuns (p : ImagePair) : Option (List Byte) :=
  let a := if p.okA then some p.digestA else none
  let b := if p.okB then some p.digestB else none
  if p.selB then b.or a else a.or b

/-- The images in order; one of which both slots fail ends the bring-up. -/
def bootImages (meas : List (List Byte)) : Nat → List ImagePair → List (List Byte) × Bool
  | _, [] => (meas, true)
  | i, p :: r =>
    match imageRuns p with
    | some d => bootImages (extendMeas meas i d) (i + 1) r
    | none => (meas, false)

/-- Every function at a stage. -/
def State.allFns (s : State) (f : FnRegs → FnRegs) : State := (List.range 17).foldl (fun (s : State) k => s.modFn k f) s

/-- POWER_ON (R381, R382): from STAGE 0, with the five images of MEAS0 to MEAS4, through the stages to 4, quadrants started,
from which each function becomes READY by itself, or to 0xFF; the stages between pass within the event (log 37). -/
def execPowerOn (images : List ImagePair) (s : State) : Host.Outcome State Fault Refusal :=
  .next <|
    if images.length != 5 || (s.fnRegs 0).stage != 0 then s
    else
      let (m, ok) := bootImages s.meas 0 images
      let s1 := { s with meas := m }
      if ok then s1.allFns fun f => { f with stage := 4 } else s1.allFns fun f => { f with stage := 0xFF }

/-- A function whose quadrants have started becomes READY, whatever others are still starting (R381). -/
def State.fnReady (s : State) (fn : Nat) : State :=
  if (s.fnRegs fn).stage == 4 then s.modFn fn fun f => { f with ready := true, stage := 5 } else s

-- SPDM (R383). Request codes are those of SPDM 1.3 (log 38).

/-- The answer to a supported request, beyond what R383 lays out. -/
def State.spdmAnswer (s : State) (code : Nat) (data : List Byte) : State :=
  { s with spdm := s.spdm ++ [SpdmAnswer.ok code (data ++ Config.spdmPayload code s.fresh)] }.fresh1

/-- The supported request codes. -/
def spdmCodes : List Nat := [0x84, 0xE1, 0xE3, 0x81, 0x82, 0x83, 0xE0]

def execGetVersion (s : State) : Host.Outcome State Fault Refusal := .next (s.spdmAnswer 0x84 [])
def execGetCapabilities (s : State) : Host.Outcome State Fault Refusal := .next (s.spdmAnswer 0xE1 [])
def execNegotiateAlgorithms (s : State) : Host.Outcome State Fault Refusal := .next (s.spdmAnswer 0xE3 [])
def execGetDigests (s : State) : Host.Outcome State Fault Refusal := .next (s.spdmAnswer 0x81 [])
def execGetCertificate (s : State) : Host.Outcome State Fault Refusal := .next (s.spdmAnswer 0x82 [])
def execChallenge (s : State) : Host.Outcome State Fault Refusal := .next (s.spdmAnswer 0x83 [])

/-- GET_MEASUREMENTS: MEASn is measurement block n + 1; block 0xFF is all of them. -/
def execGetMeasurements (block : Nat) (s : State) : Host.Outcome State Fault Refusal :=
  .next (s.spdmAnswer 0xE0
    (if block == 0xFF then s.meas.flatten else if 1 ≤ block && block ≤ 8 then s.meas.getD (block - 1) [] else []))

/-- SPDM_UNSUPPORTED_REQUEST. -/
def execSpdmUnsupportedRequest (code : Nat) (s : State) : Host.Outcome State Fault Refusal :=
  .next (if spdmCodes.contains code then s else { s with spdm := s.spdm ++ [SpdmAnswer.unsupported code] })

-- Host accesses (R67, R123).

/-- Whether n bytes of physical address space are HBM. -/
def hbmSpan (pa n : Nat) : Bool := n == 0 || (isHbm pa && isHbm (pa + n - 1) && hbmDie pa == hbmDie (pa + n - 1))

/-- Whether a physical address lies in a saved member's image, in a part whose contents R356 does not give. -/
def State.inSpill (s : State) (a : Nat) : Bool :=
  s.imagesHeld.any fun h => decide (h ≤ a) && decide (a < h + frameBytes) && frameHole (a - h)

/-- n bytes read at the home for the host or a peer: what is poisoned, or stands in an image where R356 does not say what, gives
free bytes (log 25). -/
def State.outsideRead (s : State) (pa n : Nat) : State × List Byte :=
  let (s1, bs) := s.homeBytes pa n
  if (List.range n).any fun i => s.inSpill (pa + i) then
    ({ s1 with fresh := s1.fresh + n },
      (List.range n).map fun (i : Nat) => if s.inSpill (pa + i) then Config.freeByte (s1.fresh + i) else bs.getD i 0)
  else (s1, bs)

/-- HOST_MEMORY_ACCESS (R67, R123, R371): CXL.mem accesses to device HBM at its home, whose bursts carry CTXID 0 (DESIGN
CHOICE, log 99); the host's own stores to its memory; the read of a register. An address that is not HBM memory does not
exist (R38), and a request that relies on a feature not offered completes as Unsupported Request. -/
def execHostMemoryAccess (x : HostAccess) (s : State) : Host.Outcome State Fault Refusal :=
  match x with
  | .read pa n =>
    if hbmSpan pa n then
      let (s1, bs) := (s.homeServed pa n 0).outsideRead pa n
      .next { s1 with hostData := bs, hostUr := false }.tick
    else .fault .noSuchAddress
  | .write pa bs =>
    if hbmSpan pa bs.length then .next { (s.homeWrite pa bs).homeServed pa bs.length 0 with hostUr := false }.tick
    else .fault .noSuchAddress
  | .hostWrite a bs =>
    if a + bs.length ≤ 2 ^ 52 then .next { s.homeWrite (hostPlace a) bs with hostUr := false }.tick else .fault .noSuchAddress
  | .register r => .next { s with hostData := toBytes 8 (s.readReg r), hostUr := false }
  | .unlisted => .next { s with hostData := [], hostUr := true }

/-- HOST_CACHE_SNOOP (R70): the line goes back to the host; no L2 holds or owns it any more. -/
def execHostCacheSnoop (addr : Nat) (s : State) : Host.Outcome State Fault Refusal :=
  .next (s.dropSharers (hostPlace addr / 128) 0xFFFF).tick

-- Peers (R379, R380).

/-- Whether an export entry covers n bytes at an offset with a right (bit of its length word). -/
def ExportEnt.covers (e : ExportEnt) (off n right : Nat) : Bool :=
  bitOf e.len.toNat right && decide (e.base.toNat ≤ off) && decide (off + n ≤ e.base.toNat + e.len.toNat % 2 ^ 61)

/-- The physical address an access of a port reaches; none where it is rejected. -/
def State.exported (s : State) (port off n right : Nat) : Option Nat :=
  if s.portsDown.contains port then none
  else
    ((List.range 64).findSome? fun i =>
      let e := tabGet s.exports (port * 64 + i) {}
      if e.covers off n right then some (e.phys.toNat + (off - e.base.toNat)) else none).bind fun pa =>
        if hbmSpan pa n then some pa else none

/-- PEER_ACCESS (R123, R234, R379, R380): a read, a write or an atomic of either width performed at the home, or rejected
with nothing done. -/
def execPeerAccess (x : PeerReq) (s : State) : Host.Outcome State Fault Refusal :=
  .next <|
    match x.kind with
    | .read n =>
      match s.exported x.port x.offset n 61 with
      | some pa => let (s1, bs) := (s.homeServed pa n 0).outsideRead pa n; { s1 with hostData := bs }.tick
      | none => { s with hostData := [] }
    | .write bs =>
      match s.exported x.port x.offset bs.length 62 with
      | some pa => ((s.homeWrite pa bs).homeServed pa bs.length 0).tick
      | none => s
    | .atomic f w data swap =>
      match (if (w == 4 || w == 8) && decide (f < 8) && x.offset % w == 0 then s.exported x.port x.offset w 63 else none) with
      | some pa =>
        let (s1, old) := (s.homeServed pa w 0).outsideRead pa w
        let s2 := { s1 with hostData := old }
        match atomValue f w (ofBytes old) (data.toNat % 2 ^ (8 * w)) (swap.toNat % 2 ^ (8 * w)) with
        | some v => (s2.homeWrite pa (toBytes w v)).tick
        | none => s2.tick
      | none => { s with hostData := [] }

/-- JX_LINK_PORT_DOWN (R380): what was late on the port has been made. -/
def execJxLinkPortDown (port : Nat) (down : Bool) (s : State) : Host.Outcome State Fault Refusal :=
  .next <|
    let rest := s.portsDown.filter (· != port)
    if 16 ≤ port then s else { s.settleAllLate with portsDown := if down then rest ++ [port] else rest }

/-- PEER_STORE_REJECTED (R380): counted in PEERREJ and logged. -/
def execPeerStoreRejected (port fn : Nat) (s : State) : Host.Outcome State Fault Refusal :=
  .next (if 16 ≤ port || 16 < fn then s else s.peerDrop fn (peerPlace (port * 2 ^ 48)))

-- Heat (R384).

/-- THERMAL_LIMIT_EXCEEDED: ACLK lowered, the event logged for the physical function. -/
def execThermalLimitExceeded (die : Nat) (s : State) : Host.Outcome State Fault Refusal :=
  .next (if 4 ≤ die then s else (s.modDieHw die fun d => { d with slowed := true }).logFault 0 0x0384 die)

end Sys2Proof.Machine
end

