-- ==== Sys2Proof/Machine/Special.lean ====
section
/-!
DEFINITION. Special registers and register moves between the per-lane and uniform sides (R113, R143, R144, R184, R213,
R214, R221, R253, R344, R345, R359 to R361).
-/
namespace Sys2Proof.Machine

/-- Whether a special register is 64 bits wide (R184). -/
def specialWide (n : Nat) : Bool := n == 0x020 || n == 0x024 || n == 0x031 || n == 0x032
/-- What MOVS may read (R184). -/
def movsReads (n : Nat) : Bool := n != 0x046
/-- What SMOVS may read. -/
def smovsReads (n : Nat) : Bool := n != 0x000 && !(decide (0x010 ≤ n) && decide (n ≤ 0x012))

/-- The guest's CLK64 (R359): CLKOFS is added for a virtual function. -/
def State.guestClk (s : State) (ctx : Nat) : DWord :=
  let f := s.ctxFn ctx
  BitVec.ofNat 64 (s.ns + (if f == 0 then 0 else (s.fnRegs f).clkOfs.toNat))

/-- SATI, SATO and NANW of the bank CBSEL names (R113): zero for a bank the block does not hold. -/
def State.bankCount (s : State) (w : Who) : Nat × Nat × Nat :=
  let k := w.uni.cbsel.toNat % 16
  let owned := s.ownedQuads w.core (s.ctxFn w.ctx)
  if decide (k < 4 * owned.length) && w.blk.cb.contains (w.rank, k) then
    tabGet s.cbCount (w.core * 16 + physBank owned k) (0, 0, 0)
  else (0, 0, 0)

/-- The quadrant within its core on which an agent stands (R143). -/
def State.physOf (s : State) (w : Who) : Nat := s.physQuad w.core (s.ctxFn w.ctx) w.quad

/-- Registers held per group, quadrant or device (R143, R213, R253). -/
def State.sharedSpecial (s : State) (w : Who) (n : Nat) : Nat :=
  let clk := (s.guestClk w.ctx).toNat
  match n with
  | 0x001 => (w.grp.map (·.num)).getD 0xFFFFFFFF
  | 0x002 => (w.grp.map (·.slot)).getD 0xFFFFFFFF
  | 0x003 => s.physOf w
  | 0x004 => w.core % 12
  | 0x005 => w.core / 12 % 4
  | 0x006 => w.die
  | 0x007 => w.rank
  | 0x008 => w.blk.cores.length
  | 0x009 => w.grid.desc.unit
  | 0x020 => clk
  | 0x022 => clk % 2 ^ 32
  | 0x023 => clk / 2 ^ 32
  | 0x024 => w.uni.gtimer.toNat
  | 0x040 => w.uni.gflags.toNat
  | 0x041 => w.uni.gctl.toNat
  | 0x042 => w.uni.cbsel.toNat
  | 0x043 => (s.bankCount w).1
  | 0x044 => (s.bankCount w).2.1
  | 0x045 => (s.bankCount w).2.2
  | 0x046 => ((w.blk.pair? w.rank w.quad).map fun p => p.evqdrop.toNat).getD 0
  | _ => 0

/-- A trap record's registers (R344, R345). -/
def TrapRec.special (r : TrapRec) (n : Nat) : Nat :=
  match n with
  | 0x030 => r.tcause.toNat
  | 0x031 => r.taddr.toNat
  | 0x032 => r.titem.toNat
  | _ => r.tlanes.toNat

/-- Whether a register is one of a trap record. -/
def isTrapReg (n : Nat) : Bool := decide (0x030 ≤ n) && decide (n ≤ 0x033)

/-- A special register as one thread of a fragment reads it (R213). -/
def State.laneSpecial (s : State) (w : Who) (l : Nat) (t : Thread) (n : Nat) : Nat :=
  if n == 0x000 then l
  else if n == 0x010 then (t.item.map (· % 2 ^ 32)).getD 0
  else if n == 0x011 then (match t.item with
    | some i => i / 2 ^ 32 % 2 ^ 16
    | none => 2 ^ 31)
  else if n == 0x012 then t.icnt.toNat
  else if isTrapReg n then t.trap.special n
  else s.sharedSpecial w n

/-- A special register as SMOVS reads it: a per-thread trap register is that of the lowest lane of the issuing fragment
(R343). -/
def State.uniSpecial (s : State) (w : Who) (n : Nat) : Nat :=
  if isTrapReg n then
    match w.ctl, w.threads with
    | some c, [] => c.trap.special n
    | _, (_, t) :: _ => t.trap.special n
    | _, [] => 0
  else s.sharedSpecial w n

/-- The words of a special register's value. -/
def specialWords (n v : Nat) : List Word :=
  if specialWide n then pairWords (BitVec.ofNat 64 v) else [BitVec.ofNat 32 v]

/-- MOVS (R184, R213). -/
def movsSpec (x : LW) (s : State) : LaneSpec :=
  let n := x.i.toNat
  { g := x.g, d := x.d.toNat, dwords := if specialWide n then 2 else 1,
    eval := fun w l t => { words := specialWords n (s.laneSpecial w l t n) } }
def execMovs (x : LW) (s : State) : Host.Outcome State Fault Refusal :=
  perLane s fun w g =>
    if !movsReads x.i.toNat then s.laneFaultAll w g false .illegalOperand else (movsSpec x s).issue s w g

/-- SMOVS (R184, R214). -/
def execSmovs (x : SMovs) (s : State) : Host.Outcome State Fault Refusal :=
  let n := x.i.toNat
  let k := if specialWide n then 2 else 1
  uniform s 0 (fun w => smovsReads n && sOk w x.d.toNat k k) [] fun w =>
    s.uniWrite w x.d.toNat (specialWords n (s.uniSpecial w n))

/-- What SMOVW makes of a special register (R110, R111, R214). -/
def Uni.setSpecial (u : Uni) (n : Nat) (v : Word) : Uni :=
  match n with
  | 0x040 => { u with gflags := u.gflags &&& ~~~v }
  | 0x041 => { u with gctl := v &&& 0x008E01FF }
  | 0x042 => { u with cbsel := v &&& 0xF }
  | _ => u

/-- SMOVW (R184, R214): only GFLAGS, GCTL and CBSEL are writable. -/
def execSmovw (x : SMovw) (s : State) : Host.Outcome State Fault Refusal :=
  let n := x.i.toNat
  uniform s 0 (fun w => (n == 0x040 || n == 0x041 || n == 0x042) && sOk w x.a.toNat 1 1) [(x.a.toNat, 1)] fun w =>
    (s.modUni w fun u => u.setSpecial n (w.uni.sget x.a.toNat)).setPc w (w.pc + 4)

/-- The vector registers that a thread's waiting instruction has still to write: a team operation's, or a load's whose fill has
not come. -/
def Thread.writesLater (t : Thread) : Nat × Nat :=
  match t.wait with
  | .team x => if (teamShape x.op).w || !x.giver then (0, 0) else ((teamShape x.op).d, (teamShape x.op).dwords)
  | .fill _ _ dst _ _ => dst
  | _ => (0, 0)

/-- Whether a register is one of them. -/
def Thread.owes (t : Thread) (r words : Nat) : Bool :=
  decide (r < t.writesLater.1 + t.writesLater.2) && decide (t.writesLater.1 < r + words)

/-- Whether a chain in progress has still to write one of a lane's registers (R186). -/
def Group.chainWrites (g : Group) (lane r words : Nat) : Bool :=
  (g.chain.map fun c => c.vw.any fun v => v.lane == lane && decide (r ≤ v.reg) && decide (v.reg < r + words)).getD false

/-- SV2S (R183, R221): a lane's register, whatever the lane's state, after the writes of instructions that issued before it, for
which it stands at its word; a control thread faults. -/
def execSv2s (x : Sv2s) (s : State) : Host.Outcome State Fault Refusal :=
  let k := if x.p then 2 else 1
  uniform s x.c (fun w => w.grp.isSome && sOk w x.d.toNat k k && vOk w.grid.desc x.a.toNat k) [] fun w =>
    match w.grp.bind fun g => (g.thread? x.l.toNat).map fun t => (g, t) with
    | none => s.faultHere w .illegalOperand
    | some (g, t) =>
      if t.owes x.a.toNat k || g.chainWrites x.l.toNat x.a.toNat k then s
      else if s.vPoisoned ⟨w.blk.id, g.num, x.l.toNat⟩ x.a.toNat k then s.faultHere w .engineFault
      else
        s.uniWrite w x.d.toNat
          (if x.p then pairWords (t.vpair x.a.toNat) else [t.vget x.a.toNat])

end Sys2Proof.Machine
end

