-- ==== Sys2Proof/Machine/System.lean ====
section
/-!
DEFINITION. The SYS functions (10_control_thread_and_engine_instructions.md R254, R280; 14_traps_preemption_debug.md R348,
R350, R361, R367).
-/
namespace Sys2Proof.Machine

/-- SYS.TRAPRET (R348, R350): each TRAPPED thread of the fragment returns; one that is not in a handler faults. -/
def execSysTrapret (x : Uc) (s : State) : Host.Outcome State Fault Refusal :=
  uniform s x.c (fun _ => true) [] fun w =>
    match w.grp, w.ctl with
    | some g, _ =>
      let bad := (w.threads.filter fun (_, t) => t.st != .trapped).map (·.1)
      let good := w.lanes.filter fun l => !bad.contains l
      (s.modLanes w.blk.id g.num good fun _ t => t.trapReturn w.grid.desc).takeTraps w.blk.id g.num false
        (bad.map fun l => ⟨l, .illegalOperand, 0, w.addr, w.pc, false⟩)
    | none, some c =>
      if c.st == .trapped then s.modCtl w.blk.id c.rank c.quad (·.trapReturn) else s.faultHere w .illegalOperand
    | none, none => s

/-- SYS.GFLAGS.RD. -/
def execSysGflagsRd (x : Ud) (s : State) : Host.Outcome State Fault Refusal :=
  uniform s x.c (fun w => sOk w x.d.toNat 1 1) [] fun w => s.uniWrite w x.d.toNat [w.uni.gflags]

/-- SYS.GFLAGS.CLR. -/
def execSysGflagsClr (x : Ua) (s : State) : Host.Outcome State Fault Refusal :=
  uniform s x.c (fun w => sOk w x.a.toNat 1 1) [(x.a.toNat, 1)] fun w =>
    (s.modUni w fun u => { u with gflags := u.gflags &&& ~~~(w.uni.sget x.a.toNat &&& 0x1FF) }).setPc w (w.pc + 4)

/-- SYS.TIMER.SET (R361). -/
def execSysTimerSet (x : Ua) (s : State) : Host.Outcome State Fault Refusal :=
  uniform s x.c (fun w => sOk w x.a.toNat 2 2) [(x.a.toNat, 2)] fun w =>
    (s.modUni w fun u => { u with deadline := w.uni.spair x.a.toNat }).setPc w (w.pc + 4)

/-- SYS.PROFMARK: the mark with CLK64. -/
def execSysProfmark (x : Ua) (s : State) : Host.Outcome State Fault Refusal :=
  uniform s x.c (fun w => sOk w x.a.toNat 1 1) [(x.a.toNat, 1)] fun w =>
    { s with marks := s.marks ++ [ProfMark.mk ((w.uni.sget x.a.toNat).toNat % 2 ^ 16) (s.guestClk w.ctx)] }.setPc w (w.pc + 4)

/-- SYS.HALT (R254): a control thread's; it ends once the operations it pushed have completed. -/
def execSysHalt (x : Uc) (s : State) : Host.Outcome State Fault Refusal :=
  uniform s x.c (fun w => w.ctl.isSome) [] fun w => s.modCtl w.blk.id w.rank w.quad (·.halt)

/-- SYS.DBGBRK (R280, R367): a debug stop where a session of the issuing context is open on the quadrant. -/
def execSysDbgbrk (x : Uc) (s : State) : Host.Outcome State Fault Refusal :=
  uniform s x.c (fun _ => true) [] fun w =>
    (s.modQuadHw (quadNo w.core (s.physOf w)) fun q =>
      if q.session && q.dbgCtx == w.ctx then { q with stopped := true } else q).setPc w (w.pc + 4)

end Sys2Proof.Machine
end

