-- ==== Sys2Proof/Machine/Uniform.lean ====
section
/-!
DEFINITION. Uniform scalar and float instructions (08_arithmetic_and_control_instructions.md R219, R220; R176, R182,
R183).
-/
namespace Sys2Proof.Machine

/-- SALU on 32-bit registers. -/
def salu32 (x : UR) (f : Word → Word → Word) (s : State) : Host.Outcome State Fault Refusal :=
  uniform s x.c (fun w => sOk w x.d.toNat 1 1 && sOk w x.a.toNat 1 1 && sOk w x.b.toNat 1 1)
    [(x.a.toNat, 1), (x.b.toNat, 1)] fun w =>
    s.uniWrite w x.d.toNat [f (w.uni.sget x.a.toNat) (w.uni.sget x.b.toNat)]

/-- SALU on pairs. -/
def salu64 (x : UR) (f : DWord → DWord → DWord) (s : State) : Host.Outcome State Fault Refusal :=
  uniform s x.c (fun w => sOk w x.d.toNat 2 2 && sOk w x.a.toNat 2 2 && sOk w x.b.toNat 2 2)
    [(x.a.toNat, 2), (x.b.toNat, 2)] fun w =>
    s.uniWrite w x.d.toNat (pairWords (f (w.uni.spair x.a.toNat) (w.uni.spair x.b.toNat)))

def execSaluAdd (x : UR) (s : State) : Host.Outcome State Fault Refusal := salu32 x iaddV s
def execSaluSub (x : UR) (s : State) : Host.Outcome State Fault Refusal := salu32 x isubV s
def execSaluMul (x : UR) (s : State) : Host.Outcome State Fault Refusal := salu32 x imulV s
def execSaluMulh (x : UR) (s : State) : Host.Outcome State Fault Refusal := salu32 x imulhV s
def execSaluAnd (x : UR) (s : State) : Host.Outcome State Fault Refusal := salu32 x (fun a b => a &&& b) s
def execSaluOr (x : UR) (s : State) : Host.Outcome State Fault Refusal := salu32 x (fun a b => a ||| b) s
def execSaluXor (x : UR) (s : State) : Host.Outcome State Fault Refusal := salu32 x (fun a b => a ^^^ b) s
def execSaluShl (x : UR) (s : State) : Host.Outcome State Fault Refusal := salu32 x shlV s
def execSaluShr (x : UR) (s : State) : Host.Outcome State Fault Refusal := salu32 x shrV s
def execSaluSar (x : UR) (s : State) : Host.Outcome State Fault Refusal := salu32 x sarV s
def execSaluMin (x : UR) (s : State) : Host.Outcome State Fault Refusal := salu32 x iminV s
def execSaluMax (x : UR) (s : State) : Host.Outcome State Fault Refusal := salu32 x imaxV s
def execSaluMinu (x : UR) (s : State) : Host.Outcome State Fault Refusal := salu32 x uminV s
def execSaluMaxu (x : UR) (s : State) : Host.Outcome State Fault Refusal := salu32 x umaxV s
def execSaluAdd64 (x : UR) (s : State) : Host.Outcome State Fault Refusal := salu64 x (fun a b => a + b) s
def execSaluPadd (x : UR) (s : State) : Host.Outcome State Fault Refusal := salu64 x paddV s

/-- A UI instruction on a register and an immediate (R182). -/
def uiOp (d a : Nat) (f : Word → Word) (s : State) : Host.Outcome State Fault Refusal :=
  uniform s 0 (fun w => sOk w d 1 1 && sOk w a 1 1) [(a, 1)] fun w => s.uniWrite w d [f (w.uni.sget a)]

def execSaddi (x : UI) (s : State) : Host.Outcome State Fault Refusal :=
  uiOp x.d.toNat x.a.toNat (fun a => a + x.i.signExtend 32) s
def execSandi (x : UI) (s : State) : Host.Outcome State Fault Refusal :=
  uiOp x.d.toNat x.a.toNat (fun a => a &&& x.i.setWidth 32) s
def execSori (x : UI) (s : State) : Host.Outcome State Fault Refusal :=
  uiOp x.d.toNat x.a.toNat (fun a => a ||| x.i.setWidth 32) s
def execSshi (x : SShI) (s : State) : Host.Outcome State Fault Refusal :=
  uiOp x.d.toNat x.a.toNat (fun a => shiftV x.k.toNat a x.n.toNat) s

def execSmovi (x : UW) (s : State) : Host.Outcome State Fault Refusal :=
  uniform s 0 (fun w => sOk w x.d.toNat 1 1) [] fun w => s.uniWrite w x.d.toNat [x.i.signExtend 32]

/-- SMOVHI: bits 31:13; bits 12:0 are kept. -/
def execSmovhi (x : UW) (s : State) : Host.Outcome State Fault Refusal :=
  uniform s 0 (fun w => sOk w x.d.toNat 1 1) [(x.d.toNat, 1)] fun w =>
    s.uniWrite w x.d.toNat [x.i ++ (w.uni.sget x.d.toNat).extractLsb' 0 13]

/-- SCMP (R183, R220): on registers, or on pairs. -/
def execScmp (x : SCmp) (s : State) : Host.Outcome State Fault Refusal :=
  let k := if x.p then 2 else 1
  uniform s x.c (fun w => sOk w x.a.toNat k k && sOk w x.b.toNat k k) [(x.a.toNat, k), (x.b.toNat, k)] fun w =>
    s.condWrite w x.d.toNat
      (if x.p then intCond x.k.toNat 64 (w.uni.spair x.a.toNat).toNat (w.uni.spair x.b.toNat).toNat
       else intCond x.k.toNat 32 (w.uni.sget x.a.toNat).toNat (w.uni.sget x.b.toNat).toNat)

/-- SCOP (R172, R183). -/
def execScop (x : SCop) (s : State) : Host.Outcome State Fault Refusal :=
  uniform s x.c (fun _ => true) [] fun w =>
    if s.cPoisoned w x.x.toNat || s.cPoisoned w x.y.toNat then s.faultHere w .engineFault
    else s.condWrite w x.d.toNat (predOp x.o.toNat (w.uni.cget x.x.toNat) (w.uni.cget x.y.toNat))

/-- SFLT arithmetic on 32-bit registers; FFMA also reads s(d) (R220). -/
def sflt32 (x : UR) (readsD : Bool) (f : FCtl → Nat → Nat → Nat → FRes) (s : State) : Host.Outcome State Fault Refusal :=
  uniform s x.c (fun w => sOk w x.d.toNat 1 1 && sOk w x.a.toNat 1 1 && sOk w x.b.toNat 1 1)
    ([(x.a.toNat, 1), (x.b.toNat, 1)] ++ if readsD then [(x.d.toNat, 1)] else []) fun w =>
    let r := f w.fctl (w.uni.sget x.a.toNat).toNat (w.uni.sget x.b.toNat).toNat (w.uni.sget x.d.toNat).toNat
    s.uniWrite w x.d.toNat [BitVec.ofNat 32 r.val] r.flags

/-- SFLT arithmetic on pairs. -/
def sflt64 (x : UR) (readsD : Bool) (f : FCtl → Nat → Nat → Nat → FRes) (s : State) : Host.Outcome State Fault Refusal :=
  uniform s x.c (fun w => sOk w x.d.toNat 2 2 && sOk w x.a.toNat 2 2 && sOk w x.b.toNat 2 2)
    ([(x.a.toNat, 2), (x.b.toNat, 2)] ++ if readsD then [(x.d.toNat, 2)] else []) fun w =>
    let r := f w.fctl (w.uni.spair x.a.toNat).toNat (w.uni.spair x.b.toNat).toNat (w.uni.spair x.d.toNat).toNat
    s.uniWrite w x.d.toNat (pairWords (BitVec.ofNat 64 r.val)) r.flags

def execSfltFadd (x : UR) (s : State) : Host.Outcome State Fault Refusal :=
  sflt32 x false (fun c a b _ => fmtF32.add c a b) s
def execSfltFmul (x : UR) (s : State) : Host.Outcome State Fault Refusal :=
  sflt32 x false (fun c a b _ => fmtF32.mul c a b) s
def execSfltFfma (x : UR) (s : State) : Host.Outcome State Fault Refusal :=
  sflt32 x true (fun c a b d => fmtF32.fma c a b d) s
def execSfltDadd (x : UR) (s : State) : Host.Outcome State Fault Refusal :=
  sflt64 x false (fun c a b _ => fmtF64.add c a b) s
def execSfltDmul (x : UR) (s : State) : Host.Outcome State Fault Refusal :=
  sflt64 x false (fun c a b _ => fmtF64.mul c a b) s
def execSfltDfma (x : UR) (s : State) : Host.Outcome State Fault Refusal :=
  sflt64 x true (fun c a b d => fmtF64.fma c a b d) s

/-- FCMP and DCMP of SFLT (R220). -/
def execSfltFcmp (x : SFCmp) (s : State) : Host.Outcome State Fault Refusal :=
  uniform s x.c (fun w => sOk w x.a.toNat 1 1 && sOk w x.b.toNat 1 1) [(x.a.toNat, 1), (x.b.toNat, 1)] fun w =>
    let r := fmtF32.compare w.fctl x.k.toNat (w.uni.sget x.a.toNat).toNat (w.uni.sget x.b.toNat).toNat
    s.condWrite w x.d.toNat r.1 r.2
def execSfltDcmp (x : SFCmp) (s : State) : Host.Outcome State Fault Refusal :=
  uniform s x.c (fun w => sOk w x.a.toNat 2 2 && sOk w x.b.toNat 2 2) [(x.a.toNat, 2), (x.b.toNat, 2)] fun w =>
    let r := fmtF64.compare w.fctl x.k.toNat (w.uni.spair x.a.toNat).toNat (w.uni.spair x.b.toNat).toNat
    s.condWrite w x.d.toNat r.1 r.2

end Sys2Proof.Machine
end

