-- ==== Sys2Proof/Machine/Dispatch.lean ====
section
/-!
DEFINITION. One arm per constructor of `Instr`: each is one call of its meaning.
-/
namespace Sys2Proof.Machine

def exec (i : Instr) (s : State) : Host.Outcome State Fault Refusal :=
  match i with
  | .iadd x => Sys2Proof.Machine.execIadd x s
  | .isub x => Sys2Proof.Machine.execIsub x s
  | .imul x => Sys2Proof.Machine.execImul x s
  | .imulh x => Sys2Proof.Machine.execImulh x s
  | .imulhu x => Sys2Proof.Machine.execImulhu x s
  | .imad x => Sys2Proof.Machine.execImad x s
  | .and x => Sys2Proof.Machine.execAnd x s
  | .or x => Sys2Proof.Machine.execOr x s
  | .xor x => Sys2Proof.Machine.execXor x s
  | .shl x => Sys2Proof.Machine.execShl x s
  | .shr x => Sys2Proof.Machine.execShr x s
  | .sar x => Sys2Proof.Machine.execSar x s
  | .imin x => Sys2Proof.Machine.execImin x s
  | .imax x => Sys2Proof.Machine.execImax x s
  | .umin x => Sys2Proof.Machine.execUmin x s
  | .umax x => Sys2Proof.Machine.execUmax x s
  | .iadd64 x => Sys2Proof.Machine.execIadd64 x s
  | .padd x => Sys2Proof.Machine.execPadd x s
  | .sel x => Sys2Proof.Machine.execSel x s
  | .fadd x => Sys2Proof.Machine.execFadd x s
  | .fmul x => Sys2Proof.Machine.execFmul x s
  | .ffma x => Sys2Proof.Machine.execFfma x s
  | .fmin x => Sys2Proof.Machine.execFmin x s
  | .fmax x => Sys2Proof.Machine.execFmax x s
  | .dadd x => Sys2Proof.Machine.execDadd x s
  | .dmul x => Sys2Proof.Machine.execDmul x s
  | .dfma x => Sys2Proof.Machine.execDfma x s
  | .dtsum x => Sys2Proof.Machine.execDtsum x s
  | .icmp x => Sys2Proof.Machine.execIcmp x s
  | .fcmp x => Sys2Proof.Machine.execFcmp x s
  | .dcmp x => Sys2Proof.Machine.execDcmp x s
  | .xuFrcp x => Sys2Proof.Machine.execXuFrcp x s
  | .xuFrsq x => Sys2Proof.Machine.execXuFrsq x s
  | .xuFsqrt x => Sys2Proof.Machine.execXuFsqrt x s
  | .xuFexp2 x => Sys2Proof.Machine.execXuFexp2 x s
  | .xuFlog2 x => Sys2Proof.Machine.execXuFlog2 x s
  | .xuFsin x => Sys2Proof.Machine.execXuFsin x s
  | .xuFcos x => Sys2Proof.Machine.execXuFcos x s
  | .xuFtanh x => Sys2Proof.Machine.execXuFtanh x s
  | .xuFfloor x => Sys2Proof.Machine.execXuFfloor x s
  | .xuFceil x => Sys2Proof.Machine.execXuFceil x s
  | .xuFtrunc x => Sys2Proof.Machine.execXuFtrunc x s
  | .xuFrint x => Sys2Proof.Machine.execXuFrint x s
  | .xuFabs x => Sys2Proof.Machine.execXuFabs x s
  | .xuFneg x => Sys2Proof.Machine.execXuFneg x s
  | .xuDrcp x => Sys2Proof.Machine.execXuDrcp x s
  | .xuDrsq x => Sys2Proof.Machine.execXuDrsq x s
  | .xuDsqrt x => Sys2Proof.Machine.execXuDsqrt x s
  | .xuDabs x => Sys2Proof.Machine.execXuDabs x s
  | .xuDneg x => Sys2Proof.Machine.execXuDneg x s
  | .xuPopc x => Sys2Proof.Machine.execXuPopc x s
  | .xuClz x => Sys2Proof.Machine.execXuClz x s
  | .xuBrev x => Sys2Proof.Machine.execXuBrev x s
  | .xuIneg x => Sys2Proof.Machine.execXuIneg x s
  | .xuIabs x => Sys2Proof.Machine.execXuIabs x s
  | .cvtS32F32 x => Sys2Proof.Machine.execCvtS32F32 x s
  | .cvtU32F32 x => Sys2Proof.Machine.execCvtU32F32 x s
  | .cvtF32S32 x => Sys2Proof.Machine.execCvtF32S32 x s
  | .cvtF32U32 x => Sys2Proof.Machine.execCvtF32U32 x s
  | .cvtS64F64 x => Sys2Proof.Machine.execCvtS64F64 x s
  | .cvtU64F64 x => Sys2Proof.Machine.execCvtU64F64 x s
  | .cvtF64S64 x => Sys2Proof.Machine.execCvtF64S64 x s
  | .cvtF64U64 x => Sys2Proof.Machine.execCvtF64U64 x s
  | .cvtF64F32 x => Sys2Proof.Machine.execCvtF64F32 x s
  | .cvtF32F64 x => Sys2Proof.Machine.execCvtF32F64 x s
  | .cvtS32F64 x => Sys2Proof.Machine.execCvtS32F64 x s
  | .cvtF64S32 x => Sys2Proof.Machine.execCvtF64S32 x s
  | .cvtS64F32 x => Sys2Proof.Machine.execCvtS64F32 x s
  | .cvtF32S64 x => Sys2Proof.Machine.execCvtF32S64 x s
  | .cvtFormatFromF32 x => Sys2Proof.Machine.execCvtFormatFromF32 x s
  | .cvtF32FromFormat x => Sys2Proof.Machine.execCvtF32FromFormat x s
  | .cvtrE8m7 x => Sys2Proof.Machine.execCvtrE8m7 x s
  | .cvtrE5m10 x => Sys2Proof.Machine.execCvtrE5m10 x s
  | .cvtrE4m3 x => Sys2Proof.Machine.execCvtrE4m3 x s
  | .cvtrE5m2 x => Sys2Proof.Machine.execCvtrE5m2 x s
  | .plop x => Sys2Proof.Machine.execPlop x s
  | .ballot x => Sys2Proof.Machine.execBallot x s
  | .tshflIdx x => Sys2Proof.Machine.execTshflIdx x s
  | .tshflXor x => Sys2Proof.Machine.execTshflXor x s
  | .tredAdd x => Sys2Proof.Machine.execTredAdd x s
  | .tredMin x => Sys2Proof.Machine.execTredMin x s
  | .tredMax x => Sys2Proof.Machine.execTredMax x s
  | .tredUmin x => Sys2Proof.Machine.execTredUmin x s
  | .tredUmax x => Sys2Proof.Machine.execTredUmax x s
  | .tredAnd x => Sys2Proof.Machine.execTredAnd x s
  | .tredOr x => Sys2Proof.Machine.execTredOr x s
  | .tredXor x => Sys2Proof.Machine.execTredXor x s
  | .tredFadd x => Sys2Proof.Machine.execTredFadd x s
  | .tredFmin x => Sys2Proof.Machine.execTredFmin x s
  | .tredFmax x => Sys2Proof.Machine.execTredFmax x s
  | .tredDadd x => Sys2Proof.Machine.execTredDadd x s
  | .movs x => Sys2Proof.Machine.execMovs x s
  | .movi x => Sys2Proof.Machine.execMovi x s
  | .movhi x => Sys2Proof.Machine.execMovhi x s
  | .iaddi x => Sys2Proof.Machine.execIaddi x s
  | .shi x => Sys2Proof.Machine.execShi x s
  | .ldb x => Sys2Proof.Machine.execLdb x s
  | .ldbu x => Sys2Proof.Machine.execLdbu x s
  | .ldh x => Sys2Proof.Machine.execLdh x s
  | .ldhu x => Sys2Proof.Machine.execLdhu x s
  | .ldw x => Sys2Proof.Machine.execLdw x s
  | .ldd x => Sys2Proof.Machine.execLdd x s
  | .ldq x => Sys2Proof.Machine.execLdq x s
  | .stb x => Sys2Proof.Machine.execStb x s
  | .sth x => Sys2Proof.Machine.execSth x s
  | .stw x => Sys2Proof.Machine.execStw x s
  | .std x => Sys2Proof.Machine.execStd x s
  | .stq x => Sys2Proof.Machine.execStq x s
  | .atom x => Sys2Proof.Machine.execAtom x s
  | .atomAcq x => Sys2Proof.Machine.execAtomAcq x s
  | .atomRel x => Sys2Proof.Machine.execAtomRel x s
  | .atomAr x => Sys2Proof.Machine.execAtomAr x s
  | .brv x => Sys2Proof.Machine.execBrv x s
  | .call x => Sys2Proof.Machine.execCall x s
  | .jmp x => Sys2Proof.Machine.execJmp x s
  | .ret x => Sys2Proof.Machine.execRet x s
  | .nop x => Sys2Proof.Machine.execNop x s
  | .join => Sys2Proof.Machine.execJoin s
  | .refill => Sys2Proof.Machine.execRefill s
  | .exit => Sys2Proof.Machine.execExit s
  | .gbar => Sys2Proof.Machine.execGbar s
  | .bar x => Sys2Proof.Machine.execBar x s
  | .barArrive x => Sys2Proof.Machine.execBarArrive x s
  | .barWait x => Sys2Proof.Machine.execBarWait x s
  | .phaseOpen => Sys2Proof.Machine.execPhaseOpen s
  | .phaseClose => Sys2Proof.Machine.execPhaseClose s
  | .fenceBlk => Sys2Proof.Machine.execFenceBlk s
  | .fenceDev => Sys2Proof.Machine.execFenceDev s
  | .fenceSys => Sys2Proof.Machine.execFenceSys s
  | .phint x => Sys2Proof.Machine.execPhint x s
  | .trap x => Sys2Proof.Machine.execTrap x s
  | .waitcL x => Sys2Proof.Machine.execWaitcL x s
  | .mcstW x => Sys2Proof.Machine.execMcstW x s
  | .mcstD x => Sys2Proof.Machine.execMcstD x s
  | .mcstQ x => Sys2Proof.Machine.execMcstQ x s
  | .saluAdd x => Sys2Proof.Machine.execSaluAdd x s
  | .saluSub x => Sys2Proof.Machine.execSaluSub x s
  | .saluMul x => Sys2Proof.Machine.execSaluMul x s
  | .saluMulh x => Sys2Proof.Machine.execSaluMulh x s
  | .saluAnd x => Sys2Proof.Machine.execSaluAnd x s
  | .saluOr x => Sys2Proof.Machine.execSaluOr x s
  | .saluXor x => Sys2Proof.Machine.execSaluXor x s
  | .saluShl x => Sys2Proof.Machine.execSaluShl x s
  | .saluShr x => Sys2Proof.Machine.execSaluShr x s
  | .saluSar x => Sys2Proof.Machine.execSaluSar x s
  | .saluMin x => Sys2Proof.Machine.execSaluMin x s
  | .saluMax x => Sys2Proof.Machine.execSaluMax x s
  | .saluMinu x => Sys2Proof.Machine.execSaluMinu x s
  | .saluMaxu x => Sys2Proof.Machine.execSaluMaxu x s
  | .saluAdd64 x => Sys2Proof.Machine.execSaluAdd64 x s
  | .saluPadd x => Sys2Proof.Machine.execSaluPadd x s
  | .saddi x => Sys2Proof.Machine.execSaddi x s
  | .sandi x => Sys2Proof.Machine.execSandi x s
  | .sori x => Sys2Proof.Machine.execSori x s
  | .sshi x => Sys2Proof.Machine.execSshi x s
  | .smovi x => Sys2Proof.Machine.execSmovi x s
  | .smovhi x => Sys2Proof.Machine.execSmovhi x s
  | .scmp x => Sys2Proof.Machine.execScmp x s
  | .scop x => Sys2Proof.Machine.execScop x s
  | .smovs x => Sys2Proof.Machine.execSmovs x s
  | .smovw x => Sys2Proof.Machine.execSmovw x s
  | .sv2s x => Sys2Proof.Machine.execSv2s x s
  | .sfltFadd x => Sys2Proof.Machine.execSfltFadd x s
  | .sfltFmul x => Sys2Proof.Machine.execSfltFmul x s
  | .sfltFfma x => Sys2Proof.Machine.execSfltFfma x s
  | .sfltFcmp x => Sys2Proof.Machine.execSfltFcmp x s
  | .sfltDadd x => Sys2Proof.Machine.execSfltDadd x s
  | .sfltDmul x => Sys2Proof.Machine.execSfltDmul x s
  | .sfltDfma x => Sys2Proof.Machine.execSfltDfma x s
  | .sfltDcmp x => Sys2Proof.Machine.execSfltDcmp x s
  | .sbr x => Sys2Proof.Machine.execSbr x s
  | .scall x => Sys2Proof.Machine.execScall x s
  | .sjmp x => Sys2Proof.Machine.execSjmp x s
  | .sjmpRet x => Sys2Proof.Machine.execSjmpRet x s
  | .sldw x => Sys2Proof.Machine.execSldw x s
  | .sldd x => Sys2Proof.Machine.execSldd x s
  | .sstw x => Sys2Proof.Machine.execSstw x s
  | .sstd x => Sys2Proof.Machine.execSstd x s
  | .satom x => Sys2Proof.Machine.execSatom x s
  | .satomAr x => Sys2Proof.Machine.execSatomAr x s
  | .loopRun x => Sys2Proof.Machine.execLoopRun x s
  | .loopWait => Sys2Proof.Machine.execLoopWait s
  | .loopAbort => Sys2Proof.Machine.execLoopAbort s
  | .dqPush x => Sys2Proof.Machine.execDqPush x s
  | .dqPop x => Sys2Proof.Machine.execDqPop x s
  | .dqPoll x => Sys2Proof.Machine.execDqPoll x s
  | .evqWait x => Sys2Proof.Machine.execEvqWait x s
  | .evqPoll x => Sys2Proof.Machine.execEvqPoll x s
  | .cpG2a x => Sys2Proof.Machine.execCpG2a x s
  | .cpA2g x => Sys2Proof.Machine.execCpA2g x s
  | .cpG2w x => Sys2Proof.Machine.execCpG2w x s
  | .cpA2a x => Sys2Proof.Machine.execCpA2a x s
  | .cpG2g x => Sys2Proof.Machine.execCpG2g x s
  | .cpGather x => Sys2Proof.Machine.execCpGather x s
  | .cpScatter x => Sys2Proof.Machine.execCpScatter x s
  | .cpFill x => Sys2Proof.Machine.execCpFill x s
  | .cpmxG2a x => Sys2Proof.Machine.execCpmxG2a x s
  | .cpmxA2a x => Sys2Proof.Machine.execCpmxA2a x s
  | .cpmxGather x => Sys2Proof.Machine.execCpmxGather x s
  | .mxLds x => Sys2Proof.Machine.execMxLds x s
  | .mxSwap x => Sys2Proof.Machine.execMxSwap x s
  | .mxStream x => Sys2Proof.Machine.execMxStream x s
  | .mxGrouped x => Sys2Proof.Machine.execMxGrouped x s
  | .mxTile x => Sys2Proof.Machine.execMxTile x s
  | .accAlloc x => Sys2Proof.Machine.execAccAlloc x s
  | .accTryalloc x => Sys2Proof.Machine.execAccTryalloc x s
  | .accFree x => Sys2Proof.Machine.execAccFree x s
  | .acceZero x => Sys2Proof.Machine.execAcceZero x s
  | .acceOut x => Sys2Proof.Machine.execAcceOut x s
  | .waitc x => Sys2Proof.Machine.execWaitc x s
  | .rgnMap x => Sys2Proof.Machine.execRgnMap x s
  | .rgnFlush x => Sys2Proof.Machine.execRgnFlush x s
  | .rgnUnmap x => Sys2Proof.Machine.execRgnUnmap x s
  | .rflSetup x => Sys2Proof.Machine.execRflSetup x s
  | .rflRun x => Sys2Proof.Machine.execRflRun x s
  | .rflWait x => Sys2Proof.Machine.execRflWait x s
  | .rflState x => Sys2Proof.Machine.execRflState x s
  | .rflAbort => Sys2Proof.Machine.execRflAbort s
  | .launch x => Sys2Proof.Machine.execLaunch x s
  | .signalAdd x => Sys2Proof.Machine.execSignalAdd x s
  | .signalSet x => Sys2Proof.Machine.execSignalSet x s
  | .sysTrapret x => Sys2Proof.Machine.execSysTrapret x s
  | .sysGflagsRd x => Sys2Proof.Machine.execSysGflagsRd x s
  | .sysGflagsClr x => Sys2Proof.Machine.execSysGflagsClr x s
  | .sysTimerSet x => Sys2Proof.Machine.execSysTimerSet x s
  | .sysProfmark x => Sys2Proof.Machine.execSysProfmark x s
  | .sysHalt x => Sys2Proof.Machine.execSysHalt x s
  | .sysDbgbrk x => Sys2Proof.Machine.execSysDbgbrk x s
  | .versionCommitComplete t => Sys2Proof.Machine.execVersionCommitComplete t s
  | .phaseCloseComplete t => Sys2Proof.Machine.execPhaseCloseComplete t s
  | .fenceSysComplete t => Sys2Proof.Machine.execFenceSysComplete t s
  | .joinRelease g => Sys2Proof.Machine.execJoinRelease g s
  | .gbarComplete g => Sys2Proof.Machine.execGbarComplete g s
  | .barrierDeparture t => Sys2Proof.Machine.execBarrierDeparture t s
  | .teamOperationExecute t => Sys2Proof.Machine.execTeamOperationExecute t s
  | .waitcSatisfied a => Sys2Proof.Machine.execWaitcSatisfied a s
  | .refillUnit t => Sys2Proof.Machine.execRefillUnit t s
  | .gtimerDeadline a => Sys2Proof.Machine.execGtimerDeadline a s
  | .stalledPushResume a => Sys2Proof.Machine.execStalledPushResume a s
  | .copyComplete op => Sys2Proof.Machine.execCopyComplete op s
  | .matrixOperationStart op => Sys2Proof.Machine.execMatrixOperationStart op s
  | .matrixOperationComplete op => Sys2Proof.Machine.execMatrixOperationComplete op s
  | .groupedEntryReached op => Sys2Proof.Machine.execGroupedEntryReached op s
  | .tileStep op => Sys2Proof.Machine.execTileStep op s
  | .accAllocGrant op => Sys2Proof.Machine.execAccAllocGrant op s
  | .accumulatorOperationComplete op => Sys2Proof.Machine.execAccumulatorOperationComplete op s
  | .regionOperationComplete op => Sys2Proof.Machine.execRegionOperationComplete op s
  | .granuleFillComplete x => Sys2Proof.Machine.execGranuleFillComplete x s
  | .granuleFillError x => Sys2Proof.Machine.execGranuleFillError x s
  | .writeBackStart x => Sys2Proof.Machine.execWriteBackStart x s
  | .writeBackComplete x => Sys2Proof.Machine.execWriteBackComplete x s
  | .launchSlotWrite op => Sys2Proof.Machine.execLaunchSlotWrite op s
  | .launchComplete op => Sys2Proof.Machine.execLaunchComplete op s
  | .signalComplete op => Sys2Proof.Machine.execSignalComplete op s
  | .loopWalkPush op => Sys2Proof.Machine.execLoopWalkPush op s
  | .loopWalkComplete op => Sys2Proof.Machine.execLoopWalkComplete op s
  | .rflSetupBind op => Sys2Proof.Machine.execRflSetupBind op s
  | .rflInit op => Sys2Proof.Machine.execRflInit op s
  | .rflConvert op => Sys2Proof.Machine.execRflConvert op s
  | .rflFactor op => Sys2Proof.Machine.execRflFactor op s
  | .rflSolve op => Sys2Proof.Machine.execRflSolve op s
  | .rflUpdate op => Sys2Proof.Machine.execRflUpdate op s
  | .rflResidual op => Sys2Proof.Machine.execRflResidual op s
  | .rflTest op => Sys2Proof.Machine.execRflTest op s
  | .rflDone op => Sys2Proof.Machine.execRflDone op s
  | .launchGrid p => Sys2Proof.Machine.execLaunchGrid p s
  | .leaseGrant grid => Sys2Proof.Machine.execLeaseGrant grid s
  | .pageMigration x => Sys2Proof.Machine.execPageMigration x s
  | .copyPacket p => Sys2Proof.Machine.execCopyPacket p s
  | .waitPacket p => Sys2Proof.Machine.execWaitPacket p s
  | .waitWake queue => Sys2Proof.Machine.execWaitWake queue s
  | .signalPacket p => Sys2Proof.Machine.execSignalPacket p s
  | .condPacket p => Sys2Proof.Machine.execCondPacket p s
  | .graphPacket p => Sys2Proof.Machine.execGraphPacket p s
  | .graphNodeComplete queue graph node => Sys2Proof.Machine.execGraphNodeComplete queue graph node s
  | .interruptPacket p => Sys2Proof.Machine.execInterruptPacket p s
  | .markerPacket p => Sys2Proof.Machine.execMarkerPacket p s
  | .replSync p => Sys2Proof.Machine.execReplSync p s
  | .preload p => Sys2Proof.Machine.execPreload p s
  | .packetCompletion queue index => Sys2Proof.Machine.execPacketCompletion queue index s
  | .queueMap queue => Sys2Proof.Machine.execQueueMap queue s
  | .waitCycleTimeout ctx => Sys2Proof.Machine.execWaitCycleTimeout ctx s
  | .tryPlace cluster grid => Sys2Proof.Machine.execTryPlace cluster grid s
  | .blockRestore cluster block => Sys2Proof.Machine.execBlockRestore cluster block s
  | .tsliceExpiry cluster => Sys2Proof.Machine.execTsliceExpiry cluster s
  | .graceWindowExpiry block => Sys2Proof.Machine.execGraceWindowExpiry block s
  | .groupSave g => Sys2Proof.Machine.execGroupSave g s
  | .tregalEnqueue cluster grid => Sys2Proof.Machine.execTregalEnqueue cluster grid s
  | .tregalPick cluster => Sys2Proof.Machine.execTregalPick cluster s
  | .tregalTick cluster => Sys2Proof.Machine.execTregalTick cluster s
  | .tregalBlock cluster block => Sys2Proof.Machine.execTregalBlock cluster block s
  | .tregalWake cluster grid arg => Sys2Proof.Machine.execTregalWake cluster grid arg s
  | .tregalMigrate cluster stack => Sys2Proof.Machine.execTregalMigrate cluster stack s
  | .policyWatchdogOverrun cluster => Sys2Proof.Machine.execPolicyWatchdogOverrun cluster s
  | .sketchCountBurst stack frame ctx => Sys2Proof.Machine.execSketchCountBurst stack frame ctx s
  | .sketchIntervalClose stack => Sys2Proof.Machine.execSketchIntervalClose stack s
  | .uncorrectableError loc => Sys2Proof.Machine.execUncorrectableError loc s
  | .tlbiGo fn v => Sys2Proof.Machine.execTlbiGo fn v s
  | .tlbiComplete fn => Sys2Proof.Machine.execTlbiComplete fn s
  | .skctlWrite stack v => Sys2Proof.Machine.execSkctlWrite stack v s
  | .dbellWrite fn v => Sys2Proof.Machine.execDbellWrite fn v s
  | .qcbUpdate q => Sys2Proof.Machine.execQcbUpdate q s
  | .prrespWrite fn v => Sys2Proof.Machine.execPrrespWrite fn v s
  | .intpendClear fn v => Sys2Proof.Machine.execIntpendClear fn v s
  | .interruptMessage fn vector => Sys2Proof.Machine.execInterruptMessage fn vector s
  | .qownWrite quad v => Sys2Proof.Machine.execQownWrite quad v s
  | .qownChange quad => Sys2Proof.Machine.execQownChange quad s
  | .ptpoolSizeWrite v => Sys2Proof.Machine.execPtpoolSizeWrite v s
  | .trseedWrite cluster v => Sys2Proof.Machine.execTrseedWrite cluster v s
  | .tregalLoad fn v => Sys2Proof.Machine.execTregalLoad fn v s
  | .resetQueue fn v => Sys2Proof.Machine.execResetQueue fn v s
  | .resetContext fn v => Sys2Proof.Machine.execResetContext fn v s
  | .resetEngine fn v => Sys2Proof.Machine.execResetEngine fn v s
  | .resetPartition fn v => Sys2Proof.Machine.execResetPartition fn v s
  | .resetDevice fn v => Sys2Proof.Machine.execResetDevice fn v s
  | .resetRungTimeout fn => Sys2Proof.Machine.execResetRungTimeout fn s
  | .resetComplete fn => Sys2Proof.Machine.execResetComplete fn s
  | .functionLevelReset fn => Sys2Proof.Machine.execFunctionLevelReset fn s
  | .powerOn images => Sys2Proof.Machine.execPowerOn images s
  | .thermalLimitExceeded die => Sys2Proof.Machine.execThermalLimitExceeded die s
  | .atsInvalidation base len => Sys2Proof.Machine.execAtsInvalidation base len s
  | .hostMemoryAccess x => Sys2Proof.Machine.execHostMemoryAccess x s
  | .peerAccess x => Sys2Proof.Machine.execPeerAccess x s
  | .getVersion => Sys2Proof.Machine.execGetVersion s
  | .getCapabilities => Sys2Proof.Machine.execGetCapabilities s
  | .negotiateAlgorithms => Sys2Proof.Machine.execNegotiateAlgorithms s
  | .getDigests => Sys2Proof.Machine.execGetDigests s
  | .getCertificate => Sys2Proof.Machine.execGetCertificate s
  | .challenge => Sys2Proof.Machine.execChallenge s
  | .getMeasurements block => Sys2Proof.Machine.execGetMeasurements block s
  | .spdmUnsupportedRequest code => Sys2Proof.Machine.execSpdmUnsupportedRequest code s
  | .debugStop quad => Sys2Proof.Machine.execDebugStop quad s
  | .debugRun quad => Sys2Proof.Machine.execDebugRun quad s
  | .debugDump quad => Sys2Proof.Machine.execDebugDump quad s
  | .monitorClear core n => Sys2Proof.Machine.execMonitorClear core n s
  | .registerWrite r v => Sys2Proof.Machine.execRegisterWrite r v s
  | .priResponse idx ok => Sys2Proof.Machine.execPriResponse idx ok s
  | .correctableError loc => Sys2Proof.Machine.execCorrectableError loc s
  | .jxLinkPortDown port down => Sys2Proof.Machine.execJxLinkPortDown port down s
  | .peerStoreRejected port fn => Sys2Proof.Machine.execPeerStoreRejected port fn s
  | .hostCacheSnoop addr => Sys2Proof.Machine.execHostCacheSnoop addr s

end Sys2Proof.Machine
end

