-- ==== Sys2Proof/Machine/Retire.lean ====
section
/-!
DEFINITION. What follows of itself once a step has been taken: barrier instances that complete (R241), groups that
retire and blocks that exit (06_execution_model.md R158), control threads that halt (R254), leases released and grids
complete (R53, R311), and pre-empted blocks that leave their cores (R354).
-/
namespace Sys2Proof.Machine

/-- Whether a group of a block retires now: every thread DRAINED, no engine operation of its own outstanding (R158). -/
def State.groupOver (s : State) (b : Block) (g : Group) : Bool :=
  !g.retired && g.threads.all (fun t => t.st == .drained) && !s.ops.any fun o => o.block == b.id && o.group == some g.num

/-- Whether a control thread has halted: nothing it pushed is outstanding (R254). -/
def State.ctlOver (s : State) (b : Block) (c : Ctl) : Bool :=
  c.st == .halting && !s.ops.any fun o => o.block == b.id && o.rank == c.rank && o.quad == c.quad && o.group.isNone

/-- A block's groups and control threads brought up to date; its cluster tries again where a slot has become free (R320). -/
def State.retireIn (s : State) (b : Block) : State :=
  let gone := b.groups.any (s.groupOver b)
  let s1 := s.modBlock b.id fun x =>
    { x with
      groups := x.groups.map fun g => if s.groupOver x g then { g with retired := true } else g,
      ctls := x.ctls.map fun c => if s.ctlOver x c then { c with st := .halted } else c }
  if gone then s1.wantRound b.cluster else s1

/-- Whether a block exits: every group retired, every control thread halted (R158). -/
def Block.done (b : Block) : Bool := b.groups.all (·.retired) && b.ctls.all fun c => c.st == .halted

/-- The backing index a block's PRIV window has in its grid's pool (R317). -/
def GridDesc.privIndex (d : GridDesc) (va : Nat) : Nat := (va - d.privBase) / d.privBytes

/-- A block's exit (R158): what is pending published, its regions unmapped, its banks, contributions, backing and tokens
free again; every dispatcher tries again. -/
def State.exitBlock (s : State) (b : Block) : State :=
  let s1 := (List.range b.cores.length).foldl (fun (s : State) r => s.publishAll b.id r (b.coreOf r)) (s.orderBlock b.id)
  let s2 := (s1.unmapAll b.id).removeBlock b
  let s3 := s2.modGrid b.grid fun g =>
    { g with
      live := g.live - 1,
      priv := match b.priv with
        | some va => g.priv.filter (· != g.desc.privIndex va)
        | none => g.priv }
  s3.wantRounds.tick

/-- One block brought up to date. -/
def State.settleBlock (s : State) (id : Nat) : State :=
  match s.block? id with
  | none => s
  | some b =>
    if !b.resident then s
    else
      let s1 := s.retireIn b
      match s1.block? id with
      | none => s1
      | some x => if x.done then s1.exitBlock x else s1.modBlock id Block.completeBars

/-- Every granted lease whose last block has retired released (R53). -/
def State.releaseLeases (s : State) : State :=
  s.grids.foldl (fun (s : State) g =>
    match s.grid? g.id with
    | some x => if s.leaseOver x then s.releaseLease x else s
    | none => s) s

/-- The state after a step with all that follows of itself. -/
def State.settle (s : State) : State :=
  ((s.blocks.map (·.id)).foldl State.settleBlock s.decideTries).releaseLeases.swapOuts.decideTries

end Sys2Proof.Machine
end

