-- ==== Sys2Proof/Machine/Profile.lean ====
section
/-!
DEFINITION. What the profiling interface counts each cycle (12_dispatch_and_issue.md R326; 14_traps_preemption_debug.md
R368 to R370): eligible groups, stall reasons, monitors, events and sessions.
-/
namespace Sys2Proof.Machine

-- Registers with a pending write (R325).

/-- The registers a word may read or write, with how many from each on: vector registers by number, uniform ones as 0x44 + their
number (R167, R169, R178, R181, R183). -/
def namedRegs (word : Nat) : List (Nat × Nat) :=
  let f (hi lo : Nat) : Nat := bitsOf word hi lo
  let op := f 30 25
  let s (r n : Nat) : Nat × Nat := (0x44 + r, n)
  if word < 2 ^ 31 then
    if 0x2C ≤ op && op ≤ 0x37 then [(f 21 16, 4), (f 15 9, 2)]
    else if 0x38 ≤ op && op ≤ 0x3B then [(f 21 16, 2), (f 15 9, 2), (f 8 3 / 2 * 2, 4)]
    else if op == 0x24 || op == 0x25 then [(f 21 16, 2), (f 15 9, 2), (f 8 3, 1)]
    else if op == 0x26 then [(f 20 15, 2), (f 21 16, 2), (f 15 9, 2), (f 14 8, 2)]
    else if op == 0x3E then [(f 15 9, 2)]
    else if (0x27 ≤ op && op ≤ 0x29) || op == 0x3D then [(f 21 16, 2)]
    else if op == 0x3C then []
    else if op == 0x3F then [(f 20 15, 4), s (f 20 15) 1, (f 14 8, 2)]
    else [(f 20 15, 4), (f 14 8, 2), (f 7 1, 2)]
  else if op == 0x0D then []
  else if op == 0x14 then [s (f 20 15) 2, s (f 14 9) 2, s (f 8 3 / 2 * 2) 4]
  else if op == 0x0B then [s (f 20 15) 2, (f 14 9, 2)]
  else if op == 0x15 || (0x18 ≤ op && op ≤ 0x1C) || (0x1E ≤ op && op ≤ 0x21) then [s (f 20 15) 16, s (f 14 9) 16]
  else if [0x00, 0x07, 0x08, 0x0C, 0x0F, 0x16, 0x17, 0x22].contains op then [s (f 20 15) 8, s (f 14 9) 2, s (f 8 3) 2]
  else [s (f 24 19) 2, s (f 18 13) 2]

/-- Whether an agent's word names a register that a late access has still to write. -/
def LateAcc.holds (l : LateAcc) (a : Agent) (word : Nat) : Bool :=
  let at_ := if l.uni then 0x44 + l.d else l.d
  l.writes && (if l.uni || decide (2 ^ 31 ≤ word) then sameUni l.owner a else agentsMeet l.owner a) &&
    (namedRegs word).any fun r => decide (r.1 < at_ + accWords l.n) && decide (at_ < r.1 + r.2)

/-- Whether a word names a uniform register that another fragment of the group has still to write, by a load or atomic that
waits for a fill (R33, R325). -/
def Who.fillHolds (w : Who) (word : Nat) : Bool :=
  match w.grp with
  | none => false
  | some g => g.threads.any fun t =>
      match t.wait with
      | .fill _ _ dst _ _ => decide (0x44 ≤ dst.1) && (namedRegs word).any fun r => decide (r.1 < dst.1 + dst.2) && decide (dst.1 < r.1 + r.2)
      | _ => false

-- Eligible groups (R325, R326).

/-- The lowest lane of each fragment of a group that may issue. -/
def Group.fronts (g : Group) : List Nat :=
  (List.range 32).filter fun l =>
    match g.thread? l with
    | some t => t.canIssue && (List.range l).all fun i => ((g.thread? i).map fun u => !(u.canIssue && u.pc == t.pc)).getD true
    | none => false

/-- Whether the word that a fragment is to issue next names no register with a pending write (R325). -/
def State.unheld (s : State) (b : Block) (g : Group) (lane : Nat) : Bool :=
  (s.wq.late.isEmpty && g.threads.all fun t => t.wait.fillDst.isNone) ||
    match (s.ready (.frag b.id g.num (maskOf [lane]))).bind fun a => (State.who { s with cur := a }) with
    | none => false
    | some w =>
      match (s.fetch w.site w.pc).2 with
      | .word x => !w.fillHolds x && !s.wq.late.any fun l => l.holds w.agent x
      | .bad _ => true

/-- Whether a group may issue: it stands on its core, and a fragment of it, or its chain in progress, is eligible. -/
def State.groupEligible (s : State) (b : Block) (ctx : Nat) (g : Group) : Bool :=
  let own (l : Nat) : Bool := (g.chain.map fun c => bitOf c.lanes.toNat l).getD true
  !g.retired && !g.saved && !s.frozen b ctx (b.rankOf g.num) (b.quadOf g.num) && (b.pre != .hard || g.chain.isSome) &&
    g.fronts.any fun l => own l && s.unheld b g l

/-- The groups of one (block, member, quadrant) that stand on it. -/
def Block.groupsAt (b : Block) (rank quad : Nat) : List Group :=
  b.groups.filter fun g => !g.retired && !g.saved && b.rankOf g.num == rank && b.quadOf g.num == quad

/-- A resident (block, member, quadrant) with its quadrant's number and its context. -/
structure Stand where
  blk : Block
  ctx : Nat
  rank : Nat
  quad : Nat
  phys : Nat

/-- Where resident blocks stand. -/
def State.stands (s : State) : List Stand :=
  s.blocks.flatMap fun b =>
    if !b.resident then []
    else
      let ctx := ((s.grid? b.grid).map (·.ctx)).getD 0
      b.pairs.map fun p =>
        ⟨b, ctx, p.rank, p.quad, quadNo (b.coreOf p.rank) (s.physQuad (b.coreOf p.rank) (s.ctxFn ctx) p.quad)⟩

def Stand.groups (x : Stand) : List Group := x.blk.groupsAt x.rank x.quad

/-- The eligible groups of a stand; a chain in progress counts as 1 (R326). -/
def State.eligibleAt (s : State) (x : Stand) : Nat :=
  match x.blk.chainOn x.rank x.quad with
  | some g => if s.groupEligible x.blk x.ctx g then 1 else 0
  | none => (x.groups.filter (s.groupEligible x.blk x.ctx)).length

/-- The eligible groups of a quadrant: a chain on it shuts out the others. -/
def State.eligibleOn (s : State) (xs : List Stand) : Nat :=
  match xs.find? fun x => (x.blk.chainOn x.rank x.quad).isSome with
  | some x => s.eligibleAt x
  | none => xs.foldl (fun n x => n + s.eligibleAt x) 0

/-- The histogram's bin of a number of eligible groups. -/
def eligibleBin (n : Nat) : Nat := if n < 3 then n else if n ≤ 4 then 3 else if n ≤ 8 then 4 else if n ≤ 16 then 5 else if n ≤ 32 then 6 else 7

/-- The stall reason of a wait (R368). -/
def Wait.reason (w : Wait) : Nat :=
  match w with
  | .none => 0
  | .join => 4
  | .gbar => 5
  | .bar _ => 5
  | .team _ => 6
  | .commit _ => 12
  | .close => 10
  | .fence => 11
  | .waitc _ _ => 7
  | .permit _ => 9
  | .dqPush => 8
  | .dqPop _ _ => 8
  | .evq => 8
  | .rflWait => 0
  | .loopWait => 0
  | .phint _ => 14
  | .fill _ _ _ _ _ => 3
  | .peers _ => 3
  | .halt => 0

/-- The age of the fragment that a thread is of (R325): since any thread that stands at its instruction for the same reason last
issued. -/
def State.fragAge (s : State) (g : Group) (t : Thread) : Nat :=
  let frag := g.threads.filter fun u => u.present && u.pc == t.pc && u.wait.reason == t.wait.reason
  frag.foldl (fun a u => min a (ageOf s.cycle g.placedAt u.lastLane)) (ageOf s.cycle g.placedAt t.lastLane)

/-- The reason a group is charged: debug stop, pre-emption, its chain, or the wait of its oldest fragment. -/
def State.stallOf (s : State) (x : Stand) (g : Group) : Nat :=
  if s.frozen x.blk x.ctx x.rank x.quad then 15
  else if x.blk.pre == .hard then 14
  else if g.chain.isSome then 13
  else
    let old := ((List.range 32).filterMap fun l => (g.thread? l).map fun t => (l, t)).foldl (fun (m : Option (Nat × Thread)) (t : Nat × Thread) =>
      if !t.2.present then m
      else
        match m with
        | none => some t
        | some u => if s.fragAge g u.2 < s.fragAge g t.2 then some t else some u) none
    (old.map fun t => if t.2.wait == .none && !s.unheld x.blk g t.1 then 3 else t.2.wait.reason).getD 0

/-- The oldest resident group of a quadrant: placed earliest, then the lower slot. -/
def oldestGroup (xs : List Stand) : Option (Stand × Group) :=
  (xs.flatMap fun x => x.groups.map fun g => (x, g)).foldl (fun (m : Option (Stand × Group)) y =>
    match m with
    | none => some y
    | some z =>
      if y.2.placedAt < z.2.placedAt || (y.2.placedAt == z.2.placedAt && decide (y.2.slot < z.2.slot)) then some y else some z) none

/-- A 48-bit counter of a list raised. -/
def bump48 (l : List Nat) (len i n : Nat) : List Nat :=
  (List.range len).map fun k => if k == i then (l.getD k 0 + n) % 2 ^ 48 else l.getD k 0

/-- n cycles of one quadrant's histogram (R326). -/
def State.profileQuad (s : State) (n : Nat) (xs : List Stand) (q : Nat) : State :=
  let k := s.eligibleOn xs
  let s1 := s.modQuadHw q fun h => { h with bins := bump48 h.bins 8 (eligibleBin k) n }
  match oldestGroup xs with
  | some (x, g) => if k == 0 then s1.modQuadHw q fun h => { h with stalls := bump48 h.stalls 16 (s.stallOf x g) n } else s1
  | none => s1

/-- A monitor's bin of a value (R369). -/
def monBin (v : Nat) : Nat := if v == 0 then 0 else min 15 (v.log2 + 1)

/-- n samples of a value. -/
def Monitor.sample (m : Monitor) (v n : Nat) : Monitor :=
  let first := m.bins.all (· == 0)
  { m with
    min := if first || decide (v < m.min.toNat) then BitVec.ofNat 32 v else m.min,
    max := if first || decide (m.max.toNat < v) then BitVec.ofNat 32 v else m.max,
    bins := bump48 m.bins 16 (monBin v) n }

/-- What a monitor's source reads each cycle where a context stands: event queue depth, copy permits in use, eligible
groups. The latencies of sources 0 to 4 are times and are not sampled. -/
def State.monValue (s : State) (x : Stand) (src : Nat) : Option Nat :=
  match src with
  | 5 => (x.blk.pair? x.rank x.quad).map fun p => p.evq.length
  | 6 => some ((s.pairOps x.blk.id x.rank x.quad).filter (·.holds .copy)).length
  | 7 => some (s.eligibleAt x)
  | _ => none

/-- n cycles of a core's monitors that sample. -/
def State.profileMon (s : State) (n : Nat) (xs : List Stand) (core i : Nat) (m : Monitor) : State :=
  let c := m.ctl.toNat
  if !bitOf c 31 then s
  else
    (xs.filter fun x => x.ctx == bitsOf c 15 4 && x.phys / 4 == core).foldl (fun (s : State) x =>
      match s.monValue x (c % 16) with
      | some v => s.modCoreHw core fun h => { h with mons := tabMod h.mons i {} fun y => y.sample v n }
      | none => s) s

/-- n cycles of everything the profiling interface counts. -/
def State.profile (s : State) (n : Nat) : State :=
  let xs := s.stands
  let s1 := ((xs.map (·.phys)).eraseDups).foldl (fun (s : State) q => s.profileQuad n (xs.filter (·.phys == q)) q) s
  s.cores.foldl (fun (s : State) c => c.2.mons.foldl (fun (s : State) m => s.profileMon n xs c.1 m.1 m.2) s) s1

-- Reading the counters (R326, R370).

/-- A bin of a quadrant's histogram, 48 bits wide: bin 0 counts every cycle since reset that no other bin counted. -/
def State.bin (s : State) (q i : Nat) : Nat :=
  let l := (s.quadHw q).bins
  if i == 0 then (s.cycle + (l.drop 1).foldl (fun n x => n + (2 ^ 48 - x % 2 ^ 48)) 0) % 2 ^ 48 else l.getD i 0

/-- The count of a profiling event: the bins of R326 are events 0x0040 to 0x0047. -/
def State.eventCount (s : State) (id : Nat) : Nat :=
  if 0x40 ≤ id && id ≤ 0x47 then (List.range 768).foldl (fun n q => n + s.bin q (id - 0x40)) 0 else tabGet s.events id 0

/-- Whether this device lacks an event: only 0x8000 to 0xFFFF may be absent. -/
def absentEvent (id : Nat) : Bool := decide (0x8000 ≤ id) && Config.eventAbsent id

/-- The place of a guest's session that names an event: the event, and its count when it was named. -/
def State.sessionAt (s : State) (fn i : Nat) : Option (Nat × Nat) := (s.sessions.find? (·.1 == fn * 16 + i)).map (·.2)

/-- The counter at a place of a guest's session: what the event has counted since it was named there; an event this part lacks
reads zero (R370). -/
def State.sessionCount (s : State) (fn i : Nat) : Option Nat :=
  (s.sessionAt fn i).map fun e => if absentEvent e.1 then 0 else s.eventCount e.1 - e.2

/-- A guest's session status word (R370). -/
def State.sessionStatus (s : State) (fn : Nat) : Nat :=
  (List.range 16).foldl (fun m i => if ((s.sessionAt fn i).map fun e => absentEvent e.1).getD false then m + 2 ^ i else m) 0

/-- An event named at a place of a guest's session. -/
def State.nameEvent (s : State) (fn i event : Nat) : State :=
  if fn ≤ 16 && i < 16 && event < 2 ^ 16 then
    { s with sessions := tabSet s.sessions (fn * 16 + i) (event, s.eventCount event) }
  else s

end Sys2Proof.Machine
end

