-- ==== Sys2Proof/Machine/Schedule.lean ====
section
/-!
DEFINITION. Who moves next, and what one move does: due convergence first, then the agenda's head, then the device's own
default order (log 2): its own events, else the oldest eligible agent of R325, else one cycle.
-/
namespace Sys2Proof.Machine

/-- A meaning with its operands given: what a move may carry out. -/
abbrev Move := State → Host.Outcome State Fault Refusal

/-- The state of an outcome changed. -/
def onNext (o : Host.Outcome State Fault Refusal) (f : State → State) : Host.Outcome State Fault Refusal :=
  match o with
  | .next s => .next (f s)
  | .fault e => .fault e
  | .refused e => .refused e

-- One issue.

/-- n cycles: the profiling interface counts them, and time passes. -/
def State.cyclesPass (s : State) (n : Nat) : State := (s.profile n).passCycles n

/-- The end of an issue: no agent issues any more, one cycle has passed, and what follows of itself has come about. -/
def State.endIssue (s : State) : State := ({ s with cur := .none }.cyclesPass 1).settle

-- One word.

/-- Whether a fragment of the issuer's group waits for a fill of uniform registers. -/
def Who.fillsUni (w : Who) : Bool :=
  match w.grp with
  | none => false
  | some g => g.threads.any fun t =>
      match t.wait with
      | .fill _ _ dst _ _ => decide (0x44 ≤ dst.1)
      | _ => false

/-- The word the current agent fetched, run: `exec` of the instruction it decodes to, or the fault of the word. Where it names a
register with a pending write the fragment is not eligible (R325): a late access's comes about, and it issues later. -/
def State.runWord (s : State) (w : Who) (word : Nat) : Host.Outcome State Fault Refusal :=
  if w.fillHolds word then .next s
  else if s.wq.late.any fun l => l.holds w.agent word then .next (s.settleLate fun l => l.holds w.agent word)
  else
    match decode word with
    | some i => exec i (s.noteIssue w (decide (2 ^ 31 ≤ word)))
    | none => .next (s.wordFault w (badWord w.ctl.isSome word) (chainBit word))

/-- The chain that holds the per-lane pipe an agent would issue on, unless the agent is that chain (R186). -/
def State.pipeHeld (s : State) (w : Who) : Option Agent :=
  if w.chain.isSome then none else s.pipeChain w.core (s.physQuad w.core (s.ctxFn w.ctx) w.quad)

/-- One issue by an agent that is ready (R165, R325): due FLAG_TRAPs, the fetch, then its word. A per-lane word waits
behind a chain that holds the quadrant's pipe, whose fragment issues instead (R186). -/
def State.issueReady (s : State) : Nat → Agent → Host.Outcome State Fault Refusal
  | fuel, a =>
    let s0 := { s with cur := a }
    match s0.who with
    | none => .next s
    | some w =>
      let s0 := (s0.passClose (w.blk.id, w.rank)).openDue w
      match w.grp, w.dueFlags with
      | some g, d :: ds => .next (s0.takeDueFlags w g (d :: ds)).endIssue
      | _, _ =>
        match s0.fetch w.site w.pc with
        | (s1, .bad c) => .next (s1.wordFault w c w.chain.isSome).endIssue
        | (s1, .word word) =>
          match (if word < 2 ^ 31 then s.pipeHeld w else none), fuel with
          | some c, fuel + 1 =>
            match s.ready c with
            | some c' => s.issueReady fuel c'
            | none => .next s
          | _, _ => onNext (s1.runWord w word) State.endIssue

/-- An issue turn: lost where the agent may not issue. -/
def State.issueTurn (s : State) (a : Agent) : Host.Outcome State Fault Refusal :=
  match s.ready a with
  | none => .next s
  | some a' => s.issueReady 1 a'

-- Due convergence.

/-- A step that comes before anything else: threads converge or are found unable to. -/
inductive Due where
  | event (f : Move)
  | replay (a : Agent) (issue : Nat)
  | peers (block group : Nat)
  | replayOp (id : Nat)
  | mismatch (block group : Nat)

/-- The convergence due in a group (R148, R239 to R242, R361): departures, then releases, then mismatches, then its
deadline. -/
def Block.converges (b : Block) (g : Group) : Option Due :=
  let lanes := List.range 32
  let ref (l : Nat) : ThreadRef := ⟨b.id, g.num, l⟩
  let leaves (l : Nat) : Bool :=
    match g.thread? l with
    | none => false
    | some t =>
      match t.wait with
      | .bar n => t.present && b.departs n t
      | _ => false
  match lanes.find? leaves with
  | some l => some (.event (execBarrierDeparture (ref l)))
  | none =>
    if g.joinReady then some (.event (execJoinRelease ⟨b.id, g.num⟩))
    else if g.gbarReady then some (.event (execGbarComplete ⟨b.id, g.num⟩))
    else
      match lanes.find? fun l => (g.teamReady l).isSome with
      | some l => some (.event (execTeamOperationExecute (ref l)))
      | none =>
        if !g.teamMismatch.isEmpty || !g.barMismatch.isEmpty then some (.mismatch b.id g.num)
        else if g.uni.due && g.chain.isNone then some (.event (execGtimerDeadline (.frag b.id g.num 0xFFFFFFFF)))
        else none

/-- What is due in a group: first the refill of a unit as soon as it may be made, the lowest lane's first, unless refills
wait: then they come in any order, before or after what else may take place (R156; DESIGN CHOICE, log 89). -/
def Block.dueOf (b : Block) (d : GridDesc) (wait : Bool) (g : Group) : Option Due :=
  if !g.peersFree.isEmpty then some (.peers b.id g.num)
  else
    match (List.range 32).find? fun l => !wait && !(b.refillReady g d.unit l).isEmpty with
    | some l => some (.event (execRefillUnit ⟨b.id, g.num, l⟩))
    | none => b.converges g

/-- What is due in a block that stands on its cores; a stopped quadrant's groups stay as they are (R367). -/
def State.dueIn (s : State) (b : Block) : Option Due :=
  if !b.resident then none
  else
    match s.grid? b.grid with
    | none => none
    | some gr =>
      let ctx := gr.ctx
      match b.groups.findSome? fun g =>
          if g.retired || g.saved || s.frozen b ctx (b.rankOf g.num) (b.quadOf g.num) then none else b.dueOf gr.desc s.wq.refills g with
      | some d => some d
      | none => (b.ctls.find? fun c => c.uni.due && !s.frozen b ctx c.rank c.quad).map fun c => .event (execGtimerDeadline (.ctl b.id c.rank c.quad))

/-- When the instruction of some lanes that wait for a fill was issued. -/
def Group.issueOf (g : Group) (lanes : List Nat) : Nat := ((lanes.findSome? fun l => (g.thread? l).bind fun t => t.wait.fillIssue)).getD 0

/-- The accesses of a block whose fill has come and that may proceed, with their arrivals (R33), at either grade of a pre-emption
(R251). -/
def State.replaysIn (s : State) (b : Block) : List (Nat × Due) :=
  if !b.resident then []
  else
    let ctx := s.blockCtx b.id
    (b.groups.flatMap fun g =>
      if g.retired || g.saved || s.frozen b ctx (b.rankOf g.num) (b.quadOf g.num) then []
      else g.replays.map fun r => (r.1, Due.replay (.frag b.id g.num (maskOf r.2)) (g.issueOf r.2))) ++
    (b.ctls.filterMap fun c =>
      if s.frozen b ctx c.rank c.quad then none
      else c.wait.cameAt.map fun k => (k, Due.replay (.ctl b.id c.rank c.quad) (c.wait.fillIssue.getD 0)))

/-- The accesses that a fill has come for, the earliest to arrive first. -/
def State.replays (s : State) : List (Nat × Due) :=
  let ops := (s.ops.filter fun o => o.replay && s.opLive o).map fun o => (o.arrival, Due.replayOp o.id)
  sortBy (fun x y => decide (x.1 ≤ y.1)) (s.blocks.flatMap s.replaysIn ++ ops)

/-- The first convergence due, or access to be made again. -/
def State.due (s : State) : Option Due := (s.replays.head?.map (·.2)).orElse fun _ => s.blocks.findSome? s.dueIn

/-- The threads of an agent that stood at a fill stand at it no more. -/
def State.clearFill (s : State) (a : Agent) : State :=
  match a with
  | .frag b g m => s.modLanes b g (lanesOf m) fun _ t => { t with wait := .none }
  | .ctl b r q => s.modCtl b r q fun c => { c with wait := .none }
  | .none => s

/-- An access whose fill has come made by the threads that stood at it: their instruction was issued before, so it takes no issue
and stands behind no chain (R33). Where others of its fragment wait on, they wait for these. -/
def State.replayAccess (s : State) (a : Agent) (issue : Nat) : Host.Outcome State Fault Refusal :=
  let s0 := { s.clearFill a with cur := a }
  let dst := (({ s with cur := a } : State).who.bind fun w => w.wait.fillDst).getD (0, 0)
  let ends (t : State) : State :=
    match a with
    | .frag b g m =>
      let t1 := ({ t with cur := .none } : State).joinPeers b g (lanesOf m) issue
      if decide (0x44 ≤ dst.1) then t1.chainSees b g (dst.1 - 0x44) dst.2 fun c => decide (issue < c.seq) else t1
    | _ => { t with cur := .none }
  match s0.who with
  | none => .next s
  | some w =>
    match (s0.passClose (w.blk.id, w.rank)).fetch w.site w.pc with
    | (s1, .bad c) => .next (ends (s1.wordFault w c w.chain.isSome))
    | (s1, .word word) =>
      match decode word with
      | some i => onNext (exec i s1) ends
      | none => .next (ends (s1.wordFault w (badWord w.ctl.isSome word) (chainBit word)))

/-- It takes place. -/
def State.dueMove (s : State) (d : Due) : Host.Outcome State Fault Refusal :=
  match d with
  | .event f => onNext (f s) State.settle
  | .replay a i => onNext (s.replayAccess a i) State.settle
  | .peers b g =>
    match (s.block? b).bind (·.group? g) with
    | some x => .next (s.modLanes b g x.peersFree fun _ t => { t with wait := .none }).settle
    | none => .next s
  | .replayOp id =>
    let s1 := s.modOp id fun o => { o with replay := false }
    .next (((s1.copyStep id).mxStep id 1).accStep id 1).settle
  | .mismatch b g =>
    match (s.block? b).bind (·.group? g) with
    | some x => .next (s.mismatches b x).settle
    | none => .next s

-- The motions without a row of their own.

/-- A free frame given by the host: a whole aligned HBM page that is not already free. -/
def State.hostFrame (s : State) (die pa bits : Nat) : State :=
  if isHbm pa && hbmDie pa == die && decide (12 ≤ bits) && pa % 2 ^ bits == 0 &&
      s.freeFrames.all (fun f => decide (f.2.1 + 2 ^ f.2.2 ≤ pa) || decide (pa + 2 ^ bits ≤ f.2.1)) then s.giveFrame pa bits
  else s

/-- A clean line of an L1 replaced under pressure: a protected or a pending one is not (R76). -/
def State.evictL1 (s : State) (core i : Nat) : State :=
  s.modCoreHw core fun h =>
    if ((h.l1[i]?).map fun l => l.keep || l.dom.isSome).getD true then h else { h with l1 := h.l1.eraseIdx i }

/-- One transfer of an engine operation made, or, for a refinement run, what its operands hold noted, and its DONE carried on
(R131, R136, R297). -/
def State.advance (s : State) (op : Nat) : State := ((((s.copyStep op).mxStep op 1).accStep op 1).sampleRun op).doneStep op

/-- The accesses that are late take effect, and then the writes that wait, one at a time (R78). -/
def State.drainQueues (s : State) : State := if s.wq.late.isEmpty then s.serveNext else s.settleAllLate

/-- A motion without a row. -/
def State.motion (s : State) (m : Micro) : State :=
  match m with
  | .evictL1 c i => s.evictL1 c i
  | .evictIc c i => s.modCoreHw c fun h => { h with ic := h.ic.eraseIdx i }
  | .evictTlb c i => s.modCoreHw c fun h => { h with tlb := h.tlb.eraseIdx i }
  | .evictSlice c i => s.modCoreHw c fun h => { h with slice := h.slice.eraseIdx i }
  | .evictPtr c i => s.modCoreHw c fun h => { h with ptrs := h.ptrs.eraseIdx i }
  | .commitUnit t u => s.commitUnit t u
  | .writeBackSector x => s.writeBackSector x.block x.region x.granule
  | .closeStart b r => s.closeStart b r
  | .capacityClose b r => s.capacityClose true b r
  | .advance op => s.advance op
  | .loadAhead op => s.loadAhead op
  | .readOn op => s.readOn op
  | .readFirst op i => s.modOp op fun o => { o with partFirst := i }
  | .holdStores on => { s with wq := { s.wq with hold := on } }
  | .performStore i => s.performAt i
  | .lateAccesses on => { s with wq := { s.wq with slow := on } }
  | .performLate i => s.lateAt i
  | .lateRefills on => { s with wq := { s.wq with refills := on } }
  | .peerWrite a d => s.peerWrite a d
  | .policyStep k => s.policyStep k
  | .readAhead a k n => s.readAhead a k n
  | .foretell a k d => s.foretell a k d
  | .fetchL1 c x l => s.fetchL1 c x l
  | .copyPacket p => s.copyPacketStep p
  | .time n => s.cyclesPass n
  | .freeFrame d pa bits => s.hostFrame d pa bits
  | .profSelect f i e => s.nameEvent f i e
  | .peerPolicy l => { s.settleAllLate with peerDeny := l }
  | .fnReady fn => s.fnReady fn

-- The device's own events.

/-- The events an operation may be ready for. -/
def EngOp.turns (o : EngOp) : List Move :=
  match o.queue with
  | .copy => [execCopyComplete o.id]
  | .matrix => [execCopyComplete o.id, execMatrixOperationStart o.id, execMatrixOperationComplete o.id]
  | .acc => [execAccAllocGrant o.id, execAccumulatorOperationComplete o.id]
  | .region => [execRegionOperationComplete o.id]
  | .launch => [execLaunchSlotWrite o.id, execLaunchComplete o.id, execSignalComplete o.id]
  | .rfl =>
    [execRflSetupBind o.id, execRflInit o.id, execRflConvert o.id, execRflFactor o.id, execRflSolve o.id, execRflUpdate o.id,
      execRflResidual o.id, execRflTest o.id, execRflDone o.id]
  | .loop => [execLoopWalkPush o.id, execLoopWalkComplete o.id]

/-- The granules in motion of a block. -/
def Block.granuleTurns (b : Block) : List Move :=
  b.granules.flatMap fun x =>
    match (b.granule? x.1 x.2).map fun (y : Granule) => y.st with
    | some GrState.filling => [execGranuleFillComplete ⟨b.id, x.1, x.2⟩]
    | some GrState.writing => [execWriteBackComplete ⟨b.id, x.1, x.2⟩]
    | _ => []

/-- What a wait of an agent may be ready for. -/
def Wait.turns (w : Wait) (a : Agent) (t : Option ThreadRef) : List Move :=
  match w, t with
  | .waitc _ _, _ => [execWaitcSatisfied a]
  | .permit _, _ => [execStalledPushResume a]
  | .commit _, some t => [execVersionCommitComplete t]
  | .close, some t => [execPhaseCloseComplete t]
  | .fence, some t => [execFenceSysComplete t]
  | _, _ => []

/-- The refills of a block's units that wait for their turn. -/
def State.refillTurns (s : State) (b : Block) : List Move :=
  if !s.wq.refills then []
  else b.groups.flatMap fun g =>
    if s.frozen b (s.blockCtx b.id) (b.rankOf g.num) (b.quadOf g.num) then []
    else (List.range 32).filterMap fun l =>
      if ((g.thread? l).map fun t => t.st == .parked).getD false then some (execRefillUnit ⟨b.id, g.num, l⟩) else none

/-- The events of a block's threads and control threads, its save and its grace window. -/
def Block.turns (b : Block) : List Move :=
  let ofGroup (g : Group) : List Move :=
    (List.range 32).flatMap fun l =>
      match g.thread? l with
      | none => []
      | some t =>
        let same := (List.range 32).filter fun i => ((g.thread? i).map fun u => u.wait == t.wait && u.pc == t.pc).getD false
        let r : ThreadRef := ⟨b.id, g.num, l⟩
        t.wait.turns (.frag b.id g.num (maskOf same)) (some r)
  b.granuleTurns ++ b.groups.flatMap ofGroup ++ b.ctls.flatMap (fun c => c.wait.turns (.ctl b.id c.rank c.quad) none) ++
    if b.pre == .none then [] else execGraceWindowExpiry b.id :: b.groups.map fun g => execGroupSave ⟨b.id, g.num⟩

/-- The event that reads a packet or starts a node; any of them finds an invalid one. -/
def packetTurn (p : PktRef) (raw : List DWord) : Move :=
  match pktKind raw with
  | 1 => execLaunchGrid p
  | 2 => execCopyPacket p
  | 3 => execWaitPacket p
  | 4 => execSignalPacket p
  | 5 => execCondPacket p
  | 6 => execGraphPacket p
  | 8 => execInterruptPacket p
  | 9 => execMarkerPacket p
  | 10 => if pktBody raw 2 % 4 == 1 then execPreload p else execReplSync p
  | _ => execWaitPacket p

/-- The events of a queue: its next packet, its graphs' nodes, completions, waits, its thread. -/
def State.queueTurns (s : State) (q : Queue) : List Move :=
  let ring : List Move :=
    if q.reads && decide (q.ridx < q.widx) then
      match (s.qpRead q.ctx (q.slotVa q.ridx) 64).2 with
      | .ok bs => [packetTurn ⟨q.id, none⟩ (wordsOf bs)]
      | _ => [execWaitPacket ⟨q.id, none⟩]
    else []
  let nodes : List Move := q.graphs.flatMap fun g =>
    g.released.map (fun n => packetTurn ⟨q.id, some (g.index, n)⟩ (g.nodes.getD n [])) ++
      g.running.map fun r => execGraphNodeComplete q.id g.index r.node
  ring ++ nodes ++ (q.run.map fun r => execPacketCompletion q.id r.index) ++
    (if q.waiting.isSome || !q.waitNodes.isEmpty || q.statusBad then [execWaitWake q.id] else []) ++
    if !q.mapped && (q.state == .unmapped || q.state == .idle) then [execQueueMap q.id] else []

/-- The events of a cluster's dispatcher and policy engine. -/
def State.dispTurns (s : State) (k : Nat) : List Move :=
  let d := s.disp k
  let head : List Move :=
    match d.event? with
    | none => []
    | some e =>
      match e.point with
      | 0 => [execTregalEnqueue k e.grid]
      | 1 => [execTregalPick k]
      | 2 => [execTregalTick k]
      | 3 => [execTregalBlock k (((s.blocks.find? fun b => b.grid == e.grid).map (·.id)).getD s.nextId)]
      | 4 => [execTregalWake k e.grid e.arg]
      | _ => [execTregalMigrate k e.arg]
  head ++ (d.order.head?.toList.map fun g => execTryPlace k g) ++ (if s.tickDue k then [execTregalTick k] else []) ++
    if d.head.isSome then [execTsliceExpiry k] else []

/-- The events of the functions and of the quadrants' owners. -/
def State.fnTurns (s : State) : List Move :=
  (s.fns.flatMap fun f =>
    [execResetComplete f.1, execResetRungTimeout f.1] ++ (if f.2.tlbiRun.isEmpty then [] else [execTlbiComplete f.1]) ++
      (f.2.unsent.map fun v => execInterruptMessage f.1 v.1) ++
      if f.2.stage == 4 then [fun s => .next (s.fnReady f.1)] else []) ++
    s.quads.filterMap fun q => q.2.wanted.map fun _ => execQownChange q.1

/-- The events of the stack controllers: the first burst each has still to count, and the ends of their intervals. -/
def State.sketchTurns (s : State) : List Move :=
  (s.sketches.flatMap fun k => (k.2.waiting.head?.toList.map fun b => execSketchCountBurst k.1 b.1 b.2)) ++
    ((List.range 12).filter s.sketchDue).map fun k => execSketchIntervalClose k

/-- Every event the device may be ready for, in the model's default order (log 2). -/
def State.deviceTurns (s : State) : List Move :=
  (if s.wq.stores.isEmpty && s.wq.late.isEmpty then [] else [fun s => .next s.drainQueues]) ++ s.ops.flatMap EngOp.turns ++
    s.blocks.flatMap (fun b => b.turns ++ s.refillTurns b) ++ (sortBy (fun x y => decide (x.served ≤ y.served)) s.queues).flatMap s.queueTurns ++
    (s.grids.filter (·.lease == .resolving)).map (fun g => execLeaseGrant g.id) ++ (List.range 16).flatMap s.dispTurns ++
    s.fnTurns ++ s.sketchTurns ++
    s.ctxs.map fun c => execWaitCycleTimeout c.1

/-- What tells whether an event did anything: counters aside, and memory, which no event changes alone. -/
def State.still (s : State) : State := { s with mem := [], seq := 0, fresh := 0 }

/-- Whether an event did anything but count. -/
def State.moved (s t : State) : Bool := s.still != t.still

/-- The first of some events that changes the machine. -/
def State.firstTurn (s : State) : List Move → Option State
  | [] => none
  | f :: r =>
    match f s with
    | .next t => if s.moved t then some t.settle else s.firstTurn r
    | _ => s.firstTurn r

-- The oldest eligible agent (R254, R325).

/-- An eligible agent: whether its word is a uniform one, its quadrant, its age, its slot and its lowest lane. -/
structure Cand where
  agent : Agent
  uni : Bool
  phys : Nat
  age : Nat
  slot : Nat
  lane : Nat

/-- The word an agent's fetch gives; none where it faults. -/
def State.fetches (s : State) (w : Who) : Option Nat :=
  match (s.fetch w.site w.pc).2 with
  | .word x => some x
  | .bad _ => none

/-- When any of some threads last issued on a port. -/
def lastOf (ts : List (Option Nat)) : Option Nat :=
  ts.foldl (fun (m : Option Nat) t =>
    match m, t with
    | some a, some b => some (max a b)
    | some a, none => some a
    | none, t => t) none

/-- The candidate that an agent is; none where its word names a register that a fill has still to write (R325). -/
def State.cand (s : State) (a : Agent) : Option Cand :=
  (s.ready a).bind fun a' => (State.who { s with cur := a' }).bind fun (w : Who) =>
    let phys := quadNo w.core (s.physQuad w.core (s.ctxFn w.ctx) w.quad)
    let word := s.fetches w
    let uni := (word.map fun x => decide (2 ^ 31 ≤ x)).getD false
    if (word.map w.fillHolds).getD false then none
    else
      match w.grp, w.ctl with
      | some g, _ =>
        let last := lastOf (w.threads.map fun t => if uni then t.2.lastUni else t.2.lastLane)
        some ⟨a', uni, phys, ageOf s.cycle g.placedAt last, g.slot, w.lanes.headD 0⟩
      | none, some c => some ⟨a', true, phys, ageOf s.cycle c.placedAt c.lastUni, 0, 0⟩
      | none, none => some ⟨a', true, phys, 0, 0, 0⟩

/-- Every eligible agent, each fragment once. -/
def State.cands (s : State) : List Cand :=
  s.blocks.flatMap fun b =>
    if !b.resident then []
    else
      (b.ctls.filterMap fun c => s.cand (.ctl b.id c.rank c.quad)) ++
        b.groups.flatMap fun g =>
          g.fronts.filterMap fun l => s.cand (.frag b.id g.num (maskOf [l]))

/-- The rule of a port: greater age, then the lower slot, then the lower lane. -/
def Cand.before (x y : Cand) : Bool :=
  decide (y.age < x.age) || (x.age == y.age && (decide (x.slot < y.slot) || (x.slot == y.slot && decide (x.lane < y.lane))))

/-- Whether a candidate is a control thread. -/
def Cand.isCtl (c : Cand) : Bool :=
  match c.agent with
  | .ctl _ _ _ => true
  | _ => false

/-- The lowest thread of a candidate that is a fragment. -/
def Cand.thread (c : Cand) : Option ThreadRef :=
  match c.agent with
  | .frag b g _ => some ⟨b, g, c.lane⟩
  | _ => none

/-- The cycles for which a control thread has passed a candidate's uniform instruction. -/
def State.passedFor (s : State) (c : Cand) : Nat :=
  ((c.thread.bind fun t => (s.quadHw c.phys).passed.find? (·.1 == t)).map (·.2)).getD 0

/-- The candidates of a quadrant's uniform port that are groups'. -/
def uniGroups (cs : List Cand) (phys : Nat) : List Cand := cs.filter fun d => d.uni && !d.isCtl && d.phys == phys

/-- The candidate that goes first; on a uniform port a control thread goes ahead of the groups, but for one whose instruction has
been eligible for 3 cycles (R254). -/
def State.pickCand (s : State) (cs : List Cand) : Option Cand :=
  let first (cs : List Cand) : Option Cand := cs.foldl (fun (m : Option Cand) c =>
    match m with
    | none => some c
    | some d => if c.before d then some c else some d) none
  (first cs).map fun c =>
    if !c.uni then c
    else
      match first ((uniGroups cs c.phys).filter fun d => decide (3 ≤ s.passedFor d)) with
      | some d => d
      | none => ((cs.find? fun d => d.isCtl && d.phys == c.phys)).getD c

/-- What a uniform port's choice leaves: the groups' instructions it passed have waited one cycle more. -/
def State.notePassed (s : State) (cs : List Cand) (c : Cand) : State :=
  let left := (uniGroups cs c.phys).filter fun d => d.agent != c.agent
  if !c.uni || (left.isEmpty && (s.quadHw c.phys).passed.isEmpty) then s
  else
    s.modQuadHw c.phys fun h => { h with passed := left.filterMap fun d => d.thread.map fun t => (t, s.passedFor d + 1) }

-- The move.

/-- What the device does by itself: an event, an issue, or a cycle. -/
def State.ownMove (s : State) : Host.Outcome State Fault Refusal :=
  match s.firstTurn s.deviceTurns with
  | some t => .next t
  | none =>
    let cs := s.cands
    match s.pickCand cs with
    | some c => (s.notePassed cs c).issueReady 1 c.agent
    | none => .next (s.cyclesPass 1)

/-- One move of the machine; none where the agenda has named no execution (log 76). -/
def State.move (s : State) : Host.Outcome State Fault Refusal :=
  if s.wq.void then .next s
  else
  match s.due with
  | some d => s.dueMove d
  | none =>
    match s.agenda with
    | .issue a :: r => { s with agenda := r }.issueTurn a
    | .event i :: r => onNext (exec i { s with agenda := r }) State.settle
    | .micro m :: r => .next ({ s with agenda := r }.motion m).settle
    | [] => s.ownMove

-- Placing a word.

/-- The agent whose word a move fetches next, none where the next move is no issue or another agent's chain would issue. -/
def State.nextIssuer (s : State) : Option Who :=
  if s.wq.void || !s.wq.late.isEmpty || !s.wq.opens.isEmpty || s.wq.stores.any (·.point) then none
  else
  match s.due, s.agenda with
  | none, .issue a :: _ =>
    (s.ready a).bind fun a' => (State.who { s with cur := a' }).bind fun (w : Who) =>
      if w.dueFlags.isEmpty && (s.pipeHeld w).isNone && !w.fillsUni then some w else none
  | _, _ => none

/-- s with a word at the place the next fetch reads (see `State.withFetchWord`). -/
def State.placeWord (s : State) (w : Nat) : State :=
  let ctl := ((decode w).map ctlOnly).getD false
  match s.nextIssuer.bind s.fetchPlace with
  | some k => s.putWord k w
  | none => (s.bootOver ctl).putWord 0x20040 w

end Sys2Proof.Machine
end

