-- ==== Sys2Proof/Machine/Step.lean ====
section
/-!
DEFINITION. One step of the machine, and where a test word is stored so that the next step fetches it.
-/
namespace Sys2Proof.Machine

/-- One step: the next move, whoever makes it. -/
def step (s : State) : Host.Outcome State Fault Refusal := s.move

/-- s with the word w stored where the next step fetches its instruction. Where no agent is about to issue (at reset
nothing is resident: programs come through a queue, a lease and a placement), the smallest resident block stands in
for that load (log 3). -/
def State.withFetchWord (s : State) (_nbits w : Nat) : State := s.placeWord w

end Sys2Proof.Machine
end

