-- ==== Sys2Proof/Safety.lean ====
section
/-!
DEFINITION. The terms in which statements about the machine are made: who issues and with what, what an instruction may
change, and what a well-kept state is.
-/
namespace Sys2Proof.Machine

/-- Group g of block b as the state holds it. -/
def State.group? (s : State) (b g : Nat) : Option Group := (s.block? b).bind (·.group? g)

/-- The control thread of a pair as the state holds it. -/
def State.ctl? (s : State) (b rank quad : Nat) : Option Ctl := (s.block? b).bind (·.ctl? rank quad)

/-- A fragment issues with no chain in progress and no poisoned register anywhere (R80, R186). -/
structure Issues (s : State) (w : Who) (g : Group) : Prop where
  who : s.who = some w
  grp : w.grp = some g
  chain : g.chain = none
  clean : s.regPoison = []

/-- An agent issues a uniform word with no chain in progress and no poisoned register: a fragment or a control thread
(R145, R150). -/
structure IssuesUni (s : State) (w : Who) : Prop where
  who : s.who = some w
  chain : w.chain = none
  clean : s.regPoison = []

/-- The two states differ at most in one group: every other block, group, control thread and pair, all of memory and
every other field are as they were. -/
structure OnlyGroup (s t : State) (b g : Nat) : Prop where
  fields : t = { s with blocks := t.blocks }
  mem : ∀ a, memGet t.mem a = memGet s.mem a
  blocks : ∀ b', b' ≠ b → t.block? b' = s.block? b'
  shell : (t.block? b).map (fun x => { x with groups := [] }) = (s.block? b).map (fun x => { x with groups := [] })
  groups : ∀ g', g' ≠ g → t.group? b g' = s.group? b g'

/-- The two states differ at most in one control thread. -/
structure OnlyCtl (s t : State) (b rank quad : Nat) : Prop where
  fields : t = { s with blocks := t.blocks }
  mem : ∀ a, memGet t.mem a = memGet s.mem a
  blocks : ∀ b', b' ≠ b → t.block? b' = s.block? b'
  shell : (t.block? b).map (fun x => { x with ctls := [] }) = (s.block? b).map (fun x => { x with ctls := [] })
  ctls : ∀ r q, (r, q) ≠ (rank, quad) → t.ctl? b r q = s.ctl? b r q

/-- The issuer goes on at `pc` with uniform state `u`, and nothing else changes. -/
def OnlyIssuer (s t : State) (w : Who) (u : Uni) (pc : Nat) : Prop :=
  match w.grp, w.ctl with
  | some g, _ =>
    OnlyGroup s t w.blk.id g.num ∧
      t.group? w.blk.id g.num = some { g.modLanes w.lanes (fun _ th => { th with pc := pc }) with uni := u }
  | none, some c =>
    OnlyCtl s t w.blk.id c.rank c.quad ∧ t.ctl? w.blk.id c.rank c.quad = some { c with pc := pc, uni := u }
  | none, none => False

/-- The pair of a block's member and logical quadrant as the state holds it. -/
def State.pair? (s : State) (b rank quad : Nat) : Option Pair := (s.block? b).bind (·.pair? rank quad)

/-- The two states differ at most in one block, and in the counter of instants. -/
def OnlyBlock (s t : State) (b : Nat) : Prop :=
  t = { s with blocks := t.blocks, seq := t.seq } ∧ ∀ b', b' ≠ b → t.block? b' = s.block? b'

/-- The issuer stands at `pc`, waiting for x, with uniform state u. -/
def Stands (t : State) (w : Who) (pc : Nat) (x : Wait) (u : Uni) : Prop :=
  match w.grp, w.ctl with
  | some g, _ =>
    t.group? w.blk.id g.num = some { g.modLanes w.lanes (fun _ th => { th with pc := pc, wait := x }) with uni := u }
  | none, some c => t.ctl? w.blk.id c.rank c.quad = some { c with pc := pc, wait := x, uni := u }
  | none, none => False

/-- The issuer waits for x at its instruction, and nothing else changes. -/
def WaitsFor (s t : State) (w : Who) (x : Wait) : Prop :=
  match w.grp, w.ctl with
  | some g, _ =>
    OnlyGroup s t w.blk.id g.num ∧
      t.group? w.blk.id g.num = some (g.modLanes w.lanes fun _ th => { th with wait := x })
  | none, some c =>
    OnlyCtl s t w.blk.id c.rank c.quad ∧ t.ctl? w.blk.id c.rank c.quad = some { c with wait := x }
  | none, none => False

/-- A per-lane source of n words that may be named and is no latch (R146, R169, R187). -/
def Who.mayRead (w : Who) (x : BitVec 7) (n : Nat) : Prop :=
  srcOk w.grid.desc x.toNat n = true ∧ (x.toNat < 0x40 ∨ 0x44 ≤ x.toNat)

/-- A vector register, pair or quad that may be named (R146, R169). -/
def Who.mayName (w : Who) (d : BitVec 6) (n : Nat) : Prop := vOk w.grid.desc d.toNat n = true

/-- A 7-bit source that may be named at n words and, if it is a latch, was written by an earlier member of the chain (R146,
R187). -/
def Who.reads (w : Who) (x : BitVec 7) (n : Nat) : Prop :=
  srcOk w.grid.desc x.toNat n = true ∧ staleSrc w.chain x.toNat = false

/-- A computing per-lane word as a chain's member (R186): the word with its h, w and guard, what it asks of its operands, what its
destination holds, that destination written, and the value and flags of a lane whose guard holds. -/
structure Member where
  word : Instr
  h : Bool
  w : Bool
  g : BitVec 3
  ok : Who → Prop
  held : Thread → DWord
  put : Thread → DWord → Thread
  value : Who → Nat → Thread → DWord
  flags : Who → Nat → Thread → Word

/-- A thread after the member's write, whose value and guard are those of `th` (R185, R186). -/
def Member.write (m : Member) (w : Who) (l : Nat) (th th' : Thread) : Thread :=
  if !m.w && th.guard m.g then m.put th' (m.value w l th) else th'

/-- A thread with the writes of a chain's earlier members. -/
def Thread.soFar (c : Option Chain) (l : Nat) (th : Thread) : Thread :=
  match c with
  | some c => { th with v := applyV l c.vw th.v, p := applyP l c.pw th.p }
  | none => th

/-- Vector registers with consecutive ones written from d on. -/
def setRegs (v : List Word) (d : Nat) : List Word → List Word
  | [] => v
  | x :: xs => setRegs (v.set d x) (d + 1) xs

/-- A thread with v(d) written. -/
def Thread.put (t : Thread) (d : BitVec 6) (r : Word) : Thread := { t with v := t.v.set d.toNat r }

/-- A thread with the pair that begins at v(d) written, its low half in the even register (R169). -/
def Thread.putPair (t : Thread) (d : BitVec 6) (r : DWord) : Thread :=
  { t with v := (t.v.set d.toNat (r.extractLsb' 0 32)).set (d.toNat + 1) (r.extractLsb' 32 32) }

/-- Predicates with p(i) written. -/
def setPred (p : BitVec 8) (i : Nat) (b : Bool) : BitVec 8 :=
  if b then p ||| BitVec.ofNat 8 (2 ^ i) else p &&& ~~~(BitVec.ofNat 8 (2 ^ i))

/-- A thread with p(i) written. -/
def Thread.putPred (t : Thread) (i : BitVec 3) (b : Bool) : Thread := { t with p := setPred t.p i.toNat b }

/-- The program counter after a word that does not jump. -/
def Who.next (w : Who) : Nat := (w.pc + 4) % 2 ^ 56

/-- The 32-bit word whose bytes are given by offset, the lowest first (R2). -/
def wordOf (b : Nat → Byte) (i : Nat) : Word := (b (i + 3) ++ b (i + 2) ++ b (i + 1) ++ b i : BitVec (8 + 8 + 8 + 8))

/-- The byte of a store at offset i: registers from v(d) on, each lowest byte first (R2, R228). -/
def Thread.byteOf (t : Thread) (d : BitVec 6) (i : Nat) : Byte := (t.vget (d.toNat + i / 4)).extractLsb' (8 * (i % 4)) 8

/-- The place in the one memory of a buffer or mailbox pointer, as accesses compute it (R13, R14, R18, R29). -/
def State.bufKey (s : State) (w : Who) (group lane : Nat) (p : DWord) : Nat :=
  match (s.place w.site (group, lane) p).2 with
  | .ok (.buf k) => k
  | _ => 0

/-- The place of a CB container, as accesses compute it (R14, R21). -/
def State.cellPlace (s : State) (w : Who) (group lane : Nat) (p : DWord) : Nat :=
  match (s.place w.site (group, lane) p).2 with
  | .ok (.cell k) => k
  | _ => 0

/-- A pointer into AB, WB, CLS or the mailbox whose access passes every check (R8, R10). -/
def State.bufferOk (s : State) (w : Who) (e : Eng) (op : Acc) (n : Nat) (p : DWord) : Prop :=
  s.checkAccess w.site e op p n = none ∧ (ptrSpace p = 1 ∨ ptrSpace p = 2 ∨ ptrSpace p = 4 ∨ ptrSpace p = 5)

/-- The lanes of a fragment whose guard holds, with their threads (R185). -/
def Who.on (w : Who) (g : BitVec 3) : List (Nat × Thread) := w.threads.filter fun p => p.2.guard g

/-- All the flags some lanes raise (R111). -/
def orFlags (ls : List (Nat × Thread)) (f : Nat → Thread → Word) : Word :=
  ls.foldl (fun a p => a ||| f p.1 p.2) 0

/-- `i` completes: each lane of the fragment becomes what `f` makes of it and stands at the next word, GFLAGS gains the
flags, and nothing else changes. -/
def LaneEffect (i : Instr) (s : State) (w : Who) (g : Group) (f : Nat → Thread → Thread) (flags : Word) : Prop :=
  ∃ t, exec i s = .next t ∧ OnlyGroup s t w.blk.id g.num ∧
    t.group? w.blk.id g.num =
      some { g.modLanes w.lanes (fun l th => { f l th with pc := w.next }) with uni := g.uni.merge flags }

/-- `i` completes: the issuer goes on at `pc` with uniform state `u`, and nothing else changes. -/
def UniEffect (i : Instr) (s : State) (w : Who) (u : Uni) (pc : Nat) : Prop :=
  ∃ t, exec i s = .next t ∧ OnlyIssuer s t w u pc

/-- The uniform state after a join of some completions: the flags of those not joined before are merged, once (R248). -/
def Uni.after (u v : Uni) (js : List DoneOp) : Uni :=
  let fresh := js.filter fun d => !u.joined.contains d.id
  { v.merge (fresh.foldl (fun a d => a ||| d.flags) 0) with joined := u.joined ++ fresh.map (·.id) }

/-- The completions that a join of the issuer's pair observes (R248, R276). -/
def State.observed (s : State) (w : Who) (sel : DoneOp → Bool) : List DoneOp :=
  joined (((s.pair? w.blk.id w.rank w.quad).map (·.log)).getD []) sel

/-- The fault a join raises, none for a clean one (R257). -/
def State.joinRaises (s : State) (w : Who) (sel : DoneOp → Bool) : Option (Cause × DWord) :=
  joinFault (s.observed w sel) ((s.observed w sel).filter fun d => !w.uni.joined.contains d.id) w.uni.te (BitVec.ofNat 64 w.pc)

/-- Operation o completes with a status (R130, R256, R258): it leaves its queue, the counter its tag names goes up by one,
the pair's joins see it, and unless it is quiet a record of its kind, status and tag is posted with the pair's SEQ. -/
structure Completes (s t : State) (o : EngOp) (status : Nat) : Prop where
  gone : t.ops = s.ops.filter (·.id != o.id)
  pair : ∀ p, s.pair? o.block o.rank o.quad = some p → ∃ p', t.pair? o.block o.rank o.quad = some p' ∧
    p'.k = p.k.set (o.tag / 32) (p.k.getD (o.tag / 32) 0 + 1) ∧
    (∃ d, p'.log = p.log ++ [d] ∧ d.id = o.id ∧ d.counter = o.tag / 32 ∧ d.status = status) ∧
    (o.quiet = true → p'.evq = p.evq ∧ p'.seq = p.seq) ∧
    (o.quiet = false → p'.seq = p.seq + 1 ∧ ∃ mid,
      p'.evq = (if 256 ≤ p.evq.length then p.evq.drop 1 else p.evq) ++
        [(o.id, eventRecord o.queue.kindCode o.quad o.tag status o.walk.isSome p.seq mid o.flags)])

end Sys2Proof.Machine
end

