-- ==== Sys2Proof/Certificates/Slice0/Obligations.lean ====
section
/-!
DEFINITION. The obligations: what the model must do, stated from the numbered rules of the spec. Each docstring names the
rules it formalises. `LaneEffect` and `UniEffect` (Safety.lean) say that exec ANSWERS a next state and that nothing but what
is named changes, memory among the rest.
-/
open Sys2Proof Sys2Proof.Machine

-- Integer, address and immediate instructions of the per-lane set.

/-- The 32-bit LR integer instructions and what each makes of a, b and d (R200): the product's high half by widening both
operands, a shift by the low five bits of b. -/
def Sys2Proof.Machine.alu32 : List ((LR → Instr) × (Word → Word → Word → Word)) :=
  [(.iadd, fun a b _ => a + b), (.isub, fun a b _ => a - b), (.imul, fun a b _ => a * b),
   (.imulh, fun a b _ => ((a.signExtend 64 * b.signExtend 64) >>> 32).setWidth 32),
   (.imulhu, fun a b _ => ((a.setWidth 64 * b.setWidth 64) >>> 32).setWidth 32),
   (.imad, fun a b d => a * b + d), (.and, fun a b _ => a &&& b), (.or, fun a b _ => a ||| b),
   (.xor, fun a b _ => a ^^^ b), (.shl, fun a b _ => a <<< (b &&& 31)), (.shr, fun a b _ => a >>> (b &&& 31)),
   (.sar, fun a b _ => a.sshiftRight' (b &&& 31)), (.imin, fun a b _ => if b.slt a then b else a),
   (.imax, fun a b _ => if b.slt a then a else b), (.umin, fun a b _ => if b.ult a then b else a),
   (.umax, fun a b _ => if b.ult a then a else b)]

/-- R200: outside a chain, each of the sixteen 32-bit integer instructions writes its value to v(d) in every lane whose guard
holds, unless write-back is suppressed; it raises no flag, and every other register, lane, group and byte keeps its value. -/
def Obligations.IntegerResults : Prop :=
  ∀ p ∈ alu32, ∀ (x : LR) (s : State) (w : Who) (g : Group), Issues s w g → x.h = false →
    w.mayRead x.a 1 → w.mayRead x.b 1 → w.mayName x.d 1 →
    LaneEffect (p.1 x) s w g (fun l th =>
      if !x.w && th.guard x.g then
        th.put x.d (p.2 (readSrc32 w l th x.a.toNat) (readSrc32 w l th x.b.toNat) (th.vget x.d.toNat))
      else th) 0

/-- The 64-bit LR integer instructions (R200, R201): PADD keeps bits 63:56 of the pointer and wraps its offset at 2^56. -/
def Sys2Proof.Machine.alu64 : List ((LR → Instr) × (DWord → DWord → DWord)) :=
  [(.iadd64, fun a b => a + b),
   (.padd, fun a b => (a.extractLsb' 56 8 ++ (a + b).extractLsb' 0 56 : BitVec (8 + 56)))]

/-- R200 IADD64 and R201 PADD: the sum of two pairs, low half in v(d) and high half in v(d + 1). -/
def Obligations.PairResults : Prop :=
  ∀ p ∈ alu64, ∀ (x : LR) (s : State) (w : Who) (g : Group), Issues s w g → x.h = false →
    w.mayRead x.a 2 → w.mayRead x.b 2 → w.mayName x.d 2 →
    LaneEffect (p.1 x) s w g (fun l th =>
      let r := p.2 (readSrc64 w l th x.a.toNat) (readSrc64 w l th x.b.toNat)
      if !x.w && th.guard x.g then
        th.putPair x.d r
      else th) 0

/-- R203 SEL: never guarded; every lane of the fragment writes a where p(g) is true and b where it is false. R202: MOVI
sign-extends its immediate, MOVHI writes the upper half and keeps the lower, IADDI adds a sign-extended immediate, and SHI
shifts or rotates by its amount as its kind says (R176). -/
def Obligations.SelectAndImmediates : Prop :=
  (∀ (x : LR) (s : State) (w : Who) (g : Group), Issues s w g → x.h = false →
    w.mayRead x.a 1 → w.mayRead x.b 1 → w.mayName x.d 1 →
    LaneEffect (.sel x) s w g (fun l th =>
      if x.w then th
      else
        th.put x.d (if th.pget x.g.toNat then readSrc32 w l th x.a.toNat else readSrc32 w l th x.b.toNat)) 0) ∧
  (∀ (s : State) (w : Who) (g : Group), Issues s w g →
    (∀ x : LW, w.mayName x.d 1 →
      LaneEffect (.movi x) s w g (fun _ th =>
        if th.guard x.g then th.put x.d (x.i.signExtend 32) else th) 0) ∧
    (∀ x : LW, w.mayName x.d 1 →
      LaneEffect (.movhi x) s w g (fun _ th =>
        if th.guard x.g then
          th.put x.d ((x.i.setWidth 32 <<< 16) ||| (th.vget x.d.toNat &&& 0xFFFF))
        else th) 0) ∧
    (∀ x : LI, w.mayRead x.a 1 → w.mayName x.d 1 →
      LaneEffect (.iaddi x) s w g (fun l th =>
        if th.guard x.g then
          th.put x.d (readSrc32 w l th x.a.toNat + x.i.signExtend 32)
        else th) 0) ∧
    (∀ x : ShI, w.mayRead x.a 1 → w.mayName x.d 1 →
      LaneEffect (.shi x) s w g (fun l th =>
        let a := readSrc32 w l th x.a.toNat
        if th.guard x.g then
          th.put x.d
            (if x.k = 0 then a <<< x.n else if x.k = 1 then a >>> x.n else if x.k = 2 then a.sshiftRight' x.n
             else a.rotateLeft x.n.toNat)
        else th) 0))

/-- The integer conditions of R171. -/
def Sys2Proof.Machine.cond32 (k : BitVec 3) (a b : Word) : Bool :=
  if k = 0 then a == b else if k = 1 then a != b else if k = 2 then a.slt b else if k = 3 then a.sle b
  else if k = 4 then b.slt a else if k = 5 then b.sle a else if k = 6 then a.ult b else a.ule b

/-- The predicate operations of R172. -/
def Sys2Proof.Machine.logic (o : BitVec 3) (x y : Bool) : Bool :=
  if o = 0 then x && y else if o = 1 then x || y else if o = 2 then x ^^ y else if o = 3 then x && !y
  else if o = 4 then x || !y else if o = 5 then !x else if o = 6 then true else false

/-- The integer unary functions of R209, each bit of the reversal and each count said for itself. -/
def Sys2Proof.Machine.unary32 : List ((Un → Instr) × (Word → Word → Prop)) :=
  [(.xuPopc, fun a r => r.toNat = ((List.range 32).filter fun i => a.getLsbD i).length),
   (.xuClz, fun a r => r.toNat ≤ 32 ∧ (∀ i, 32 - r.toNat ≤ i → i < 32 → a.getLsbD i = false) ∧
     (r.toNat < 32 → a.getLsbD (31 - r.toNat) = true)),
   (.xuBrev, fun a r => ∀ i, i < 32 → r.getLsbD i = a.getLsbD (31 - i)),
   (.xuIneg, fun a r => r = -a),
   (.xuIabs, fun a r => r = if a.slt 0 then -a else a)]

/-- R207 ICMP and R208 PLOP: the predicate p(d) of every lane whose guard holds takes the condition, or the combination of
two predicates where 0 names true; no vector register changes. R209 POPC, CLZ, BREV, INEG, IABS: what v(d) holds after,
for each lane whose guard holds. -/
def Obligations.PredicateAndUnaryResults : Prop :=
  (∀ (s : State) (w : Who) (g : Group), Issues s w g →
    (∀ x : Cmp, x.p ≠ 0 → x.h = false → w.mayRead x.a 1 → w.mayRead x.b 1 →
      LaneEffect (.icmp x) s w g (fun l th =>
        if !x.w && th.guard x.g then
          th.putPred x.p (cond32 x.k (readSrc32 w l th x.a.toNat) (readSrc32 w l th x.b.toNat))
        else th) 0) ∧
    (∀ x : Plop, x.p ≠ 0 → x.h = false →
      LaneEffect (.plop x) s w g (fun _ th =>
        if !x.w && th.guard x.g then
          th.putPred x.p (logic x.o (th.pget x.x.toNat) (th.pget x.y.toNat))
        else th) 0)) ∧
  (∀ p ∈ unary32, ∃ f : Word → Word, (∀ a, p.2 a (f a)) ∧
    ∀ (x : Un) (s : State) (w : Who) (g : Group), Issues s w g → x.h = false → w.mayRead x.a 1 → w.mayName x.d 1 →
      LaneEffect (p.1 x) s w g (fun l th =>
        if !x.w && th.guard x.g then th.put x.d (f (readSrc32 w l th x.a.toNat)) else th) 0)

-- Floating-point arithmetic, compares, unary functions and conversions.

/-- The FP32 LR instructions with the arithmetic of Numerics.lean (R204, R205). -/
def Sys2Proof.Machine.fp32 : List ((LR → Instr) × (FCtl → Nat → Nat → Nat → FRes)) :=
  [(.fadd, fun c a b _ => fmtF32.add c a b), (.fmul, fun c a b _ => fmtF32.mul c a b),
   (.ffma, fun c a b d => fmtF32.fma c a b d), (.fmin, fun c a b _ => fmtF32.minMax false c a b),
   (.fmax, fun c a b _ => fmtF32.minMax true c a b)]

/-- The FP64 LR instructions (R204). -/
def Sys2Proof.Machine.fp64 : List ((LR → Instr) × (FCtl → Nat → Nat → Nat → FRes)) :=
  [(.dadd, fun c a b _ => fmtF64.add c a b), (.dmul, fun c a b _ => fmtF64.mul c a b),
   (.dfma, fun c a b d => fmtF64.fma c a b d)]

/-- R111, R199, R204, R205: with no enabled flag raised, FADD to DFMA write their one rounded value in each lane whose
guard holds, under the group's FRM and FTZ, and GFLAGS gains the flags of all those lanes. R206 DTSUM: the sum in pair d
and the exact error in pair d + 2, whatever FRM and FTZ hold. -/
def Obligations.FloatResults : Prop :=
  (∀ (x : LR) (s : State) (w : Who) (g : Group), Issues s w g → x.h = false →
    (∀ p ∈ fp32, w.mayRead x.a 1 → w.mayRead x.b 1 → w.mayName x.d 1 →
      let f := fun l th => p.2 (FCtl.ofGctl w.uni.gctl) (readSrc32 w l th x.a.toNat).toNat
        (readSrc32 w l th x.b.toNat).toNat (th.vget x.d.toNat).toNat
      (∀ q ∈ w.on x.g, (f q.1 q.2).flags &&& w.uni.te = 0) →
      LaneEffect (p.1 x) s w g
        (fun l th => if !x.w && th.guard x.g then th.put x.d (BitVec.ofNat 32 (f l th).val) else th)
        (orFlags (w.on x.g) fun l th => (f l th).flags)) ∧
    (∀ p ∈ fp64, w.mayRead x.a 2 → w.mayRead x.b 2 → w.mayName x.d 2 →
      let f := fun l th => p.2 (FCtl.ofGctl w.uni.gctl) (readSrc64 w l th x.a.toNat).toNat
        (readSrc64 w l th x.b.toNat).toNat (th.vpair x.d.toNat).toNat
      (∀ q ∈ w.on x.g, (f q.1 q.2).flags &&& w.uni.te = 0) →
      LaneEffect (p.1 x) s w g
        (fun l th => if !x.w && th.guard x.g then th.putPair x.d (BitVec.ofNat 64 (f l th).val) else th)
        (orFlags (w.on x.g) fun l th => (f l th).flags))) ∧
  (∀ (x : LRq) (s : State) (w : Who) (g : Group), Issues s w g → x.h = false →
    w.mayRead x.a 2 → w.mayRead x.b 2 → w.mayName x.d 4 →
    let f := fun l th => dtsum (readSrc64 w l th x.a.toNat).toNat (readSrc64 w l th x.b.toNat).toNat
    (∀ q ∈ w.on x.g, (f q.1 q.2).2.2 &&& w.uni.te = 0) →
    LaneEffect (.dtsum x) s w g
      (fun l th =>
        if th.guard x.g then
          (th.putPair x.d (BitVec.ofNat 64 (f l th).1)).putPair (x.d + 2) (BitVec.ofNat 64 (f l th).2.1)
        else th)
      (orFlags (w.on x.g) fun l th => (f l th).2.2))

/-- R207 FCMP and DCMP: p(d) of each lane whose guard holds takes the condition on the operands as FTZ reads them. R207: a
NaN operand makes EQ, LT, LE, GT, GE and ORD false, and NE and UN true; −0 equals +0; EQ, NE, UN and ORD raise NV only for
a signalling NaN, LT, LE, GT and GE for any NaN. -/
def Obligations.FloatCompareResults : Prop :=
  (∀ (x : Cmp) (s : State) (w : Who) (g : Group), Issues s w g → x.h = false → x.p ≠ 0 →
    (w.mayRead x.a 1 → w.mayRead x.b 1 →
      let f := fun l th => fmtF32.compare (FCtl.ofGctl w.uni.gctl) x.k.toNat (readSrc32 w l th x.a.toNat).toNat
        (readSrc32 w l th x.b.toNat).toNat
      (∀ q ∈ w.on x.g, (f q.1 q.2).2 &&& w.uni.te = 0) →
      LaneEffect (.fcmp x) s w g (fun l th => if !x.w && th.guard x.g then th.putPred x.p (f l th).1 else th)
        (orFlags (w.on x.g) fun l th => (f l th).2)) ∧
    (w.mayRead x.a 2 → w.mayRead x.b 2 →
      let f := fun l th => fmtF64.compare (FCtl.ofGctl w.uni.gctl) x.k.toNat (readSrc64 w l th x.a.toNat).toNat
        (readSrc64 w l th x.b.toNat).toNat
      (∀ q ∈ w.on x.g, (f q.1 q.2).2 &&& w.uni.te = 0) →
      LaneEffect (.dcmp x) s w g (fun l th => if !x.w && th.guard x.g then th.putPred x.p (f l th).1 else th)
        (orFlags (w.on x.g) fun l th => (f l th).2))) ∧
  (∀ f ∈ [fmtF32, fmtF64], ∀ (c : FCtl) (a b : Nat),
    ((f.value a).isNan ∨ (f.value b).isNan →
      ∀ k, (f.compare c k a b).1 = (k == 1 || k == 6)) ∧
    ((f.value a).isNan ∨ (f.value b).isNan → ∀ k ∈ [2, 3, 4, 5], (f.compare c k a b).2 = flNV) ∧
    (∀ k ∈ [0, 1, 6, 7], (f.compare c k a b).2 =
      if (f.value a).isSNan || (f.value b).isSNan then flNV else 0) ∧
    (f.compare c 0 0 (2 ^ (f.eb + f.mb))).1 = true)

/-- The float unary functions on one register (R209, R210). -/
def Sys2Proof.Machine.xu32 : List ((Un → Instr) × (FCtl → Nat → FRes)) :=
  [(.xuFrcp, fmtF32.rcp), (.xuFrsq, fmtF32.rsq), (.xuFsqrt, fmtF32.sqrt), (.xuFexp2, fexp2), (.xuFlog2, flog2),
   (.xuFsin, fsincos false), (.xuFcos, fsincos true), (.xuFtanh, ftanh),
   (.xuFfloor, fun c a => fmtF32.integral c .rdn true a), (.xuFceil, fun c a => fmtF32.integral c .rup true a),
   (.xuFtrunc, fun c a => fmtF32.integral c .rtz true a), (.xuFrint, fun c a => fmtF32.integral c c.rm false a),
   (.xuFabs, fun c a => fmtF32.signOp c false a), (.xuFneg, fun c a => fmtF32.signOp c true a)]

/-- The float unary functions on a pair. -/
def Sys2Proof.Machine.xu64 : List ((Un → Instr) × (FCtl → Nat → FRes)) :=
  [(.xuDrcp, fmtF64.rcp), (.xuDrsq, fmtF64.rsq), (.xuDsqrt, fmtF64.sqrt),
   (.xuDabs, fun c a => fmtF64.signOp c false a), (.xuDneg, fun c a => fmtF64.signOp c true a)]

/-- R209: each float unary function writes its value in each lane whose guard holds, and GFLAGS gains the flags.
Model's choices it rests on: log 8. -/
def Obligations.FloatUnaryResults : Prop :=
  ∀ (x : Un) (s : State) (w : Who) (g : Group), Issues s w g → x.h = false →
    (∀ p ∈ xu32, w.mayRead x.a 1 → w.mayName x.d 1 →
      let f := fun l th => p.2 (FCtl.ofGctl w.uni.gctl) (readSrc32 w l th x.a.toNat).toNat
      (∀ q ∈ w.on x.g, (f q.1 q.2).flags &&& w.uni.te = 0) →
      LaneEffect (p.1 x) s w g
        (fun l th => if !x.w && th.guard x.g then th.put x.d (BitVec.ofNat 32 (f l th).val) else th)
        (orFlags (w.on x.g) fun l th => (f l th).flags)) ∧
    (∀ p ∈ xu64, w.mayRead x.a 2 → w.mayName x.d 2 →
      let f := fun l th => p.2 (FCtl.ofGctl w.uni.gctl) (readSrc64 w l th x.a.toNat).toNat
      (∀ q ∈ w.on x.g, (f q.1 q.2).flags &&& w.uni.te = 0) →
      LaneEffect (p.1 x) s w g
        (fun l th => if !x.w && th.guard x.g then th.putPair x.d (BitVec.ofNat 64 (f l th).val) else th)
        (orFlags (w.on x.g) fun l th => (f l th).flags))

/-- The value columns of R210 on codes: +0, −0, +∞, −∞ and a negative finite number, where the table gives one. -/
def Sys2Proof.Machine.specialInputs : List ((FCtl → Nat → FRes) × Nat × Nat × Word) :=
  [(fmtF32.rcp, 0, 0x7F800000, flDZ), (fmtF32.rcp, 0x80000000, 0xFF800000, flDZ), (fmtF32.rcp, 0x7F800000, 0, 0),
   (fmtF32.rcp, 0xFF800000, 0x80000000, 0), (fmtF32.rsq, 0, 0x7F800000, flDZ), (fmtF32.rsq, 0x80000000, 0xFF800000, flDZ),
   (fmtF32.rsq, 0x7F800000, 0, 0), (fmtF32.rsq, 0xFF800000, 0x7FC00000, flNV), (fmtF32.rsq, 0xBF800000, 0x7FC00000, flNV),
   (fmtF32.sqrt, 0, 0, 0), (fmtF32.sqrt, 0x80000000, 0x80000000, 0), (fmtF32.sqrt, 0x7F800000, 0x7F800000, 0),
   (fmtF32.sqrt, 0xFF800000, 0x7FC00000, flNV), (fmtF32.sqrt, 0xBF800000, 0x7FC00000, flNV),
   (fexp2, 0, 0x3F800000, 0), (fexp2, 0x80000000, 0x3F800000, 0), (fexp2, 0x7F800000, 0x7F800000, 0),
   (fexp2, 0xFF800000, 0, 0), (flog2, 0, 0xFF800000, flDZ), (flog2, 0x80000000, 0xFF800000, flDZ),
   (flog2, 0x7F800000, 0x7F800000, 0), (flog2, 0xFF800000, 0x7FC00000, flNV), (flog2, 0xBF800000, 0x7FC00000, flNV),
   (fsincos false, 0, 0, 0), (fsincos false, 0x80000000, 0x80000000, 0), (fsincos false, 0x7F800000, 0x7FC00000, flNV),
   (fsincos false, 0xFF800000, 0x7FC00000, flNV), (fsincos true, 0, 0x3F800000, 0),
   (fsincos true, 0x80000000, 0x3F800000, 0), (fsincos true, 0x7F800000, 0x7FC00000, flNV),
   (fsincos true, 0xFF800000, 0x7FC00000, flNV), (ftanh, 0, 0, 0), (ftanh, 0x80000000, 0x80000000, 0),
   (ftanh, 0x7F800000, 0x3F800000, 0), (ftanh, 0xFF800000, 0xBF800000, 0),
   (fmtF64.rcp, 0, 0x7FF0000000000000, flDZ), (fmtF64.rcp, 0x8000000000000000, 0xFFF0000000000000, flDZ),
   (fmtF64.rcp, 0x7FF0000000000000, 0, 0), (fmtF64.rcp, 0xFFF0000000000000, 0x8000000000000000, 0),
   (fmtF64.rsq, 0, 0x7FF0000000000000, flDZ), (fmtF64.rsq, 0x8000000000000000, 0xFFF0000000000000, flDZ),
   (fmtF64.rsq, 0x7FF0000000000000, 0, 0), (fmtF64.rsq, 0xFFF0000000000000, 0x7FF8000000000000, flNV),
   (fmtF64.sqrt, 0, 0, 0), (fmtF64.sqrt, 0x8000000000000000, 0x8000000000000000, 0),
   (fmtF64.sqrt, 0x7FF0000000000000, 0x7FF0000000000000, 0), (fmtF64.sqrt, 0xFFF0000000000000, 0x7FF8000000000000, flNV)]

/-- The functions that have no value below zero (R210), with their formats. -/
def Sys2Proof.Machine.rootsAndLogs : List (Fmt × (FCtl → Nat → FRes)) :=
  [(fmtF32, fmtF32.rsq), (fmtF64, fmtF64.rsq), (fmtF32, fmtF32.sqrt), (fmtF64, fmtF64.sqrt), (fmtF32, flog2)]

/-- The conversions between numbers (R211): words of the source, words of the result, and the value. -/
def Sys2Proof.Machine.conversions : List ((Un → Instr) × Nat × Nat × (FCtl → Nat → FRes)) :=
  [(.cvtS32F32, 1, 1, fun c a => fmtF32.toInt c 32 true a), (.cvtU32F32, 1, 1, fun c a => fmtF32.toInt c 32 false a),
   (.cvtF32S32, 1, 1, fun c a => fmtF32.ofInt c (BitVec.ofNat 32 a).toInt),
   (.cvtF32U32, 1, 1, fun c a => fmtF32.ofInt c (a : Int)),
   (.cvtS64F64, 2, 2, fun c a => fmtF64.toInt c 64 true a), (.cvtU64F64, 2, 2, fun c a => fmtF64.toInt c 64 false a),
   (.cvtF64S64, 2, 2, fun c a => fmtF64.ofInt c (BitVec.ofNat 64 a).toInt),
   (.cvtF64U64, 2, 2, fun c a => fmtF64.ofInt c (a : Int)),
   (.cvtF64F32, 1, 2, fun c a => fmtF32.toFloat fmtF64 c a), (.cvtF32F64, 2, 1, fun c a => fmtF64.toFloat fmtF32 c a),
   (.cvtS32F64, 2, 1, fun c a => fmtF64.toInt c 32 true a), (.cvtF64S32, 1, 2, fun c a => fmtF64.ofInt c (BitVec.ofNat 32 a).toInt),
   (.cvtS64F32, 1, 2, fun c a => fmtF32.toInt c 64 true a), (.cvtF32S64, 2, 1, fun c a => fmtF32.ofInt c (BitVec.ofNat 64 a).toInt)]

/-- CVTR's targets (R175, R212). -/
def Sys2Proof.Machine.stochastic : List ((CvtR → Instr) × Nat) :=
  [(.cvtrE8m7, 0x0C), (.cvtrE5m10, 0x0B), (.cvtrE4m3, 0x09), (.cvtrE5m2, 0x0A)]

/-- R211, R212: each conversion writes its one rounded value, in one register or a pair, in each lane whose guard holds, and
GFLAGS gains the flags; CVTR rounds stochastically with b[15:0] as its random bits. Model's choices it rests on: log 7. -/
def Obligations.ConversionResults : Prop :=
  ∀ (s : State) (w : Who) (g : Group), Issues s w g →
    (∀ p ∈ conversions, ∀ x : Un, x.h = false → w.mayRead x.a p.2.1 → w.mayName x.d p.2.2.1 →
      let f := fun l th => p.2.2.2 (FCtl.ofGctl w.uni.gctl) (readSrc w l th x.a.toNat p.2.1)
      (∀ q ∈ w.on x.g, (f q.1 q.2).flags &&& w.uni.te = 0) →
      LaneEffect (p.1 x) s w g
        (fun l th =>
          if !x.w && th.guard x.g then
            (if p.2.2.1 = 1 then th.put x.d (BitVec.ofNat 32 (f l th).val)
             else th.putPair x.d (BitVec.ofNat 64 (f l th).val))
          else th)
        (orFlags (w.on x.g) fun l th => (f l th).flags)) ∧
    (∀ x : CvtF, x.h = false → w.mayRead x.a 1 → w.mayName x.d 1 →
      let f := fun (l : Nat) (th : Thread) => toFormat x.f.toNat (FCtl.ofGctl w.uni.gctl) (readSrc32 w l th x.a.toNat).toNat
      (∀ q ∈ w.on x.g, (f q.1 q.2).flags &&& w.uni.te = 0) →
      LaneEffect (.cvtFormatFromF32 x) s w g
        (fun l th => if !x.w && th.guard x.g then th.put x.d (BitVec.ofNat 32 (f l th).val) else th)
        (orFlags (w.on x.g) fun l th => (f l th).flags)) ∧
    (∀ x : CvtF, x.h = false → w.mayRead x.a 1 → w.mayName x.d 1 →
      let f := fun (l : Nat) (th : Thread) =>
        fromFormat x.f.toNat (FCtl.ofGctl w.uni.gctl) (readSrc32 w l th x.a.toNat).toNat
      (∀ q ∈ w.on x.g, (f q.1 q.2).flags &&& w.uni.te = 0) →
      LaneEffect (.cvtF32FromFormat x) s w g
        (fun l th => if !x.w && th.guard x.g then th.put x.d (BitVec.ofNat 32 (f l th).val) else th)
        (orFlags (w.on x.g) fun l th => (f l th).flags)) ∧
    (∀ p ∈ stochastic, ∀ x : CvtR, w.mayRead x.a 1 → w.mayRead x.b 1 → w.mayName x.d 1 →
      let c := FCtl.ofGctl w.uni.gctl
      let v := fun (l : Nat) (th : Thread) => fmtF32.input c.ftz (readSrc32 w l th x.a.toNat).toNat
      let r := fun (l : Nat) (th : Thread) =>
        convertTo p.2 (.sr ((readSrc32 w l th x.b.toNat).toNat % 2 ^ 16)) (v l th)
      (∀ q ∈ w.on x.g, ((r q.1 q.2).laneFlags (v q.1 q.2).isSNan) &&& w.uni.te = 0) →
      LaneEffect (p.1 x) s w g
        (fun l th => if th.guard x.g then th.put x.d (BitVec.ofNat 32 (r l th).code) else th)
        (orFlags (w.on x.g) fun l th => (r l th).laneFlags (v l th).isSNan))

/-- The float formats that hold every finite code exactly (R95). -/
def Sys2Proof.Machine.floatFormats : List Fmt :=
  [fmtE2M1, fmtE2M3, fmtE3M2, fmtE3M4, fmtE4M3, fmtE5M2, fmtE5M10, fmtE8M7, fmtF24, fmtF32, fmtF40, fmtF64]

/-- R210: under every rounding mode and FTZ setting, the special inputs of both widths give the values and flags of its
table, and every NaN gives its width's canonical NaN. Of each finite number below zero the roots and the logarithm give
NaN with NV, and the reciprocal gives that of its magnitude, negated. R95, R97: a number a format holds exactly is its own
rounding under every mode, exact, without overflow: rounding the value of any finite code of any of the float formats
gives that code back. -/
def Obligations.FloatSpecialValues : Prop :=
  ((∀ e ∈ specialInputs, ∀ c : FCtl, e.1 c e.2.1 = ⟨e.2.2.1, e.2.2.2⟩) ∧
    (∀ p ∈ xu32, ∀ (c : FCtl) (a : Nat), (fmtF32.value a).isNan →
      p.2 c a = ⟨0x7FC00000, if (fmtF32.value a).isSNan then flNV else 0⟩) ∧
    (∀ p ∈ xu64, ∀ (c : FCtl) (a : Nat), (fmtF64.value a).isNan →
      p.2 c a = ⟨0x7FF8000000000000, if (fmtF64.value a).isSNan then flNV else 0⟩) ∧
    (∀ p ∈ rootsAndLogs, ∀ (c : FCtl) (a m : Nat) (e : Int), p.1.input c.ftz a = .fin true m e → m ≠ 0 →
      p.2 c a = ⟨p.1.canonNan, flNV⟩) ∧
    ∀ f ∈ [fmtF32, fmtF64], ∀ (c : FCtl) (a m : Nat) (e : Int), a < 2 ^ (f.eb + f.mb) →
      f.input c.ftz a = .fin false m e → m ≠ 0 →
      f.rcp c (a + 2 ^ (f.eb + f.mb)) = ⟨(f.rcp c a).val + 2 ^ (f.eb + f.mb), (f.rcp c a).flags⟩) ∧
  (∀ f ∈ floatFormats, ∀ (rm : Rm) (code : Nat), code < 2 ^ f.width → (∀ rb, rm = .sr rb → rb < 2 ^ 16) →
    ∀ neg m e, f.value code = .fin neg m e →
      (f.round rm neg m e).code = code ∧ (f.round rm neg m e).inexact = false ∧ (f.round rm neg m e).ovf = false)

-- Chains, flag traps, team operations.

/-- A 32-bit LR word as a chain's member. -/
def Sys2Proof.Machine.wordMember (i : LR → Instr) (x : LR) (r : Who → Nat → Thread → Word) (f : Who → Nat → Thread → Word) :
    Member :=
  { word := i x, h := x.h, w := x.w, g := x.g, ok := fun w => w.reads x.a 1 ∧ w.reads x.b 1 ∧ w.mayName x.d 1,
    held := fun th => (th.vget x.d.toNat).setWidth 64, put := fun th v => th.put x.d (v.setWidth 32),
    value := fun w l th => (r w l th).setWidth 64, flags := f }

/-- A 64-bit LR word as a chain's member. -/
def Sys2Proof.Machine.pairMember (i : LR → Instr) (x : LR) (r : Who → Nat → Thread → DWord) (f : Who → Nat → Thread → Word) :
    Member :=
  { word := i x, h := x.h, w := x.w, g := x.g, ok := fun w => w.reads x.a 2 ∧ w.reads x.b 2 ∧ w.mayName x.d 2,
    held := fun th => th.vpair x.d.toNat, put := fun th v => th.putPair x.d v, value := r, flags := f }

/-- A compare as a chain's member: its value is 1 or 0 (R186). -/
def Sys2Proof.Machine.compareMember (i : Cmp → Instr) (x : Cmp) (r : Who → Nat → Thread → Bool) (f : Who → Nat → Thread → Word) :
    Member :=
  { word := i x, h := x.h, w := x.w, g := x.g, ok := fun w => x.p ≠ 0 ∧ w.reads x.a 1 ∧ w.reads x.b 1,
    held := fun th => if th.pget x.p.toNat then 1 else 0, put := fun th v => th.putPred x.p (v != 0),
    value := fun w l th => if r w l th then 1 else 0, flags := f }

/-- The integer and float words of the LR format and the compares ICMP and FCMP, each with its value and flags (R200 to R207). -/
def Sys2Proof.Machine.isMember (m : Member) : Prop :=
  let a := fun (x : LR) (w : Who) l th => readSrc32 w l th x.a.toNat
  let b := fun (x : LR) (w : Who) l th => readSrc32 w l th x.b.toNat
  let A := fun (x : LR) (w : Who) l th => readSrc64 w l th x.a.toNat
  let B := fun (x : LR) (w : Who) l th => readSrc64 w l th x.b.toNat
  let ctl := fun (w : Who) => FCtl.ofGctl w.uni.gctl
  (∃ p ∈ alu32, ∃ x, m = wordMember p.1 x (fun w l th => p.2 (a x w l th) (b x w l th) (th.vget x.d.toNat)) fun _ _ _ => 0) ∨
  (∃ p ∈ alu64, ∃ x, m = pairMember p.1 x (fun w l th => p.2 (A x w l th) (B x w l th)) fun _ _ _ => 0) ∨
  (∃ p ∈ fp32, ∃ x,
    let f := fun w l th => p.2 (ctl w) (a x w l th).toNat (b x w l th).toNat (th.vget x.d.toNat).toNat
    m = wordMember p.1 x (fun w l th => BitVec.ofNat 32 (f w l th).val) fun w l th => (f w l th).flags) ∨
  (∃ p ∈ fp64, ∃ x,
    let f := fun w l th => p.2 (ctl w) (A x w l th).toNat (B x w l th).toNat (th.vpair x.d.toNat).toNat
    m = pairMember p.1 x (fun w l th => BitVec.ofNat 64 (f w l th).val) fun w l th => (f w l th).flags) ∨
  (∃ x : Cmp, m = compareMember .icmp x
    (fun w l th => cond32 x.k (readSrc32 w l th x.a.toNat) (readSrc32 w l th x.b.toNat)) fun _ _ _ => 0) ∨
  ∃ x : Cmp,
    let f := fun w l th =>
      fmtF32.compare (ctl w) x.k.toNat (readSrc32 w l th x.a.toNat).toNat (readSrc32 w l th x.b.toNat).toNat
    m = compareMember .fcmp x (fun w l th => (f w l th).1) fun w l th => (f w l th).2

/-- R186: the last member of a chain (h = 0) completes it: the earlier members' writes and its own take effect together,
their flags are merged, the chain is over; sources may be latches that an earlier member wrote (R187), and registers read as
they stood before the chain. -/
def Obligations.ChainEnd : Prop :=
  ∀ (m : Member) (s : State) (w : Who) (g : Group) (c : Chain), isMember m → m.ok w → m.h = false →
    s.who = some w → w.grp = some g → g.chain = some c → c.lanes = maskOf w.lanes → s.regPoison = [] →
    (∀ y ∈ c.vw, y.lane ∈ w.lanes) → (∀ y ∈ c.pw, y.lane ∈ w.lanes) → (∀ y ∈ c.flags, y.2 &&& w.uni.te = 0) →
    (∀ q ∈ w.on m.g, m.flags w q.1 q.2 &&& w.uni.te = 0) →
    ∃ t, exec m.word s = .next t ∧ OnlyGroup s t w.blk.id g.num ∧
      t.group? w.blk.id g.num =
        some { g.modLanes w.lanes (fun l th => { m.write w l th (th.soFar (some c) l) with pc := w.next }) with
          chain := none, uni := g.uni.merge (flagsOf c.flags ||| orFlags (w.on m.g) (m.flags w)) }

/-- R186, R187: a member with h = 1, the head or a later one, writes no register and no GFLAGS yet: the chain goes on with
its write and flags after those of the earlier members, its result in the latch of its position, or for a lane whose guard
is false what d held, the other latches as they were; the head is where the chain began and the fragment goes on at the
next word. R166, R187, R188: a source latch that no earlier member of the chain wrote faults STALE_LATCH in every lane, at
the head and inside a chain: none of the chain's writes takes effect, and each lane stands at the handler with the cause
and the instruction's address, to resume at the chain's head. -/
def Obligations.ChainHead : Prop :=
  (∀ (m : Member) (s : State) (w : Who) (g : Group), isMember m → m.ok w → m.h = true →
    s.who = some w → w.grp = some g → w.chain = g.chain → s.regPoison = [] →
    (∀ c, w.chain = some c → c.latches.length = 4) → chainPos w.chain < 7 →
    let j := chainPos w.chain
    ∃ (t : State) (c : Chain), exec m.word s = .next t ∧ OnlyGroup s t w.blk.id g.num ∧
      t.group? w.blk.id g.num = some { g.modLanes w.lanes (fun _ th => { th with pc := w.next }) with chain := some c } ∧
      c.lanes = maskOf w.lanes ∧ c.head = (w.chain.map (·.head)).getD w.pc ∧ c.count = j + 1 ∧ c.s = w.srcUni.s ∧
      flagsOf c.flags = ((w.chain.map fun x => flagsOf x.flags).getD 0 ||| orFlags (w.on m.g) (m.flags w)) ∧
      (∀ k < 4, k ≠ j % 4 → ∀ l, c.latch k l = (w.chain.map (·.latch k l)).getD 0) ∧
      ∀ l ∈ w.lanes, ∀ th, g.thread? l = some th →
        c.latch (j % 4) l = (if th.guard m.g then m.value w l th else m.held th) ∧
          th.soFar (some c) l = m.write w l th (th.soFar w.chain l)) ∧
  (∀ p ∈ alu32.map (·.1) ++ fp32.map (·.1), ∀ (x : LR) (s : State) (w : Who) (g : Group),
    s.who = some w → w.grp = some g → w.chain = g.chain → chainPos w.chain < 7 →
    srcOk w.grid.desc x.a.toNat 1 = true → srcOk w.grid.desc x.b.toNat 1 = true → w.mayName x.d 1 →
    staleSrc w.chain x.a.toNat = true ∨ staleSrc w.chain x.b.toNat = true →
    ∃ t, exec (p x) s = .next t ∧ (t.group? w.blk.id g.num).map (·.chain) = some none ∧
      ∀ l ∈ w.lanes, ∀ th, g.thread? l = some th → (th.st = .trapped → th.trap.nest = false) →
        ∃ th', t.thread? ⟨w.blk.id, g.num, l⟩ = some th' ∧ th'.st = .trapped ∧ th'.pc = w.grid.desc.handler ∧
          th'.v = th.v ∧ th'.p = th.p ∧ th'.trap.cause = 0x03 ∧ th'.trap.taddr = BitVec.ofNat 64 w.pc ∧
          th'.trap.resume = (w.chain.map (·.head)).getD w.pc % 2 ^ 56)

/-- R111, R112: of an FP32 instruction outside a chain, the lanes that raised an enabled flag trap after their results are
written: cause FLAG_TRAP, TADDR the instruction's address, TLANES all of them, the resume point the next word; GFLAGS holds
every flag raised. Model's choices it rests on: log 9. -/
def Obligations.FlagTraps : Prop :=
  ∀ p ∈ fp32, ∀ (x : LR) (s : State) (w : Who) (g : Group), Issues s w g → x.h = false → x.w = false →
    w.grid.desc.vers = false →
    w.mayRead x.a 1 → w.mayRead x.b 1 → w.mayName x.d 1 →
    let f := fun l th => p.2 (FCtl.ofGctl w.uni.gctl) (readSrc32 w l th x.a.toNat).toNat
      (readSrc32 w l th x.b.toNat).toNat (th.vget x.d.toNat).toNat
    let bad := ((w.on x.g).filter fun q => (f q.1 q.2).flags &&& w.uni.te != 0).map (·.1)
    (∀ q ∈ w.threads, q.2.st = .running) →
    ∃ t, exec (p.1 x) s = .next t ∧
      (t.group? w.blk.id g.num).map (·.uni) = some (g.uni.merge (orFlags (w.on x.g) fun l th => (f l th).flags)) ∧
      ∀ l ∈ bad, ∀ th, g.thread? l = some th →
        ∃ th', t.thread? ⟨w.blk.id, g.num, l⟩ = some th' ∧ th'.v = (th.put x.d (BitVec.ofNat 32 (f l th).val)).v ∧
          th'.st = .trapped ∧ th'.pc = w.grid.desc.handler ∧ th'.trap.cause = 0x0C ∧ th'.trap.nest = false ∧
          th'.trap.taddr = BitVec.ofNat 64 w.pc ∧ th'.trap.tlanes = maskOf bad ∧ th'.trap.resume = w.next

/-- The reductions on one register (R173, R218). -/
def Sys2Proof.Machine.reductions : List (Tred → Instr) :=
  [.tredAdd, .tredMin, .tredMax, .tredUmin, .tredUmax, .tredAnd, .tredOr, .tredXor, .tredFadd, .tredFmin, .tredFmax]

/-- The words a team operation writes for its result (R169). -/
def Sys2Proof.Machine.teamWords (i : Instr) (r : DWord) : List Word :=
  match i with
  | .tredDadd _ => [r.extractLsb' 0 32, r.extractLsb' 32 32]
  | _ => [r.extractLsb' 0 32]

/-- R148, R215: a team operation issued brings every lane of the fragment, whatever its guard, to the wait at it, with its
operand and GCTL as they stand and whether it gives; no register changes before the team executes. R148, R215: once every
Present lane of a team stands at one team operation, TEAM_OPERATION_EXECUTE gives each giver the result for its position,
merges the operation's flags once, and every participant goes on at the next word. R199: FRM and FTZ are those of the GCTL
under which its lanes issued (where they issued under different ones the model chooses: log 80).
Model's choices it rests on: log 11 and 80. -/
def Obligations.TeamOperations : Prop :=
  (∀ (s : State) (w : Who) (g : Group), Issues s w g →
    let waits := fun (i : Instr) (a : Nat → Thread → DWord) (b : Nat → Thread → Word) (p : BitVec 3) =>
      ∃ t, exec i s = .next t ∧ OnlyGroup s t w.blk.id g.num ∧
        t.group? w.blk.id g.num =
          some (g.modLanes w.lanes fun l th => { th with wait := .team ⟨i, th.guard p, a l th, b l th, w.uni.gctl⟩ })
    (∀ c ∈ reductions, ∀ x : Tred, x.h = false → w.mayRead x.a 1 → w.mayName x.d 1 →
      waits (c x) (fun l th => (readSrc32 w l th x.a.toNat).setWidth 64) (fun _ _ => 0) x.g) ∧
    (∀ x : Tred, x.h = false → w.mayRead x.a 2 → w.mayName x.d 2 →
      waits (.tredDadd x) (fun l th => readSrc64 w l th x.a.toNat) (fun _ _ => 0) x.g) ∧
    (∀ c ∈ [Instr.tshflIdx, .tshflXor], ∀ x : Tshfl, w.mayRead x.a 1 → w.mayName x.b 1 → w.mayName x.d 1 →
      waits (c x) (fun l th => (readSrc32 w l th x.a.toNat).setWidth 64) (fun _ th => th.vget x.b.toNat) x.g) ∧
    (∀ x : Ballot, x.h = false → w.mayName x.d 1 →
      waits (.ballot x) (fun _ th => if th.pget x.p.toNat then 1 else 0) (fun _ _ => 0) x.g)) ∧
  (∀ (x : ThreadRef) (s : State) (b : Block) (g : Group) (u : Thread) (o : TeamWait) (ls : List Nat) (c : Word),
    s.regPoison = [] → s.block? x.block = some b → b.group? x.group = some g → g.thread? x.lane = some u →
    u.teamWait = some o → g.teamReady x.lane = some ls →
    (∀ l ∈ ls, ∀ th, g.thread? l = some th → th.teamWait.map (·.gctl) = some c) →
    let sh := teamShape o.op
    let row := g.teamRow x.lane sh.width ls
    let r := fun l => teamResult o.op (FCtl.ofGctl c) row (l % sh.width)
    let gives := fun (th : Thread) => (th.teamWait.map (·.giver)).getD false
    (∀ l ∈ ls, (r l).2 &&& g.uni.te = 0) →
    let fl := (ls.filter fun l => (row.getD (l % sh.width) none).isSome).foldl (fun a l => a ||| (r l).2) 0
    ∃ t, exec (.teamOperationExecute x) s = .next t ∧ OnlyGroup s t x.block x.group ∧
      t.group? x.block x.group =
        some { g.modLanes ls (fun l th =>
            let v := if gives th && !sh.w then setRegs th.v sh.d (teamWords o.op (r l).1) else th.v
            { th with wait := Wait.none, pc := (u.pc + 4) % 2 ^ 56, v := v }) with
          uni := g.uni.merge fl })

/-- R216, R217, R218 on one team's row (a giver's operand, or none): a ballot's bit says whether its lane gives with a true
predicate; a shuffle takes the giver that its index or mask names, else 0; an integer sum is the sum of what is given. -/
def Obligations.TeamValues : Prop :=
  ∀ (row : TeamRow) (c : FCtl), row.length ≤ 32 →
    (∀ x i, (teamResult (.ballot x) c row 0).1.getLsbD i =
      match row.getD i none with
      | some v => v.1 == 1
      | none => false) ∧
    (∀ x i, (∃ k, row.length = 2 ^ k) → i < row.length → ∀ v, row.getD i none = some v →
      (teamResult (.tshflIdx x) c row i).1 = ((row.getD (v.2.toNat % row.length) none).map (·.1)).getD 0 ∧
      (teamResult (.tshflXor x) c row i).1 =
        ((row.getD ((i ^^^ v.2.toNat) % row.length) none).map (·.1)).getD 0) ∧
    (∀ x i, (∃ k, row.length = 2 ^ k) → (∀ v ∈ row, ∀ y, v = some y → y.1.toNat < 2 ^ 32) →
      teamResult (.tredAdd x) c row i =
        (BitVec.ofNat 64 ((row.foldl (fun a v => a + (v.map fun y => y.1.toNat).getD 0) 0) % 2 ^ 32), 0))

-- Branches, special registers and the uniform instructions.

/-- An address a signed number of words away, in 56 bits (R222, R223, R225). -/
def Sys2Proof.Machine.target (pc : Nat) (words : Int) : Nat := (((pc : Int) + 4 * words) % 2 ^ 56).toNat

/-- R223 CALL, R224 JMP and RET: in the lanes whose guard holds, CALL links the next word's address into its pair and
jumps by its offset, JMP and RET jump to bits 55:0 of pair a, here aligned; the others go on at the next word. R224: a JMP
or RET whose target has bits 1:0 not zero faults ALIGNMENT for each such lane, and the other lanes jump; TADDR is the
target of the lowest such lane and TLANES all of them (R11, R345, R346). -/
def Obligations.CallsAndJumps : Prop :=
  (∀ (s : State) (w : Who) (g : Group), Issues s w g →
    (∀ x : LC, w.mayName x.d 2 →
      ∃ t, exec (.call x) s = .next t ∧ OnlyGroup s t w.blk.id g.num ∧
        t.group? w.blk.id g.num = some (g.modLanes w.lanes fun _ th =>
          if th.guard x.g then
            { th.putPair x.d (BitVec.ofNat 64 w.next) with pc := target w.pc x.o.toInt }
          else { th with pc := w.next })) ∧
    (∀ c ∈ [Instr.jmp, .ret], ∀ x : Jmp, w.mayRead x.a 2 →
      (∀ q ∈ w.on x.g, (readSrc64 w q.1 q.2 x.a.toNat).toNat % 4 = 0) → w.pc % 4 = 0 →
      ∃ t, exec (c x) s = .next t ∧ OnlyGroup s t w.blk.id g.num ∧
        t.group? w.blk.id g.num = some (g.modLanes w.lanes fun l th =>
          { th with pc := if th.guard x.g then (readSrc64 w l th x.a.toNat).toNat % 2 ^ 56 else w.next }))) ∧
  (∀ c ∈ [Instr.jmp, .ret], ∀ (x : Jmp) (s : State) (w : Who) (g : Group), Issues s w g → w.mayRead x.a 2 →
    w.pc % 4 = 0 → (∀ q ∈ w.threads, q.2.st = .running) →
    let dest := fun (l : Nat) (th : Thread) => (readSrc64 w l th x.a.toNat).toNat % 2 ^ 56
    let bad := (w.on x.g).filter fun q => dest q.1 q.2 % 4 != 0
    ∃ t, exec (c x) s = .next t ∧
      ∀ l ∈ w.lanes, ∀ th, g.thread? l = some th → ∃ th', t.thread? ⟨w.blk.id, g.num, l⟩ = some th' ∧
         if th.guard x.g then
           if dest l th % 4 = 0 then th' = { th with pc := dest l th }
           else th'.st = .trapped ∧ th'.pc = w.grid.desc.handler ∧ th'.trap.cause = 0x05 ∧ th'.v = th.v ∧
             th'.trap.tlanes = maskOf (bad.map (·.1)) ∧
             ∀ q, bad.head? = some q → th'.trap.taddr = BitVec.ofNat 64 (dest q.1 q.2)
         else th' = { th with pc := w.next })

/-- The special registers a thread holds, with their numbers and what they read (R143, R144, R184, R344, R345). -/
def Sys2Proof.Machine.threadRegs : List (BitVec 16 × (Nat → Thread → Word)) :=
  [(0x000, fun l _ => BitVec.ofNat 32 l),
   (0x010, fun _ th => match th.item with
     | some i => BitVec.ofNat 32 i
     | none => 0),
   (0x011, fun _ th => match th.item with
     | some i => BitVec.ofNat 32 (i / 2 ^ 32 % 2 ^ 16)
     | none => 0x80000000),
   (0x012, fun _ th => th.icnt), (0x030, fun _ th => th.trap.tcause), (0x033, fun _ th => th.trap.tlanes)]

/-- The special registers of 64 bits that a thread holds (R345). -/
def Sys2Proof.Machine.threadPairs : List (BitVec 16 × (Thread → DWord)) :=
  [(0x031, fun th => th.trap.taddr), (0x032, fun th => th.trap.titem)]

/-- The special registers that a group or control thread, its place or its device holds (R110 to R113, R143, R253, R359). -/
def Sys2Proof.Machine.sharedRegs : List (BitVec 13 × (State → Who → Word)) :=
  [(0x001, fun _ w => match w.grp with
     | some g => BitVec.ofNat 32 g.num
     | none => 0xFFFFFFFF),
   (0x002, fun _ w => match w.grp with
     | some g => BitVec.ofNat 32 g.slot
     | none => 0xFFFFFFFF),
   (0x003, fun s w => BitVec.ofNat 32 (s.physQuad w.core (s.ctxFn w.ctx) w.quad)),
   (0x004, fun _ w => BitVec.ofNat 32 (w.core % 12)), (0x005, fun _ w => BitVec.ofNat 32 (w.core / 12 % 4)),
   (0x006, fun _ w => BitVec.ofNat 32 (dieOf w.core)),
   (0x007, fun _ w => BitVec.ofNat 32 w.rank), (0x008, fun _ w => BitVec.ofNat 32 w.blk.cores.length),
   (0x009, fun _ w => BitVec.ofNat 32 w.grid.desc.unit), (0x022, fun s w => (s.guestClk w.ctx).extractLsb' 0 32),
   (0x023, fun s w => (s.guestClk w.ctx).extractLsb' 32 32),
   (0x040, fun _ w => w.uni.gflags), (0x041, fun _ w => w.uni.gctl),
   (0x042, fun _ w => w.uni.cbsel), (0x043, fun s w => BitVec.ofNat 32 (s.bankCount w).1),
   (0x044, fun s w => BitVec.ofNat 32 (s.bankCount w).2.1), (0x045, fun s w => BitVec.ofNat 32 (s.bankCount w).2.2)]

/-- Those of 64 bits. -/
def Sys2Proof.Machine.sharedPairs : List (BitVec 13 × (State → Who → DWord)) :=
  [(0x020, fun s w => s.guestClk w.ctx), (0x024, fun _ w => w.uni.gtimer)]

/-- The two words of a 64-bit value, the low half first (R169). -/
def Sys2Proof.Machine.halves (v : DWord) : List Word := [v.extractLsb' 0 32, v.extractLsb' 32 32]

/-- R213, R214, R343: MOVS gives each executing lane its own thread register, or the group's register to all, a 64-bit register into
a pair; SMOVS puts the register of the issuing agent into s(d) or pair d, and of a thread's trap registers that of the issuing
fragment's lowest lane. R113, R143, R345, R359: what each of them reads; a bank that is not the block's counts zero. -/
def Obligations.SpecialReads : Prop :=
  ∀ s : State,
    (∀ (w : Who) (g : Group), Issues s w g → ∀ (x : LW),
      (w.mayName x.d 1 →
        (∀ e ∈ threadRegs, x.i = e.1 →
          LaneEffect (.movs x) s w g (fun l th => if th.guard x.g then th.put x.d (e.2 l th) else th) 0) ∧
        (∀ e ∈ sharedRegs, x.i = e.1.setWidth 16 →
          LaneEffect (.movs x) s w g (fun _ th => if th.guard x.g then th.put x.d (e.2 s w) else th) 0)) ∧
      (w.mayName x.d 2 →
        (∀ e ∈ threadPairs, x.i = e.1 →
          LaneEffect (.movs x) s w g (fun _ th => if th.guard x.g then th.putPair x.d (e.2 th) else th) 0) ∧
        (∀ e ∈ sharedPairs, x.i = e.1.setWidth 16 →
          LaneEffect (.movs x) s w g (fun _ th => if th.guard x.g then th.putPair x.d (e.2 s w) else th) 0))) ∧
    (∀ w : Who, IssuesUni s w → ∀ (x : SMovs),
      let one := fun (v : Word) => UniEffect (.smovs x) s w (w.uni.sset x.d.toNat [v]) w.next
      let two := fun (v : DWord) => UniEffect (.smovs x) s w (w.uni.sset x.d.toNat (halves v)) w.next
      (sOk w x.d.toNat 1 1 = true →
        (∀ e ∈ sharedRegs, x.i = e.1 → one (e.2 s w)) ∧
        (∀ p, w.blk.pair? w.rank w.quad = some p → x.i = 0x046 → one p.evqdrop) ∧
        (∀ l th ls, w.ctl = none → w.threads = (l, th) :: ls →
          (x.i = 0x030 → one th.trap.tcause) ∧ (x.i = 0x033 → one th.trap.tlanes)) ∧
        (∀ c, w.ctl = some c → (x.i = 0x030 → one c.trap.tcause) ∧ (x.i = 0x033 → one c.trap.tlanes))) ∧
      (sOk w x.d.toNat 2 2 = true →
        (∀ e ∈ sharedPairs, x.i = e.1 → two (e.2 s w)) ∧
        (∀ l th ls, w.ctl = none → w.threads = (l, th) :: ls →
          (x.i = 0x031 → two th.trap.taddr) ∧ (x.i = 0x032 → two th.trap.titem)) ∧
        (∀ c, w.ctl = some c → (x.i = 0x031 → two c.trap.taddr) ∧ (x.i = 0x032 → two c.trap.titem))))

/-- R110, R111, R214: SMOVW clears the GFLAGS bits written as 1, writes GCTL without its reserved bits, and takes bits 3:0
into CBSEL; no other register and no memory changes. R184, R214: a special register that SMOVW may not write faults
ILLEGAL_OPERAND for a control thread: it stands at the handler, its registers as they were, and the record names the cause
and its address. -/
def Obligations.SpecialWrites : Prop :=
  (∀ (x : SMovw) (s : State) (w : Who), IssuesUni s w → sOk w x.a.toNat 1 1 = true →
    let v := w.uni.sget x.a.toNat
    (x.i = 0x040 → UniEffect (.smovw x) s w { w.uni with gflags := w.uni.gflags &&& ~~~v } w.next) ∧
    (x.i = 0x041 → ∃ u, UniEffect (.smovw x) s w { w.uni with gctl := u } w.next ∧
      ∀ i, u.getLsbD i = (v.getLsbD i && (i ≤ 8 || i == 17 || i == 18 || i == 19 || i == 23))) ∧
    (x.i = 0x042 → UniEffect (.smovw x) s w { w.uni with cbsel := v &&& 0xF } w.next)) ∧
  (∀ (x : SMovw) (s : State) (w : Who) (c : Ctl), IssuesUni s w → w.grp = none → w.ctl = some c → c.st = .running →
    specialReg x.i.toNat = true → x.i ≠ 0x040 → x.i ≠ 0x041 → x.i ≠ 0x042 →
    ∃ t c', exec (.smovw x) s = .next t ∧ OnlyCtl s t w.blk.id c.rank c.quad ∧
      t.ctl? w.blk.id c.rank c.quad = some c' ∧ c'.st = .trapped ∧ c'.pc = w.grid.desc.handler ∧ c'.uni = c.uni ∧
      c'.trap.cause = 0x02 ∧ c'.trap.taddr = BitVec.ofNat 64 w.pc ∧ c'.trap.tlanes = 0)

/-- The SALU functions on registers (R219). -/
def Sys2Proof.Machine.salu : List ((UR → Instr) × (Word → Word → Word)) :=
  [(.saluAdd, fun a b => a + b), (.saluSub, fun a b => a - b), (.saluMul, fun a b => a * b),
   (.saluMulh, fun a b => ((a.signExtend 64 * b.signExtend 64) >>> 32).setWidth 32), (.saluAnd, fun a b => a &&& b),
   (.saluOr, fun a b => a ||| b), (.saluXor, fun a b => a ^^^ b), (.saluShl, fun a b => a <<< (b &&& 31)),
   (.saluShr, fun a b => a >>> (b &&& 31)), (.saluSar, fun a b => a.sshiftRight' (b &&& 31)),
   (.saluMin, fun a b => if b.slt a then b else a), (.saluMax, fun a b => if b.slt a then a else b),
   (.saluMinu, fun a b => if b.ult a then b else a), (.saluMaxu, fun a b => if b.ult a then a else b)]

/-- The SALU functions on pairs. -/
def Sys2Proof.Machine.saluPairs : List ((UR → Instr) × (DWord → DWord → DWord)) :=
  [(.saluAdd64, fun a b => a + b),
   (.saluPadd, fun a b => (a.extractLsb' 56 8 ++ (a + b).extractLsb' 0 56 : BitVec (8 + 56)))]

/-- R185, R219: for a fragment and for a control thread alike, SALU writes its value to s(d), or pair d, where its
condition holds, and leaves every destination unchanged where it is false; it raises no flag. R183, R221 SV2S: s(d), or
pair d, takes what v(a), or pair a, holds in the named lane of the issuing group, whatever the lane's state; while the
instruction at which that lane waits, or a chain in progress of another fragment, has still to write the register, SV2S
waits at its word. -/
def Obligations.ScalarResults : Prop :=
  (∀ (x : UR) (s : State) (w : Who), IssuesUni s w →
    (∀ p ∈ salu, sOk w x.d.toNat 1 1 = true → sOk w x.a.toNat 1 1 = true → sOk w x.b.toNat 1 1 = true →
      UniEffect (p.1 x) s w
        (if w.uni.cget x.c.toNat then w.uni.sset x.d.toNat [p.2 (w.uni.sget x.a.toNat) (w.uni.sget x.b.toNat)]
         else w.uni) w.next) ∧
    (∀ p ∈ saluPairs, sOk w x.d.toNat 2 2 = true → sOk w x.a.toNat 2 2 = true → sOk w x.b.toNat 2 2 = true →
      let r := p.2 (w.uni.spair x.a.toNat) (w.uni.spair x.b.toNat)
      UniEffect (p.1 x) s w
        (if w.uni.cget x.c.toNat then w.uni.sset x.d.toNat [r.extractLsb' 0 32, r.extractLsb' 32 32] else w.uni) w.next)) ∧
  (∀ (x : Sv2s) (s : State) (w : Who) (g : Group) (th : Thread), IssuesUni s w → w.grp = some g →
    w.uni.cget x.c.toNat = true → g.thread? x.l.toNat = some th →
    let owed := fun (n : Nat) => th.owes x.a.toNat n || g.chainWrites x.l.toNat x.a.toNat n
    (owed 1 = true → x.p = false → sOk w x.d.toNat 1 1 = true → w.mayName x.a 1 → exec (.sv2s x) s = .next s) ∧
    (owed 2 = true → x.p = true → sOk w x.d.toNat 2 2 = true → w.mayName x.a 2 → exec (.sv2s x) s = .next s) ∧
    (owed 1 = false → x.p = false → sOk w x.d.toNat 1 1 = true → w.mayName x.a 1 →
      UniEffect (.sv2s x) s w (w.uni.sset x.d.toNat [th.vget x.a.toNat]) w.next) ∧
    (owed 2 = false → x.p = true → sOk w x.d.toNat 2 2 = true → w.mayName x.a 2 →
      UniEffect (.sv2s x) s w (w.uni.sset x.d.toNat [th.vget x.a.toNat, th.vget (x.a.toNat + 1)]) w.next))

/-- R176, R182, R219: the immediate forms; SMOVHI keeps bits 12:0. -/
def Obligations.ScalarImmediates : Prop :=
  ∀ (s : State) (w : Who), IssuesUni s w →
    (∀ x : UI, sOk w x.d.toNat 1 1 = true → sOk w x.a.toNat 1 1 = true →
      let a := w.uni.sget x.a.toNat
      UniEffect (.saddi x) s w (w.uni.sset x.d.toNat [a + x.i.signExtend 32]) w.next ∧
      UniEffect (.sandi x) s w (w.uni.sset x.d.toNat [a &&& x.i.setWidth 32]) w.next ∧
      UniEffect (.sori x) s w (w.uni.sset x.d.toNat [a ||| x.i.setWidth 32]) w.next) ∧
    (∀ x : SShI, sOk w x.d.toNat 1 1 = true → sOk w x.a.toNat 1 1 = true →
      let a := w.uni.sget x.a.toNat
      UniEffect (.sshi x) s w
        (w.uni.sset x.d.toNat
          [if x.k = 0 then a <<< x.n else if x.k = 1 then a >>> x.n else if x.k = 2 then a.sshiftRight' x.n
           else a.rotateLeft x.n.toNat]) w.next) ∧
    (∀ x : UW, sOk w x.d.toNat 1 1 = true →
      UniEffect (.smovi x) s w (w.uni.sset x.d.toNat [x.i.signExtend 32]) w.next ∧
      UniEffect (.smovhi x) s w
        (w.uni.sset x.d.toNat [(x.i.setWidth 32 <<< 13) ||| (w.uni.sget x.d.toNat &&& 0x1FFF)]) w.next)

/-- The SFLT arithmetic on registers (R204, R220). -/
def Sys2Proof.Machine.sflt : List ((UR → Instr) × (FCtl → Nat → Nat → Nat → FRes)) :=
  [(.sfltFadd, fun c a b _ => fmtF32.add c a b), (.sfltFmul, fun c a b _ => fmtF32.mul c a b),
   (.sfltFfma, fun c a b d => fmtF32.fma c a b d)]

/-- The SFLT arithmetic on pairs. -/
def Sys2Proof.Machine.sfltPairs : List ((UR → Instr) × (FCtl → Nat → Nat → Nat → FRes)) :=
  [(.sfltDadd, fun c a b _ => fmtF64.add c a b), (.sfltDmul, fun c a b _ => fmtF64.mul c a b),
   (.sfltDfma, fun c a b d => fmtF64.fma c a b d)]

/-- R172, R183, R185, R220: SCMP writes c(d) with an integer condition on registers or pairs, SCOP with a combination of
two conditions, where the guard condition holds. R111, R220: with its condition true and no enabled flag raised, SFLT
writes its rounded value or its condition and merges its flags into the issuing agent's GFLAGS. -/
def Obligations.ScalarConditionsAndFloat : Prop :=
  (∀ (s : State) (w : Who), IssuesUni s w →
    (∀ x : SCmp, x.d ≠ 0 → x.p = false → sOk w x.a.toNat 1 1 = true → sOk w x.b.toNat 1 1 = true →
      UniEffect (.scmp x) s w
        (if w.uni.cget x.c.toNat then
          w.uni.cset x.d.toNat (cond32 x.k (w.uni.sget x.a.toNat) (w.uni.sget x.b.toNat)) else w.uni) w.next) ∧
    (∀ x : SCmp, x.d ≠ 0 → x.p = true → sOk w x.a.toNat 2 2 = true → sOk w x.b.toNat 2 2 = true →
      w.uni.cget x.c.toNat = true →
      let a := w.uni.spair x.a.toNat
      let b := w.uni.spair x.b.toNat
      UniEffect (.scmp x) s w (w.uni.cset x.d.toNat
        (if x.k = 0 then a == b else if x.k = 1 then a != b else if x.k = 2 then a.slt b else if x.k = 3 then a.sle b
         else if x.k = 4 then b.slt a else if x.k = 5 then b.sle a else if x.k = 6 then a.ult b else a.ule b)) w.next) ∧
    (∀ x : SCop, x.d ≠ 0 →
      UniEffect (.scop x) s w
        (if w.uni.cget x.c.toNat then
          w.uni.cset x.d.toNat (logic x.o (w.uni.cget x.x.toNat) (w.uni.cget x.y.toNat)) else w.uni) w.next)) ∧
  (∀ (s : State) (w : Who), IssuesUni s w →
    let c := FCtl.ofGctl w.uni.gctl
    let n32 := fun (r : BitVec 6) => (w.uni.sget r.toNat).toNat
    let n64 := fun (r : BitVec 6) => (w.uni.spair r.toNat).toNat
    (∀ x : UR, w.uni.cget x.c.toNat = true →
      (∀ p ∈ sflt, sOk w x.d.toNat 1 1 = true → sOk w x.a.toNat 1 1 = true → sOk w x.b.toNat 1 1 = true →
        let r := p.2 c (n32 x.a) (n32 x.b) (n32 x.d)
        r.flags &&& w.uni.te = 0 →
        UniEffect (p.1 x) s w ((w.uni.sset x.d.toNat [BitVec.ofNat 32 r.val]).merge r.flags) w.next) ∧
      (∀ p ∈ sfltPairs, sOk w x.d.toNat 2 2 = true → sOk w x.a.toNat 2 2 = true → sOk w x.b.toNat 2 2 = true →
        let r := p.2 c (n64 x.a) (n64 x.b) (n64 x.d)
        r.flags &&& w.uni.te = 0 →
        let v := BitVec.ofNat 64 r.val
        UniEffect (p.1 x) s w
          ((w.uni.sset x.d.toNat [v.extractLsb' 0 32, v.extractLsb' 32 32]).merge r.flags) w.next)) ∧
    (∀ x : SFCmp, x.d ≠ 0 → w.uni.cget x.c.toNat = true →
      (sOk w x.a.toNat 1 1 = true → sOk w x.b.toNat 1 1 = true →
        let r := fmtF32.compare c x.k.toNat (n32 x.a) (n32 x.b)
        r.2 &&& w.uni.te = 0 → UniEffect (.sfltFcmp x) s w ((w.uni.cset x.d.toNat r.1).merge r.2) w.next) ∧
      (sOk w x.a.toNat 2 2 = true → sOk w x.b.toNat 2 2 = true →
        let r := fmtF64.compare c x.k.toNat (n64 x.a) (n64 x.b)
        r.2 &&& w.uni.te = 0 → UniEffect (.sfltDcmp x) s w ((w.uni.cset x.d.toNat r.1).merge r.2) w.next)))

/-- R222 BRV: every lane votes by its predicate, or by the inverse, or always; each taken lane goes to the target, each
other to the next word, and the outcome (all, none, some) is counted once. R225: SBR moves the whole fragment or the
control thread where c(c), or its inverse, holds; SCALL links and jumps; SJMP and SJMP.RET jump to bits 55:0 of their pair
where their condition holds, here aligned. -/
def Obligations.Branches : Prop :=
  (∀ (x : LB) (s : State) (w : Who) (g : Group), Issues s w g → ¬(x.p = 0 ∧ x.i = true) →
    let take := fun (th : Thread) => if x.p = 0 then true else th.pget x.p.toNat ^^ x.i
    let out := if w.threads.all fun q => take q.2 then 1 else if w.threads.all fun q => !take q.2 then 2 else 3
    (∀ l ∈ w.lanes, (g.thread? l).isSome) →
    ∃ t, exec (.brv x) s = .next t ∧ OnlyGroup (s.countEvent out 1) t w.blk.id g.num ∧
      t.group? w.blk.id g.num =
        some (g.modLanes w.lanes fun _ th => { th with pc := if take th then target w.pc x.o.toInt else w.next })) ∧
  (∀ (s : State) (w : Who), IssuesUni s w →
    (∀ x : UB, ¬(x.c = 0 ∧ x.i = true) →
      UniEffect (.sbr x) s w w.uni (if w.uni.cget x.c.toNat ^^ x.i then target w.pc x.o.toInt else w.next)) ∧
    (∀ x : UW, sOk w x.d.toNat 2 2 = true →
      UniEffect (.scall x) s w
        (w.uni.sset x.d.toNat [(BitVec.ofNat 64 w.next).extractLsb' 0 32, (BitVec.ofNat 64 w.next).extractLsb' 32 32])
        (target w.pc x.i.toInt)) ∧
    (∀ c ∈ [Instr.sjmp, .sjmpRet], ∀ x : Ua, sOk w x.a.toNat 2 2 = true → (w.uni.spair x.a.toNat).toNat % 4 = 0 →
      UniEffect (c x) s w w.uni
        (if w.uni.cget x.c.toNat then (w.uni.spair x.a.toNat).toNat % 2 ^ 56 else w.next)))

-- Loads, stores and atomics.

/-- The lane loads (R228): bytes accessed, registers written, and their words from the bytes read. -/
def Sys2Proof.Machine.loads : List ((LM → Instr) × Nat × Nat × ((Nat → Byte) → List Word)) :=
  [(.ldb, 1, 1, fun b => [(b 0).signExtend 32]), (.ldbu, 1, 1, fun b => [(b 0).setWidth 32]),
   (.ldh, 2, 1, fun b => [(b 1 ++ b 0).signExtend 32]), (.ldhu, 2, 1, fun b => [(b 1 ++ b 0).setWidth 32]),
   (.ldw, 4, 1, fun b => [wordOf b 0]), (.ldd, 8, 2, fun b => [wordOf b 0, wordOf b 4]),
   (.ldq, 16, 4, fun b => [wordOf b 0, wordOf b 4, wordOf b 8, wordOf b 12])]

/-- The lane stores: bytes accessed and registers read. -/
def Sys2Proof.Machine.stores : List ((LM → Instr) × Nat × Nat) :=
  [(.stb, 1, 1), (.sth, 2, 1), (.stw, 4, 1), (.std, 8, 2), (.stq, 16, 4)]

/-- The pointer of a lane's access: pair a with the offset scaled by the access size (R177, R229). -/
def Sys2Proof.Machine.lanePtr (w : Who) (x : LM) (n l : Nat) (th : Thread) : DWord :=
  ptrAdd (readSrc64 w l th x.a.toNat) (x.o.toInt * n)

/-- R125, R228, R229: a load from AB, WB, CLS or the mailbox gives each lane whose guard holds the bytes that stand at its
place, extended as the instruction says; no byte of memory changes. Nothing waits in the write queues (StoreOrdering has that).
Model's choices it rests on: log 52 and 79. -/
def Obligations.BufferLoads : Prop :=
  ∀ e ∈ loads, ∀ (x : LM) (s : State) (w : Who) (g : Group), Issues s w g → s.wq = {} → s.poison = [] →
    w.blk.regions = [] → w.mayRead x.a 2 → w.mayName x.d e.2.2.1 →
    (∀ q ∈ w.on x.g, s.bufferOk w .lsu .read e.2.1 (lanePtr w x e.2.1 q.1 q.2) ∧ q.2.inTask w.grid.desc = false) →
    ∃ t, exec (e.1 x) s = .next t ∧ OnlyGroup { s with seq := s.seq + (w.on x.g).length } t w.blk.id g.num ∧
      t.group? w.blk.id g.num = some (g.modLanes w.lanes fun l th =>
        if th.guard x.g then
          let k := s.bufKey w g.num l (lanePtr w x e.2.1 l th)
          let v := setRegs th.v x.d.toNat (e.2.2.2 fun i => memGet s.mem (k + i))
          { th with pc := w.next, v := v, skipWatch := false }
        else { th with pc := w.next })

/-- R82, R125, R228, R229: a store to AB, WB, CLS or the mailbox writes each lane's bytes at its place, in ascending lane
order; every byte outside the stored ones keeps its value, and no register changes. R237 MCST to a buffer: as a plain
store of 4, 8 or 16 bytes with no offset. Model's choices it rests on: log 52 and 79. -/
def Obligations.BufferStores : Prop :=
  (∀ e ∈ stores, ∀ (x : LM) (s : State) (w : Who) (g : Group), Issues s w g → s.wq = {} → s.poison = [] →
    w.blk.regions = [] → Memory.wf s.mem = true → w.mayRead x.a 2 → w.mayName x.d e.2.2 →
    (∀ q ∈ w.on x.g, s.bufferOk w .lsu .write e.2.1 (lanePtr w x e.2.1 q.1 q.2) ∧ q.2.inTask w.grid.desc = false) →
    let key := fun (q : Nat × Thread) => s.bufKey w g.num q.1 (lanePtr w x e.2.1 q.1 q.2)
    ∃ t, exec (e.1 x) s = .next t ∧
      t.mem = (w.on x.g).foldl (fun m q => memWrite m (key q) ((List.range e.2.1).map (q.2.byteOf x.d))) s.mem ∧
      (∀ a, (∀ q ∈ w.on x.g, a < key q ∨ key q + e.2.1 ≤ a) → memGet t.mem a = memGet s.mem a) ∧
      (∀ q, w.on x.g = [q] → ∀ i, i < e.2.1 → memGet t.mem (key q + i) = q.2.byteOf x.d i) ∧
      OnlyGroup { s with seq := s.seq + (w.on x.g).length, mem := t.mem } t w.blk.id g.num ∧
      t.group? w.blk.id g.num = some (g.modLanes w.lanes fun _ th =>
        if th.guard x.g then { th with pc := w.next, skipWatch := false } else { th with pc := w.next })) ∧
  (∀ e ∈ [(Instr.mcstW, 4, 1), (.mcstD, 8, 2), (.mcstQ, 16, 4)], ∀ (x : Mcst) (s : State) (w : Who) (g : Group),
    Issues s w g → s.wq = {} → s.poison = [] → w.blk.regions = [] → Memory.wf s.mem = true →
    w.mayRead x.a 2 → w.mayName x.d e.2.2 →
    let p := fun (q : Nat × Thread) => readSrc64 w q.1 q.2 x.a.toNat
    (∀ q ∈ w.on x.g, s.bufferOk w .lsu .write e.2.1 (p q) ∧ q.2.inTask w.grid.desc = false) →
    ∃ t, exec (e.1 x) s = .next t ∧
      (∀ a, (∀ q ∈ w.on x.g, a < s.bufKey w g.num q.1 (p q) ∨ s.bufKey w g.num q.1 (p q) + e.2.1 ≤ a) →
        memGet t.mem a = memGet s.mem a) ∧
      (∀ q, w.on x.g = [q] → ∀ i, i < e.2.1 → memGet t.mem (s.bufKey w g.num q.1 (p q) + i) = q.2.byteOf x.d i) ∧
      OnlyGroup { s with seq := s.seq + (w.on x.g).length, mem := t.mem } t w.blk.id g.num ∧
      t.group? w.blk.id g.num = some (g.modLanes w.lanes fun _ th =>
        if th.guard x.g then { th with pc := w.next, skipWatch := false } else { th with pc := w.next }))

/-- The words of CB containers from a place on, two a container (R21): the cell's 40 bits, zeros above. -/
def Sys2Proof.Machine.cellWords (m : List Host.Cell) (k : Nat) : Nat → List Word
  | 0 => []
  | n + 1 => wordOf (fun i => memGet m (k + i)) 0 :: (memGet m (k + 4)).setWidth 32 :: cellWords m (k + 8) n

/-- R25, R71, R115, R120, R121: one lane's plain access to GLOBAL or PRIV, its translation held, its line not in the
core's L1 and a way of its set free there: a load gives the domain's own pending bytes over the home's; a store makes its
bytes pending in the domain and writes no byte of memory. Beside the caches, and what the stacks count, nothing else
changes. A PRIV access is that to the lane's own 64 KiB of its block's backing (its place there is log 10's choice). R26:
one lane's load from CONST gives zeros where the grid declares no byte: all of a bank it does not name, and past its
argument block's length. A byte load of a byte it declares gives the domain's view of the grid's global byte.
Model's choices it rests on: log 10, 70 and 78. -/
def Obligations.GlobalAccess : Prop :=
  (∀ (x : LM) (s : State) (w : Who) (g : Group) (q : Nat × Thread) (k mt : Nat) (copies : List Nat), Issues s w g →
    s.wq = {} → s.poison = [] → (s.coreHw w.core).wps = [] →
    (∀ l ∈ (s.coreHw w.core).l1, l.line ≠ k / 128 ∧ (l.keep = true → l.dom = none)) →
    ((s.coreHw w.core).l1.filter (L1Line.inSet (s.ctxFn w.ctx) (k / 128))).length < s.l1Ways w.core (s.ctxFn w.ctx) →
    (∀ p ∈ s.pend w.blk.id w.rank, p.bad = false) → w.rank < w.blk.doms.length →
    w.mayRead x.a 2 → w.on x.g = [q] → q.2.inTask w.grid.desc = false →
    let own := fun (u : State) j => pendGet (u.pend w.blk.id w.rank) j
    let stands := fun (p : DWord) =>
      (ptrSpace p = 0 ∧ s.globPlace w.site (ptrOff p) false = (s, .ok (.glob k copies mt false))) ∨
        (ptrSpace p = 6 ∧ s.globPlace w.site
          (w.blk.priv.getD 0 + (g.num * 32 + q.1) * 2 ^ 16 + ptrOff p % 2 ^ 16) true = (s, .ok (.glob k copies mt true)))
    (∀ e ∈ loads, w.mayName x.d e.2.2.1 →
      let p := lanePtr w x e.2.1 q.1 q.2
      s.checkAccess w.site .lsu .read p e.2.1 = none → stands p →
      ∃ t, exec (e.1 x) s = .next t ∧
        OnlyGroup { s with seq := s.seq + 1, cores := t.cores, clusters := t.clusters, dies := t.dies, sketches := t.sketches }
          t w.blk.id g.num ∧
        ∃ th', t.thread? ⟨w.blk.id, g.num, q.1⟩ = some th' ∧ th'.pc = w.next ∧
          th'.v = setRegs q.2.v x.d.toNat (e.2.2.2 fun i => (own s (k + i)).getD (memGet s.mem (k + i)))) ∧
    (∀ e ∈ stores, w.mayName x.d e.2.2 →
      let p := lanePtr w x e.2.1 q.1 q.2
      s.checkAccess w.site .lsu .write p e.2.1 = none → stands p →
      ∃ t, exec (e.1 x) s = .next t ∧ t = { s with seq := s.seq + 1, blocks := t.blocks, cores := t.cores } ∧
        (∀ j, own t j = if k ≤ j ∧ j < k + e.2.1 then some (q.2.byteOf x.d (j - k)) else own s j) ∧
        (∀ b, b ≠ w.blk.id → t.block? b = s.block? b) ∧
        ∃ th', t.thread? ⟨w.blk.id, g.num, q.1⟩ = some th' ∧ th'.pc = w.next ∧ th'.v = q.2.v)) ∧
  (∀ (x : LM) (s : State) (w : Who) (g : Group) (q : Nat × Thread), Issues s w g → s.wq = {} → s.poison = [] →
    w.mayRead x.a 2 → w.on x.g = [q] → q.2.inTask w.grid.desc = false →
    let d := w.grid.desc
    let gives := fun (u t : State) v => OnlyGroup u t w.blk.id g.num ∧ ∃ th', t.thread? ⟨w.blk.id, g.num, q.1⟩ = some th' ∧
      th'.pc = w.next ∧ th'.v = setRegs q.2.v x.d.toNat v
    (∀ e ∈ loads, w.mayName x.d e.2.2.1 →
      let p := lanePtr w x e.2.1 q.1 q.2
      ptrSpace p = 7 → s.checkAccess w.site .lsu .read p e.2.1 = none →
      (ptrOff p + e.2.1 ≤ 0x10000 ∧ d.constPtr = 0 ∨ 0x10000 + d.argLen ≤ ptrOff p ∧ 0x10000 ≤ ptrOff p) →
      ∃ t, exec (e.1 x) s = .next t ∧ gives s t (e.2.2.2 fun _ => 0)) ∧
    (∀ (k mt : Nat) (copies : List Nat), w.mayName x.d 1 →
      (∀ l ∈ (s.coreHw w.core).l1, l.line ≠ k / 128) →
      ((s.coreHw w.core).l1.filter (L1Line.inSet (s.ctxFn w.ctx) (k / 128))).length < s.l1Ways w.core (s.ctxFn w.ctx) →
      (∀ p ∈ s.pend w.blk.id w.rank, p.bad = false) →
      let p := lanePtr w x 1 q.1 q.2
      let o := ptrOff p
      ptrSpace p = 7 → s.checkAccess w.site .lsu .read p 1 = none →
      (o < 0x10000 ∧ d.constPtr ≠ 0 ∧ s.globPlace w.site (d.constPtr % 2 ^ 56 + o) false = (s, .ok (.glob k copies mt false)) ∨
        0x10000 ≤ o ∧ o - 0x10000 < d.argLen ∧
          s.globPlace w.site (d.argPtr % 2 ^ 56 + (o - 0x10000)) false = (s, .ok (.glob k copies mt false))) →
      ∃ t, exec (.ldbu x) s = .next t ∧
        gives { s with seq := s.seq + 1, cores := t.cores, clusters := t.clusters, dies := t.dies, sketches := t.sketches } t
          [((pendGet (s.pend w.blk.id w.rank) k).getD (memGet s.mem k)).setWidth 32]))

/-- R21, R125, R228, R229: lane loads and stores of 8 and 16 bytes to CB containers, nothing waiting: a load gives each
cell's 40 bits with zeros above, a store keeps the low 40 bits of each 8 bytes and changes no other byte of memory. R81 to
R83, R87: one lane's store to GLOBAL memory of the HBM by a task of a versioned launch goes to its version, which its own
loads then see; no byte of memory, no pending byte and no other version changes. Where no version way is left the store is
not made: its version is discarded and the thread faults VERSION_OVERFLOW, which ends its item.
Model's choices it rests on: log 70. -/
def Obligations.CellAndTaskStores : Prop :=
  (∀ (x : LM) (s : State) (w : Who) (g : Group), Issues s w g → s.wq = {} → s.poison = [] → w.blk.regions = [] →
    Memory.wf s.mem = true → w.mayRead x.a 2 →
    let key := fun n (q : Nat × Thread) => s.cellPlace w g.num q.1 (lanePtr w x n q.1 q.2)
    let ok := fun op n => ∀ q ∈ w.on x.g, s.checkAccess w.site .lsu op (lanePtr w x n q.1 q.2) n = none ∧
      ptrSpace (lanePtr w x n q.1 q.2) = 3 ∧ q.2.inTask w.grid.desc = false
    (∀ e ∈ [(Instr.ldd, 8, 2), (.ldq, 16, 4)], w.mayName x.d e.2.2 → ok .read e.2.1 →
      ∃ t, exec (e.1 x) s = .next t ∧ OnlyGroup { s with seq := s.seq + (w.on x.g).length } t w.blk.id g.num ∧
        t.group? w.blk.id g.num = some (g.modLanes w.lanes fun l th =>
          if th.guard x.g then
            { th with pc := w.next, v := setRegs th.v x.d.toNat (cellWords s.mem (key e.2.1 (l, th)) (e.2.1 / 8)),
                      skipWatch := false }
          else { th with pc := w.next })) ∧
    (∀ e ∈ [(Instr.std, 8, 2), (.stq, 16, 4)], w.mayName x.d e.2.2 → ok .write e.2.1 →
      let hit := fun q a => ∃ c, c < e.2.1 / 8 ∧ key e.2.1 q + 8 * c ≤ a ∧ a < key e.2.1 q + 8 * c + 5
      ∃ t, exec (e.1 x) s = .next t ∧
        OnlyGroup { s with seq := s.seq + (w.on x.g).length, mem := t.mem } t w.blk.id g.num ∧
        (∀ a, (∀ q ∈ w.on x.g, ¬hit q a) → memGet t.mem a = memGet s.mem a) ∧
        (∀ q, w.on x.g = [q] → ∀ i, hit q (key e.2.1 q + i) → memGet t.mem (key e.2.1 q + i) = q.2.byteOf x.d i) ∧
        t.group? w.blk.id g.num = some (g.modLanes w.lanes fun _ th =>
          if th.guard x.g then { th with pc := w.next, skipWatch := false } else { th with pc := w.next }))) ∧
  (∀ e ∈ stores, ∀ (x : LM) (s : State) (w : Who) (g : Group) (q : Nat × Thread) (k : Nat) (copies : List Nat), Issues s w g →
    s.wq = {} → s.poison = [] → (s.coreHw w.core).wps = [] → w.mayRead x.a 2 → w.mayName x.d e.2.2 → w.on x.g = [q] →
    q.2.inTask w.grid.desc = true → k % 16 + e.2.1 ≤ 16 →
    let tag : ThreadRef := ⟨w.blk.id, g.num, q.1⟩
    let p := lanePtr w x e.2.1 q.1 q.2
    ptrSpace p = 0 → s.checkAccess w.site .lsu .write p e.2.1 = none → s.versLost tag = false →
    s.globPlace w.site (ptrOff p) false = (s, .ok (.glob k copies 0 false)) →
    (s.versRoom tag k = true →
      ∃ t, exec (e.1 x) s = .next t ∧
        OnlyGroup { s with seq := s.seq + 1, versions := t.versions, clusters := t.clusters, dies := t.dies,
                           sketches := t.sketches } t w.blk.id g.num ∧
        (∀ j, t.versByte (some tag) j = if k ≤ j ∧ j < k + e.2.1 then some (q.2.byteOf x.d (j - k)) else s.versByte (some tag) j) ∧
        (∀ u, u ≠ tag → t.versions.filter (·.tag == u) = s.versions.filter (·.tag == u)) ∧
        ∃ th', t.thread? tag = some th' ∧ th'.pc = w.next ∧ th'.v = q.2.v) ∧
    (s.versRoom tag k = false →
      ∃ t, exec (e.1 x) s = .next t ∧ t.mem = s.mem ∧ t.versions = s.versions.filter (·.tag != tag) ∧
        t.pend w.blk.id w.rank = s.pend w.blk.id w.rank ∧
        ∃ th', t.thread? tag = some th' ∧ th'.st = .trapped ∧ th'.pc = w.grid.desc.handler ∧ th'.v = q.2.v ∧
          th'.trap.cause = 0x0E ∧ th'.trap.itemEnd = true))

/-- R10, R13, R56: what CheckAccess answers for a lane's GLOBAL pointer, in this order: a rank that is not zero is
SPACE_FAULT, an offset no multiple of the size ALIGNMENT, a byte outside the leases LEASE_VIOLATION, and otherwise the
access passes. R10, R229, R343: where every guarded lane's access fails its checks with one cause, the load or store
writes nothing: each such lane stands at the handler with the cause and its registers as they were, the others go on, and
no byte of memory changes. -/
def Obligations.AccessFaults : Prop :=
  (∀ (s : State) (w : Who) (op : Acc) (p : DWord), ∀ n ∈ [1, 2, 4, 8, 16], ptrSpace p = 0 →
    s.checkAccess w.site .lsu op p n =
      if ptrRank p ≠ 0 then some .spaceFault
      else if ptrOff p % n ≠ 0 then some .alignment
      else if w.grid.leased op.right (ptrOff p) n then none else some .leaseViolation) ∧
  (∀ e ∈ loads.map (fun e => (e.1, e.2.1, e.2.2.1, Acc.read)) ++ stores.map (fun e => (e.1, e.2.1, e.2.2, Acc.write)),
    ∀ (x : LM) (s : State) (w : Who) (g : Group) (c : Cause), Issues s w g → w.mayRead x.a 2 → w.mayName x.d e.2.2.1 →
    (∀ q ∈ w.on x.g, s.checkAccess w.site .lsu e.2.2.2 (lanePtr w x e.2.1 q.1 q.2) e.2.1 = some c ∧ q.2.st = .running) →
    ∃ t, exec (e.1 x) s = .next t ∧ t.mem = s.mem ∧
      ∀ l ∈ w.lanes, ∀ th, g.thread? l = some th → ∃ th', t.thread? ⟨w.blk.id, g.num, l⟩ = some th' ∧ th'.v = th.v ∧
        (if th.guard x.g then
          th'.st = .trapped ∧ th'.pc = w.grid.desc.handler ∧ th'.trap.cause = c.code ∧ th'.trap.nest = false
         else th' = { th with pc := w.next }))

/-- What an atomic leaves in memory (R234), for 32 and 64 bits. -/
def Sys2Proof.Machine.atomOp {n : Nat} (f : BitVec 3) (old data swap : BitVec n) : BitVec n :=
  if f = 0 then old + data else if f = 1 then (if data.slt old then data else old)
  else if f = 2 then (if data.slt old then old else data) else if f = 3 then old &&& data
  else if f = 4 then old ||| data else if f = 5 then old ^^^ data else if f = 6 then data
  else if old = data then swap else old

/-- R119, R178, R234: one lane's 32-bit or 64-bit atomic on a buffer or mailbox place, in each of its four orders, nothing
being pending: d takes the old value, the place the new one, and no byte outside it changes. -/
def Obligations.LaneAtomics : Prop :=
  ∀ c ∈ [Instr.atom, .atomAcq, .atomRel, .atomAr], ∀ (x : Atm) (s : State) (w : Who) (g : Group) (q : Nat × Thread),
    Issues s w g → s.wq = {} → s.poison = [] → w.blk.regions = [] → Memory.wf s.mem = true → s.pend w.blk.id w.rank = [] →
    w.mayRead x.a 2 → w.on x.g = [q] → q.2.inTask w.grid.desc = false →
    let n := if x.b.getLsbD 0 then 8 else 4
    let r := x.b.toNat / 2 * 2
    let p := readSrc64 w q.1 q.2 x.a.toNat
    let k := s.bufKey w g.num q.1 p
    w.mayName x.d (n / 4) → vOk w.grid.desc r (if x.f = 7 then n / 2 else n / 4) = true →
    s.bufferOk w .lsu .atomic n p →
    ∃ t, exec (c x) s = .next t ∧ OnlyGroup { s with mem := t.mem, seq := t.seq, cores := t.cores } t w.blk.id g.num ∧
      (∀ a, a < k ∨ k + n ≤ a → memGet t.mem a = memGet s.mem a) ∧
      ∃ th', t.thread? ⟨w.blk.id, g.num, q.1⟩ = some th' ∧ th'.pc = w.next ∧
        (n = 4 →
          let old := wordOf (fun i => memGet s.mem (k + i)) 0
          th'.v = q.2.v.set x.d.toNat old ∧
            wordOf (fun i => memGet t.mem (k + i)) 0 = atomOp x.f old (q.2.vget r) (q.2.vget (r + 1))) ∧
        (n = 8 →
          let at_ := fun (m : List Host.Cell) => (wordOf (fun i => memGet m (k + i)) 4 ++ wordOf (fun i => memGet m (k + i)) 0 :
            BitVec (32 + 32))
          th'.v = (q.2.putPair x.d (at_ s.mem)).v ∧
            at_ t.mem = atomOp (n := 64) x.f (at_ s.mem) (q.2.vget (r + 1) ++ q.2.vget r : BitVec (32 + 32))
              (q.2.vget (r + 3) ++ q.2.vget (r + 2) : BitVec (32 + 32)))

/-- R233, R234: the uniform loads, stores and atomics of both widths, for a fragment and a control thread alike, on buffer and mailbox
places: the issuer's registers, the bytes at the place, and nothing else. -/
def Obligations.UniformAccess : Prop :=
  ∀ (s : State) (w : Who), IssuesUni s w → s.wq = {} → s.poison = [] → w.blk.regions = [] → Memory.wf s.mem = true →
    s.pend w.blk.id w.rank = [] →
    let at_ := fun (m : List Host.Cell) (k i : Nat) => wordOf (fun j => memGet m (k + j)) i
    (∀ e ∈ [(Instr.sldw, 4), (.sldd, 8)], ∀ x : UI, sOk w x.a.toNat 2 2 = true → sOk w x.d.toNat (e.2 / 4) (e.2 / 4) = true →
      let p := ptrAdd (w.uni.spair x.a.toNat) (x.i.toInt * e.2)
      s.bufferOk w .ctl .read e.2 p →
      let k := s.bufKey w 0 0 p
      ∃ t, exec (e.1 x) s = .next t ∧
        OnlyIssuer { s with seq := s.seq + 1 } t w
          (w.uni.sset x.d.toNat (if e.2 = 4 then [at_ s.mem k 0] else [at_ s.mem k 0, at_ s.mem k 4])) w.next) ∧
    (∀ e ∈ [(Instr.sstw, 4), (.sstd, 8)], ∀ x : UI, sOk w x.a.toNat 2 2 = true → sOk w x.d.toNat (e.2 / 4) (e.2 / 4) = true →
      let p := ptrAdd (w.uni.spair x.a.toNat) (x.i.toInt * e.2)
      s.bufferOk w .ctl .write e.2 p →
      let k := s.bufKey w 0 0 p
      ∃ t, exec (e.1 x) s = .next t ∧ OnlyIssuer { s with seq := s.seq + 1, mem := t.mem } t w w.uni w.next ∧
        (∀ a, a < k ∨ k + e.2 ≤ a → memGet t.mem a = memGet s.mem a) ∧
        at_ t.mem k 0 = w.uni.sget x.d.toNat ∧ (e.2 = 8 → at_ t.mem k 4 = w.uni.sget (x.d.toNat + 1))) ∧
    (∀ c ∈ [Instr.satom, .satomAr], ∀ x : SAtm, w.uni.cget x.c.toNat = true → x.b.getLsbD 0 = true →
      let r := x.b.toNat / 2 * 2
      sOk w x.a.toNat 2 2 = true → sOk w x.d.toNat 2 2 = true →
      sOk w r (if x.f = 7 then 4 else 2) (if x.f = 7 then 4 else 2) = true →
      let p := w.uni.spair x.a.toNat
      s.bufferOk w .ctl .atomic 8 p →
      let k := s.bufKey w 0 0 p
      let both := fun (m : List Host.Cell) => (at_ m k 4 ++ at_ m k 0 : BitVec (32 + 32))
      let pair := fun i => (w.uni.sget (i + 1) ++ w.uni.sget i : BitVec (32 + 32))
      ∃ t, exec (c x) s = .next t ∧
        OnlyIssuer { s with mem := t.mem, seq := t.seq, cores := t.cores } t w
          (w.uni.sset x.d.toNat [at_ s.mem k 0, at_ s.mem k 4]) w.next ∧
        (∀ a, a < k ∨ k + 8 ≤ a → memGet t.mem a = memGet s.mem a) ∧
        both t.mem = atomOp (n := 64) x.f (both s.mem) (pair r) (pair (r + 2))) ∧
    (∀ c ∈ [Instr.satom, .satomAr], ∀ x : SAtm, w.uni.cget x.c.toNat = true → x.b.getLsbD 0 = false →
      sOk w x.a.toNat 2 2 = true → sOk w x.d.toNat 1 1 = true →
      sOk w x.b.toNat (if x.f = 7 then 2 else 1) (if x.f = 7 then 2 else 1) = true →
      let p := w.uni.spair x.a.toNat
      s.bufferOk w .ctl .atomic 4 p →
      let k := s.bufKey w 0 0 p
      ∃ t, exec (c x) s = .next t ∧
        OnlyIssuer { s with mem := t.mem, seq := t.seq, cores := t.cores } t w
          (w.uni.sset x.d.toNat [at_ s.mem k 0]) w.next ∧
        (∀ a, a < k ∨ k + 4 ≤ a → memGet t.mem a = memGet s.mem a) ∧
        at_ t.mem k 0 = atomOp x.f (at_ s.mem k 0) (w.uni.sget x.b.toNat) (w.uni.sget (x.b.toNat + 1)))

-- Convergence, barriers, refill, waits.

/-- R239, R240, R245 to R249: JOIN, GBAR, PHASE.CLOSE and FENCE.SYS bring the fragment to their waits; FENCE.BLK and
FENCE.DEV go on; PHASE.OPEN goes on after dropping the context's clean lines but RO, CONST and PRIV ones from the core's
L1, and of a line that holds pending bytes all but these (log 78: R72 keeps such a line, R121 wants no older byte of it
read); PHINT goes on, and stands for a pending soft pre-emption. No register and no byte of memory changes, where nothing
waits in the write queues (StoreOrdering has what the fences do there). R238 NOP: nothing but the program counter changes,
outside a chain. Model's choices it rests on: log 78. -/
def Obligations.SyncIssue : Prop :=
  (∀ (s : State) (w : Who) (g : Group), Issues s w g →
    let goes := fun (i : Instr) (f : Thread → Thread) =>
      ∃ t, exec i s = .next t ∧ OnlyGroup s t w.blk.id g.num ∧
        t.group? w.blk.id g.num = some (g.modLanes w.lanes fun _ th => f th)
    goes .join (fun th => { th with wait := .join }) ∧
    (s.wq = {} → goes .gbar (fun th => { th with wait := .gbar })) ∧
    goes .phaseClose (fun th => { th with wait := .close }) ∧
    goes .fenceSys (fun th => { th with wait := .fence }) ∧
    (s.wq = {} → goes .fenceBlk (fun th => { th with pc := w.next }) ∧ goes .fenceDev fun th => { th with pc := w.next }) ∧
    (s.wq = {} → ∃ t, exec .phaseOpen s = .next t ∧ OnlyGroup { s with seq := s.seq + 1, cores := t.cores } t w.blk.id g.num ∧
      t.group? w.blk.id g.num = some (g.modLanes w.lanes fun _ th => { th with pc := w.next }) ∧
      (∀ c, c ≠ w.core → t.coreHw c = s.coreHw c) ∧
      t.coreHw w.core = { s.coreHw w.core with
        l1 := dropClean (fun l => l.ctx == w.ctx && !(l.ro || l.const || l.priv)) (s.coreHw w.core).l1 }) ∧
    (∀ x : PhI, s.recordOk w x.i.toNat = true → goes (.phint x) fun th =>
      let soft := match w.blk.pre with
        | .soft _ => true
        | _ => false
      { th with pc := w.next, wait := if soft && th.st == .running then .phint x.i.toNat else th.wait })) ∧
  (∀ (x : Nop) (s : State) (w : Who) (g : Group), Issues s w g → x.h = false →
    LaneEffect (.nop x) s w g (fun _ th => th) 0)

/-- R239, R240, R128, R120: once every Present thread of a group waits and one is at JOIN, all JOINs release; once all stand at
one GBAR, it completes; a fragment leaves FENCE.SYS where its context has no write on the way; PHASE.CLOSE of a member that holds no region publishes what its domain has
pending and goes on. Each released thread stands at the next word. -/
def Obligations.Releases : Prop :=
  ∀ (s : State) (b : Nat) (g : Group),
    (∀ x : GroupRef, x.block = b → s.group? b x.group = some g →
      (g.joinReady = true → ∃ t, exec (.joinRelease x) s = .next t ∧ OnlyGroup s t b x.group ∧
        t.group? b x.group = some (g.modLanes (List.range 32) fun _ th =>
          if th.present && th.wait == .join then { th with wait := .none, pc := (th.pc + 4) % 2 ^ 56 } else th)) ∧
      (g.gbarReady = true → s.wq = {} → ∃ t, exec (.gbarComplete x) s = .next t ∧ OnlyGroup s t b x.group ∧
        t.group? b x.group = some (g.modLanes (List.range 32) fun _ th =>
          if th.present && th.wait == .gbar then { th with wait := .none, pc := (th.pc + 4) % 2 ^ 56 } else th))) ∧
    (∀ (x : ThreadRef) (th : Thread), x.block = b → s.group? b x.group = some g → g.thread? x.lane = some th →
      (th.wait = .fence → s.wq = {} → (∀ u ∈ s.blocks, s.blockCtx u.id = s.blockCtx b → u.regions = [] ∧ u.committing = []) → ∃ t, exec (.fenceSysComplete x) s = .next t ∧ OnlyGroup s t b x.group ∧
        t.group? b x.group = some (g.modLanes (List.range 32) fun _ u =>
          if u.wait == .fence && u.pc == th.pc then { u with wait := .none, pc := (u.pc + 4) % 2 ^ 56 } else u)) ∧
      (th.wait = .close → ∀ blk, s.block? b = some blk → blk.regions = [] → Memory.wf s.mem = true →
        s.wq = {} → let pend := s.pend b (blk.rankOf x.group)
        (∀ y ∈ pend, y.copies = []) → (pend.map (·.key)).Nodup →
        ∃ t, exec (.phaseCloseComplete x) s = .next t ∧ t.pend b (blk.rankOf x.group) = [] ∧
          (∀ a, memGet t.mem a = (pendGet pend a).getD (memGet s.mem a)) ∧
          t.group? b x.group = some (g.modLanes (List.range 32) fun _ u =>
            if u.wait == .close && u.pc == th.pc then { u with wait := .none, pc := (u.pc + 4) % 2 ^ 56 } else u)))

/-- R78, R118, R119, R127, R128, R138: where stores wait, a store of one lane to AB, WB, CLS or the mailbox writes no byte of memory
and joins the write queues behind all others; its lane's own load of the place gives the bytes it stored; one performed by itself
writes exactly its bytes, and passes no earlier store of its context to the location; a multicast's goes to its primary, and its
other copies stay in the queues. After FENCE.BLK no class-B store of the fragment waits, no class-B load of it has been read ahead
and no class-B access of it is late, after FENCE.DEV no class-D one either, and FENCE.SYS ends with no write of its context
waiting. A fragment of which no access is late goes on. Model's choices it rests on: log 76. -/
def Obligations.StoreOrdering : Prop :=
  ∀ (s : State) (w : Who) (g : Group), Issues s w g →
    let mine := fun (q : Nat) => Agent.frag w.blk.id g.num (maskOf [q])
    let own := fun (t : State) (cs : Nat → Bool) =>
      (∀ h ∈ t.wq.stores, agentsMeet h.owner w.agent = true → cs h.cls = false) ∧
        (∀ l ∈ t.wq.loads, agentsMeet l.owner w.agent = true → cs (placeCls l.key) = false) ∧
        ∀ l ∈ t.wq.late, agentsMeet l.owner w.agent = true → l.within cs = false
    (∀ e ∈ stores, ∀ (x : LM) (q : Nat × Thread), s.wq.hold = true → s.wq.loads = [] → s.wq.late = [] → w.blk.regions = [] → w.mayRead x.a 2 →
      w.mayName x.d e.2.2 → w.on x.g = [q] → q.2.inTask w.grid.desc = false →
      let p := lanePtr w x e.2.1 q.1 q.2
      let k := s.bufKey w g.num q.1 p
      s.bufferOk w .lsu .write e.2.1 p →
      ∃ t, exec (e.1 x) s = .next t ∧ OnlyGroup { s with seq := t.seq, wq := t.wq } t w.blk.id g.num ∧
        t.wq = { s.wq with stores := s.wq.stores ++
          [{ owner := mine q.1, ctx := w.ctx, fn := s.ctxFn w.ctx, cls := placeCls k,
             cells := [(k, (List.range e.2.1).map (q.2.byteOf x.d))] }] } ∧
        t.group? w.blk.id g.num = some (g.modLanes w.lanes fun _ th =>
          if th.guard x.g then { th with pc := w.next, skipWatch := false } else { th with pc := w.next })) ∧
    (∀ e ∈ loads, ∀ (x : LM) (q : Nat × Thread) (h : HeldStore) (bs : List Byte), s.wq.stores = [h] → s.wq.loads = [] →
      s.wq.late = [] → s.wq.slow = false → s.poison = [] → Memory.wf s.mem = true → w.blk.regions = [] → w.mayRead x.a 2 → w.mayName x.d e.2.2.1 → w.on x.g = [q] →
      q.2.inTask w.grid.desc = false →
      let p := lanePtr w x e.2.1 q.1 q.2
      let k := s.bufKey w g.num q.1 p
      s.bufferOk w .lsu .read e.2.1 p → h.owner = mine q.1 → h.cells = [(k, bs)] → h.copies = [] → bs.length = e.2.1 →
      ∃ t th', exec (e.1 x) s = .next t ∧ t.wq.stores = [] ∧ t.thread? ⟨w.blk.id, g.num, q.1⟩ = some th' ∧ th'.pc = w.next ∧
        th'.v = setRegs q.2.v x.d.toNat (e.2.2.2 fun i => bs.getD i 0)) ∧
    (∀ (i : Nat) (h : HeldStore) (k : Nat) (bs : List Byte), s.wq.stores[i]? = some h → h.cells = [(k, bs)] →
      h.begun = false → placeCls k ≠ clsP → Memory.wf s.mem = true →
      let early := ∃ (j : Nat) (f : HeldStore), j < i ∧ s.wq.stores[j]? = some f ∧ f.ctx = h.ctx ∧
        ∃ c ∈ h.cells ++ h.copies.flatten, f.overlaps c.1 c.2.length = true
      (early → s.performAt i = s) ∧
      (¬ early → (h.copies = [] → (s.performAt i).wq.stores = s.wq.stores.eraseIdx i) ∧
        (∀ c cs, h.copies = c :: cs →
          { h with cells := c, copies := cs, begun := true } ∈ (s.performAt i).wq.stores) ∧
        ∀ a, memGet (s.performAt i).mem a = if k ≤ a ∧ a < k + bs.length then bs.getD (a - k) 0 else memGet s.mem a)) ∧
    ((∃ t, exec .fenceBlk s = .next t ∧ own t (· == 0) ∧ (s.wq.late = [] →
        t.group? w.blk.id g.num = some (g.modLanes w.lanes fun _ th => { th with pc := w.next }))) ∧
      (∃ t, exec .fenceDev s = .next t ∧ own t (fun c => c == 0 || c == 1) ∧ (s.wq.late = [] →
        t.group? w.blk.id g.num = some (g.modLanes w.lanes fun _ th => { th with pc := w.next })))) ∧
    (∀ l th, g.thread? l = some th → th.wait = .fence → s.group? w.blk.id g.num = some g → s.grid? w.blk.grid = some w.grid →
      ∃ t, exec (.fenceSysComplete ⟨w.blk.id, g.num, l⟩) s = .next t ∧ ∀ h ∈ t.wq.stores, h.ctx ≠ w.ctx)

/-- R241: an arrival records the lanes in the barrier's mask for the group and remembers its instance in each thread; BAR
waits, BAR.ARRIVE goes on; the group has arrived once an arrival leaves no Present thread of it out, and the instance
completes exactly when every group has arrived or has no Present thread. BAR.WAIT passes where the arrival's instance is
over, else it waits; the waiting threads of a completed instance depart together. R241, R344: BAR.WAIT without an arrival
faults BARRIER_MISMATCH, DETAIL the barrier, at its own address. Model's choices it rests on: log 14 and 81. -/
def Obligations.BlockBarriers : Prop :=
  (∀ (s : State) (x : BarN), s.wq = {} →
    let n := x.n.toNat
    (∀ (w : Who) (g : Group) (bar : Barrier), Issues s w g → w.blk.bars[n]? = some bar → w.badArrivals n = [] →
      g.num < bar.masks.length → g.num < bar.arrived.length →
      let masks := modAt bar.masks g.num fun m => m ||| maskOf w.lanes
      let all := ∀ (i : Nat) (h : Group), w.blk.groups[i]? = some h → bar.arrived.getD i false = true ∨ h.presentLanes = [] ∨
        (i = g.num ∧ ∀ l ∈ g.presentLanes, bitOf (masks.getD i 0).toNat l = true)
      ∀ e ∈ [(Instr.bar x, true), (Instr.barArrive x, false)], ∃ (t : State) (bar' : Barrier), exec e.1 s = .next t ∧
        t = { s with blocks := t.blocks } ∧
        t.group? w.blk.id g.num = some (g.modLanes w.lanes fun _ th =>
          let a := th.arr.set n (some bar.inst)
          if e.2 then { th with arr := a, wait := .bar n } else { th with arr := a, pc := w.next }) ∧
        (t.block? w.blk.id).bind (·.bars[n]?) = some bar' ∧
        (all → bar'.inst = bar.inst + 1 ∧ ∀ m ∈ bar'.masks, m = 0) ∧
        (¬ all → bar'.inst = bar.inst ∧ bar'.masks = masks)) ∧
    (∀ (w : Who) (g : Group), Issues s w g → w.noArrival n = [] →
      ∃ t, exec (.barWait x) s = .next t ∧ OnlyGroup s t w.blk.id g.num ∧
        t.group? w.blk.id g.num = some (g.modLanes w.lanes fun _ th =>
          if w.blk.departs n th then { th with arr := th.arr.set n none, pc := w.next } else { th with wait := .bar n })) ∧
    (∀ (r : ThreadRef) (b : Block) (g : Group) (th : Thread), s.block? r.block = some b → b.group? r.group = some g →
      g.thread? r.lane = some th → th.wait = .bar n → b.departs n th = true →
      ∃ t, exec (.barrierDeparture r) s = .next t ∧ OnlyGroup s t r.block r.group ∧
        t.group? r.block r.group = some (g.modLanes (List.range 32) fun _ u =>
          if u.wait == .bar n && u.pc == th.pc && b.departs n u then
            { u with wait := .none, pc := (u.pc + 4) % 2 ^ 56, arr := u.arr.set n none }
          else u))) ∧
  (∀ (x : BarN) (s : State) (w : Who) (g : Group), Issues s w g → w.noArrival x.n.toNat = w.lanes →
    (∀ q ∈ w.threads, q.2.st = .running) →
    ∃ t, exec (.barWait x) s = .next t ∧ ∀ q ∈ w.threads, ∃ th', t.thread? ⟨w.blk.id, g.num, q.1⟩ = some th' ∧
      th'.st = .trapped ∧ th'.pc = w.grid.desc.handler ∧ th'.v = q.2.v ∧ th'.trap.cause = 0x11 ∧
      bitsOf th'.trap.tcause.toNat 14 8 = x.n.toNat ∧ th'.trap.taddr = BitVec.ofNat 64 w.pc ∧ th'.trap.resume = w.pc % 2 ^ 56)

/-- R154 to R156, R243, R244, R85: REFILL at the refill site parks the threads, and EXIT drains them; of a versioned launch a
thread with an item commits first, and its version's bytes stand in memory when that is complete. A unit that is refilled takes
the next items in ascending lane order, each at the word after the site, and drains the lanes that find none.
Model's choices it rests on: log 58 and 89. -/
def Obligations.RefillAndExit : Prop :=
  (∀ (s : State) (w : Who) (g : Group), Issues s w g →
    (w.grid.desc.refillSite = some w.pc → ∃ t, exec .refill s = .next t ∧ OnlyGroup s t w.blk.id g.num ∧
      t.group? w.blk.id g.num = some (g.modLanes w.lanes fun _ th =>
        if th.inTask w.grid.desc then { th with wait := .commit false }
        else { th with st := .parked, wait := .none, item := none })) ∧
    (w.grid.desc.refillSite ≠ some w.pc → (∀ q ∈ w.threads, q.2.st = .running) → ∃ t, exec .refill s = .next t ∧
      ∀ q ∈ w.threads, ∃ th', t.thread? ⟨w.blk.id, g.num, q.1⟩ = some th' ∧ th'.st = .trapped ∧ th'.trap.cause = 0x14) ∧
    (∃ t, exec .exit s = .next t ∧ OnlyGroup s t w.blk.id g.num ∧
      t.group? w.blk.id g.num = some (g.modLanes w.lanes fun _ th =>
        if th.inTask w.grid.desc then { th with wait := .commit true }
        else { th with st := .drained, wait := .none, item := none, flagDue := none }))) ∧
  (∀ (s : State) (x : ThreadRef) (th : Thread) (drain : Bool), s.thread? x = some th → th.wait = .commit drain →
    s.versLost x = false → Memory.wf s.mem = true → s.wq = {} →
    let cells := (s.versions.filter fun v => v.tag == x).flatMap fun v => v.bytes
    (cells.map (·.1)).Nodup →
    ∃ t, exec (.versionCommitComplete x) s = .next t ∧ (∀ v ∈ t.versions, v.tag ≠ x) ∧
      (∀ a, memGet t.mem a = ((cells.find? fun c => c.1 == a).map (·.2)).getD (memGet s.mem a)) ∧
      t.thread? x = some (if drain then { th with st := .drained, wait := .none, item := none, flagDue := none }
        else { th with st := .parked, wait := .none, item := none })) ∧
  (∀ (s : State) (x : ThreadRef) (b : Block) (gr : Grid) (g : Group), s.block? x.block = some b → s.grid? b.grid = some gr →
    b.group? x.group = some g →
    let ps := b.refillReady g gr.desc.unit x.lane
    let n := min ps.length (gr.desc.items - gr.ctr)
    ps ≠ [] → s.wq.late = [] → ∃ t, exec (.refillUnit x) s = .next t ∧ (t.grid? b.grid).map (·.ctr) = some (gr.ctr + n) ∧
      (∀ (k l : Nat) (th : Thread), ps[k]? = some l → g.thread? l = some th →
        ∃ th', t.thread? ⟨x.block, x.group, l⟩ = some th' ∧
          (k < n → th'.st = .running ∧ th'.item = some (gr.ctr + k) ∧ th'.icnt = th.icnt + 1 ∧
            th'.pc = (gr.desc.refillSite.getD 0 + 4) % 2 ^ 56 ∧
            ∀ r, r < th.v.length → th'.v.getD r 0 =
              if gr.desc.clear ∧ gr.desc.vlo ≤ r ∧ r ≤ gr.desc.vhi then 0 else th.v.getD r 0) ∧
          (n ≤ k → th'.st = .drained ∧ th'.item = none)) ∧
      (∀ (l : Nat) (th : Thread), l ∉ ps → g.thread? l = some th → t.thread? ⟨x.block, x.group, l⟩ = some th))

/-- R248, R257: WAITC, and WAITC.L for a fragment, wait while the signed distance of the counter to the value is negative;
else, and when the counter gets there, the issuer goes on, the flags of the completions it observes merged into GFLAGS
once; no record of theirs carrying a fault, none is taken. R248, R257, R344, R350: a join that observes a faulting
completion traps the control thread that makes it: cause and address are the completion's, JOIN is set, the resume point
is the next word. Model's choices it rests on: log 55. -/
def Obligations.CompletionWaits : Prop :=
  (∀ (s : State) (w : Who), s.wq = {} →
    (∀ i ∈ [fun (d : BitVec 6) (k : BitVec 4) => Instr.waitc ⟨d, k⟩, fun (d : BitVec 6) (k : BitVec 4) => Instr.waitcL ⟨d, k⟩],
      ∀ (d : BitVec 6) (k : BitVec 4), IssuesUni s w → ((∃ y, i d k = .waitcL y) → w.grp.isSome = true) →
      sOk w d.toNat 1 1 = true → ∀ p, s.pair? w.blk.id w.rank w.quad = some p →
      let v := w.uni.sget d.toNat
      let sel := fun (q : DoneOp) => q.counter == k.toNat && counterReached v (BitVec.ofNat 32 q.count)
      ((p.k.getD k.toNat 0 - v).toInt < 0 → ∃ t, exec (i d k) s = .next t ∧ WaitsFor s t w (.waitc k.toNat v)) ∧
      (0 ≤ (p.k.getD k.toNat 0 - v).toInt → s.joinRaises w sel = none → (∀ q ∈ s.observed w sel, q.foot = []) →
        ∃ t, exec (i d k) s = .next t ∧ t = { s with blocks := t.blocks } ∧
          Stands t w w.next .none (w.uni.after w.uni (s.observed w sel)))) ∧
    (∀ (a : Agent) (k : Nat) (v : Word), State.who { s with cur := a } = some w → w.wait = .waitc k v →
      w.standsAt (.waitc k v) = true → s.waitcDone w k v = true →
      let sel := fun (q : DoneOp) => q.counter == k && counterReached v (BitVec.ofNat 32 q.count)
      s.joinRaises w sel = none → (∀ q ∈ s.observed w sel, q.foot = []) →
      ∃ t, exec (.waitcSatisfied a) s = .next t ∧ t = { s with blocks := t.blocks } ∧
        Stands t w w.next .none (w.uni.after w.uni (s.observed w sel)))) ∧
  (∀ (x : WaitU) (s : State) (w : Who) (c : Ctl) (f : Cause × DWord), IssuesUni s w → w.grp = none → w.ctl = some c →
    c.st = .running → sOk w x.d.toNat 1 1 = true → s.waitcDone w x.k.toNat (w.uni.sget x.d.toNat) = true →
    s.joinRaises w (fun q => q.counter == x.k.toNat && counterReached (w.uni.sget x.d.toNat) (BitVec.ofNat 32 q.count)) = some f →
    ∃ t c', exec (.waitc x) s = .next t ∧ t.ctl? w.blk.id c.rank c.quad = some c' ∧ c'.st = .trapped ∧
      c'.pc = w.grid.desc.handler ∧ c'.trap.cause = f.1.code ∧ bitOf c'.trap.tcause.toNat 17 = true ∧
      bitOf c'.trap.tcause.toNat 19 = true ∧ c'.trap.taddr = f.2 ∧ c'.trap.resume = w.next)

-- Traps, the SYS functions, the decision and event queues, engine pushes.

/-- R250, R343 to R345: TRAP makes the lanes whose guard holds enter the handler together, DETAIL the code, TADDR the
instruction's address, TLANES all of them, the resume point the next word; the others go on; no register and no byte of
memory changes. R348, R350: SYS.TRAPRET sends each trapped thread to its resume point, or, its trap nested or its item
ended, to the refill site (drained where the kernel has none); a control thread returns, or halts after a nested trap. One
that is in no handler faults ILLEGAL_OPERAND. -/
def Obligations.TrapAndReturn : Prop :=
  (∀ (x : TrapK) (s : State) (w : Who) (g : Group), Issues s w g → w.grid.desc.vers = false →
    (∀ q ∈ w.threads, q.2.st = .running) →
    ∃ t, exec (.trap x) s = .next t ∧ t.mem = s.mem ∧
      ∀ q ∈ w.threads, ∃ th', t.thread? ⟨w.blk.id, g.num, q.1⟩ = some th' ∧ th'.v = q.2.v ∧ th'.p = q.2.p ∧
        (if q.2.guard x.g then
          th'.st = .trapped ∧ th'.pc = w.grid.desc.handler ∧ th'.trap.cause = 0x0A ∧
          bitsOf th'.trap.tcause.toNat 14 8 = x.k.toNat ∧ th'.trap.nest = false ∧ th'.trap.taddr = BitVec.ofNat 64 w.pc ∧
          th'.trap.tlanes = maskOf ((w.on x.g).map (·.1)) ∧ th'.trap.titem = q.2.titem ∧ th'.trap.resume = w.next
         else th' = { q.2 with pc := w.next })) ∧
  (∀ (x : Uc) (s : State) (w : Who), IssuesUni s w → w.uni.cget x.c.toNat = true →
    (∀ g, w.grp = some g → (∀ q ∈ w.threads, q.2.st = .trapped) →
      ∃ t, exec (.sysTrapret x) s = .next t ∧ OnlyGroup s t w.blk.id g.num ∧
        ∀ q ∈ w.threads, ∃ th', t.thread? ⟨w.blk.id, g.num, q.1⟩ = some th' ∧ th'.v = q.2.v ∧ th'.p = q.2.p ∧
          ((q.2.trap.nest || q.2.trap.itemEnd) = false → th'.st = .running ∧ th'.pc = q.2.trap.resume) ∧
          ((q.2.trap.nest || q.2.trap.itemEnd) = true →
            (∀ site, w.grid.desc.refillSite = some site → th'.st = .running ∧ th'.pc = site) ∧
            (w.grid.desc.refillSite = none → th'.st = .drained)) ∧
          (th'.st = .running → th'.skipWatch = (q.2.skipWatch || q.2.trap.cause == 0x09))) ∧
    (∀ c, w.grp = none → w.ctl = some c → c.st = .trapped → ∃ t, exec (.sysTrapret x) s = .next t ∧
      OnlyCtl s t w.blk.id c.rank c.quad ∧
      t.ctl? w.blk.id c.rank c.quad = some (if c.trap.nest then { c with st := .halting, wait := .halt }
        else { c with st := .running, pc := c.trap.resume })) ∧
    (∀ c, w.grp = none → w.ctl = some c → c.st = .running → ∃ t c', exec (.sysTrapret x) s = .next t ∧
      t.ctl? w.blk.id c.rank c.quad = some c' ∧ c'.st = .trapped ∧ c'.trap.cause = 0x02 ∧ c'.uni = c.uni))

/-- R213, R254, R280, R361, R367: the SYS functions: GFLAGS read and cleared bit by bit, the deadline set, a mark posted with
CLK64, a control thread that starts to halt, a debug stop where a session of the context is open; and the deadline, which clears
itself and traps a running control thread with cause TIMER and its own value as the address.
Model's choices it rests on: log 15. -/
def Obligations.SystemFunctions : Prop :=
  ∀ (s : State) (w : Who),
    (∀ (x : Ud), IssuesUni s w → w.uni.cget x.c.toNat = true → sOk w x.d.toNat 1 1 = true →
      UniEffect (.sysGflagsRd x) s w (w.uni.sset x.d.toNat [w.uni.gflags]) w.next) ∧
    (∀ (x : Ua), IssuesUni s w → w.uni.cget x.c.toNat = true → sOk w x.a.toNat 1 1 = true →
      UniEffect (.sysGflagsClr x) s w
        { w.uni with gflags := w.uni.gflags &&& ~~~(w.uni.sget x.a.toNat &&& 0x1FF) } w.next ∧
      ∃ t, exec (.sysProfmark x) s = .next t ∧
        OnlyIssuer { s with marks := s.marks ++ [⟨(w.uni.sget x.a.toNat).toNat % 2 ^ 16, s.guestClk w.ctx⟩] } t w w.uni w.next) ∧
    (∀ (x : Ua), IssuesUni s w → w.uni.cget x.c.toNat = true → sOk w x.a.toNat 2 2 = true →
      UniEffect (.sysTimerSet x) s w { w.uni with deadline := w.uni.spair x.a.toNat } w.next) ∧
    (∀ (x : Uc) (c : Ctl), IssuesUni s w → w.uni.cget x.c.toNat = true → w.grp = none → w.ctl = some c →
      ∃ t, exec (.sysHalt x) s = .next t ∧ OnlyCtl s t w.blk.id c.rank c.quad ∧
        t.ctl? w.blk.id c.rank c.quad = some { c with st := .halting, wait := .halt }) ∧
    (∀ (x : Uc), IssuesUni s w → w.uni.cget x.c.toNat = true →
      let q := quadNo w.core (s.physOf w)
      ∃ t, exec (.sysDbgbrk x) s = .next t ∧ OnlyIssuer { s with quads := t.quads } t w w.uni w.next ∧
        (t.quadHw q).stopped = ((s.quadHw q).stopped || ((s.quadHw q).session && (s.quadHw q).dbgCtx == w.ctx)) ∧
        ∀ k, k ≠ q → t.quadHw k = s.quadHw k) ∧
    (∀ (b rank quad : Nat) (c : Ctl) (blk : Block) (gr : Grid), s.block? b = some blk → s.grid? blk.grid = some gr →
      blk.ctl? rank quad = some c → c.st = .running → c.uni.deadline ≠ 0 → c.uni.deadline.toNat ≤ c.uni.gtimer.toNat →
      ∃ t c', exec (.gtimerDeadline (.ctl b rank quad)) s = .next t ∧ OnlyCtl s t b rank quad ∧
        t.ctl? b rank quad = some c' ∧ c'.uni = { c.uni with deadline := 0 } ∧ c'.st = .trapped ∧ c'.pc = gr.desc.handler ∧
        c'.trap.cause = 0x12 ∧ c'.trap.taddr = c.uni.deadline ∧ c'.trap.resume = c.pc % 2 ^ 56)

/-- R151, R260: the decision queue is first in, first out: DQ.PUSH of a control thread appends its pair, stalling on 64
entries, and DQ.POP of a fragment takes the oldest, stalling on none; DQ.POLL says in a condition whether it took one; an
entry that a fragment waits for goes to it at once. R151, R257, R261: EVQ.WAIT and EVQ.POLL of a control thread remove the
oldest event record into eight registers, which is a join of its operation; on an empty queue WAIT stalls and POLL writes
false. -/
def Obligations.DecisionAndEventQueues : Prop :=
  (∀ (s : State) (w : Who) (p : Pair), IssuesUni s w → s.pair? w.blk.id w.rank w.quad = some p →
    let dq := fun (t : State) => (t.pair? w.blk.id w.rank w.quad).map (·.dq)
    (∀ (x : Ua) (c : Ctl), w.uni.cget x.c.toNat = true → w.grp = none → w.ctl = some c → sOk w x.a.toNat 2 2 = true →
      let v := w.uni.spair x.a.toNat
      (w.blk.oldestPop w.rank w.quad = none → p.dq.length < 64 →
        ∃ t, exec (.dqPush x) s = .next t ∧ OnlyBlock s t w.blk.id ∧ dq t = some (p.dq ++ [v]) ∧
          t.ctl? w.blk.id c.rank c.quad = some { c with pc := w.next }) ∧
      (w.blk.oldestPop w.rank w.quad = none → 64 ≤ p.dq.length →
        ∃ t, exec (.dqPush x) s = .next t ∧ WaitsFor s t w .dqPush) ∧
      (∀ (g d : Nat) (ls : List Nat) (h : Group), w.blk.oldestPop w.rank w.quad = some (g, ls, d) →
        w.blk.group? g = some h → ls ≠ [] →
        ∃ t h', exec (.dqPush x) s = .next t ∧ OnlyBlock s t w.blk.id ∧ dq t = some p.dq ∧
          t.group? w.blk.id g = some h' ∧ h'.uni = h.uni.sset d [v.extractLsb' 0 32, v.extractLsb' 32 32])) ∧
    (∀ (g : Group), w.grp = some g →
      (∀ (x : Ud) (v : DWord) (r : List DWord), w.uni.cget x.c.toNat = true → sOk w x.d.toNat 2 2 = true → p.dq = v :: r →
        ∃ t, exec (.dqPop x) s = .next t ∧ OnlyBlock s t w.blk.id ∧ dq t = some r ∧
          t.group? w.blk.id g.num = some { g.modLanes w.lanes (fun _ th => { th with pc := w.next }) with
            uni := w.uni.sset x.d.toNat [v.extractLsb' 0 32, v.extractLsb' 32 32] }) ∧
      (∀ (x : Ud), w.uni.cget x.c.toNat = true → sOk w x.d.toNat 2 2 = true → p.dq = [] →
        ∃ t, exec (.dqPop x) s = .next t ∧ WaitsFor { s with seq := s.seq + 1 } t w (.dqPop s.seq x.d.toNat)) ∧
      (∀ (x : UPoll), w.uni.cget x.c.toNat = true → sOk w x.d.toNat 2 2 = true →
        (p.dq = [] → UniEffect (.dqPoll x) s w (w.uni.cset x.b.toNat false) w.next) ∧
        (∀ v r, p.dq = v :: r → ∃ t, exec (.dqPoll x) s = .next t ∧ OnlyBlock s t w.blk.id ∧ dq t = some r ∧
          (t.group? w.blk.id g.num).map (·.uni) = some
            ((w.uni.sset x.d.toNat [v.extractLsb' 0 32, v.extractLsb' 32 32]).cset x.b.toNat true))))) ∧
  (∀ (s : State) (w : Who) (c : Ctl) (p : Pair), IssuesUni s w → s.wq = {} → w.grp = none → w.ctl = some c →
    s.pair? w.blk.id w.rank w.quad = some p →
    (∀ (x : Ud), w.uni.cget x.c.toNat = true → sOk w x.d.toNat 8 8 = true →
      (p.evq = [] → ∃ t, exec (.evqWait x) s = .next t ∧ WaitsFor s t w .evq) ∧
      (∀ id r rest, p.evq = (id, r) :: rest →
        let sel := fun (q : DoneOp) => q.id == id
        s.joinRaises w sel = none → (∀ q ∈ s.observed w sel, q.foot = []) →
        ∃ t, exec (.evqWait x) s = .next t ∧ OnlyBlock s t w.blk.id ∧
          (t.pair? w.blk.id w.rank w.quad).map (·.evq) = some rest ∧
          Stands t w w.next .none (w.uni.after (w.uni.sset x.d.toNat r) (s.observed w sel)))) ∧
    (∀ (x : UPoll), w.uni.cget x.c.toNat = true → sOk w x.d.toNat 8 8 = true →
      (p.evq = [] → UniEffect (.evqPoll x) s w (w.uni.cset x.b.toNat false) w.next) ∧
      (∀ id r rest, p.evq = (id, r) :: rest →
        let sel := fun (q : DoneOp) => q.id == id
        s.joinRaises w sel = none → (∀ q ∈ s.observed w sel, q.foot = []) →
        ∃ t, exec (.evqPoll x) s = .next t ∧ OnlyBlock s t w.blk.id ∧
          (t.pair? w.blk.id w.rank w.quad).map (·.evq) = some rest ∧
          Stands t w w.next .none (w.uni.after ((w.uni.sset x.d.toNat r).cset x.b.toNat true) (s.observed w sel)))))

/-- The engine commands of one operand block (R255): its words, their checks, the queue and the operation. -/
def Sys2Proof.Machine.commands : List ((UE1 → Instr) × Nat ×
    (State → Site → Block32 → DWord → Option (Cause × DWord)) × EngQ × (Block32 → OpKind)) :=
  [(.mxLds, 6, State.ldsFault, .matrix, .lds), (.mxStream, 6, State.streamFault, .matrix, .stream),
   (.mxGrouped, 9, State.groupedFault, .matrix, .grouped), (.mxTile, 13, State.tileFault, .matrix, .tile),
   (.accAlloc, 1, State.allocFault, .acc, fun b => .alloc (blkWord b 0)),
   (.accTryalloc, 1, State.tryAllocFault, .acc, fun b => .tryAlloc (blkWord b 0)),
   (.accFree, 1, State.freeFault, .acc, fun b => .free (blkWord b 0)),
   (.acceZero, 1, State.zeroFault, .acc, fun b => .zero (blkWord b 0)), (.acceOut, 9, State.outFault, .acc, .out),
   (.rgnMap, 6, State.mapFault, .region, .rgnMap), (.rgnFlush, 2, State.regionFault, .region, fun b => .rgnFlush (blkPtr b 0)),
   (.rgnUnmap, 2, State.regionFault, .region, fun b => .rgnUnmap (blkPtr b 0)),
   (.launch, 4, State.launchFault, .launch, fun b => .launch (blkPtr b 0) (blkWord b 2) none),
   (.signalAdd, 4, State.signalFault, .launch, fun b => .signal false (blkPtr b 0) (blkPtr b 2)),
   (.signalSet, 4, State.signalFault, .launch, fun b => .signal true (blkPtr b 0) (blkPtr b 2)),
   (.rflSetup, 3, State.setupFault, .rfl, fun b => .rflSetup (blkPtr b 0) (blkWord b 2)),
   (.rflRun, 1, State.runCmdFault, .rfl, fun b => .rflRun (blkWord b 0))]

/-- The copy commands and the fn codes of their forms (R263). -/
def Sys2Proof.Machine.copies : List ((UE2 → Instr) × Nat) :=
  [(.cpG2a, 0), (.cpA2g, 1), (.cpG2w, 2), (.cpA2a, 3), (.cpG2g, 4), (.cpGather, 5), (.cpScatter, 6), (.cpFill, 7)]

/-- An engine command pushed: operation o joins its queue behind all others, the issuer goes on, memory and every register stay
as they are. -/
def Sys2Proof.Machine.Pushed (i : Instr) (s : State) (w : Who) (o : EngOp) : Prop :=
  ∃ t, exec i s = .next t ∧ t.ops = s.ops ++ [{ o with id := s.nextId }] ∧ t.nextId = s.nextId + 1 ∧ t.mem = s.mem ∧
    t = { s with ops := t.ops, nextId := t.nextId, blocks := t.blocks, seq := s.seq + 1 } ∧
    (∀ b, b ≠ w.blk.id → t.block? b = s.block? b) ∧
    match w.grp, w.ctl with
    | some g, _ => t.group? w.blk.id g.num = some (g.modLanes w.lanes fun _ th => { th with pc := w.next })
    | none, some c => t.ctl? w.blk.id c.rank c.quad = some { c with pc := w.next }
    | none, none => False

/-- R152, R163, R255: a command whose operands pass its checks is pushed where the permits it needs are free and no push
of its pair that stalled earlier is to have them, and else stalls its issuer, which keeps what it read; the stalled push
resumes once they are due to it. Stated with nothing pending in the domain or waiting in the write queues; the checks are
the model's (R262 to R279, R291, R292). R255, R263: a copy command whose limits are broken faults its control thread
ILLEGAL_OPERAND and pushes nothing. Model's choices it rests on: log 16 and 86. -/
def Obligations.EngineCommands : Prop :=
  (∀ (s : State) (w : Who), w.grp.isSome = true ∨ w.ctl.isSome = true → s.wq = {} → s.pend w.blk.id w.rank = [] →
    let pushes := fun (i : Instr) (o : EngOp) =>
      (s.opPermit o = true → s.stalls w.blk.id w.rank w.quad = [] → s.permitDue o s.seq = true) ∧
      (s.permitDue o s.seq = true → s.opPermit o = true ∧ Pushed i s w o) ∧
      (s.permitDue o s.seq = false → ∃ t, exec i s = .next t ∧
        WaitsFor { s with seq := s.seq + 1 } t w (.permit { o with arrival := s.seq }))
    (IssuesUni s w →
      (∀ e ∈ commands, ∀ x : UE1, sOk w x.e.toNat e.2.1 1 = true →
        e.2.2.1 s w.site (w.block x.e.toNat e.2.1) (BitVec.ofNat 64 w.pc) = none →
        pushes (e.1 x) (w.op e.2.2.2.1 x.t.toNat (e.2.2.2.2 (w.block x.e.toNat e.2.1)))) ∧
      (∀ x : UE0, pushes (.mxSwap x) (w.op .matrix x.t.toNat .swap)) ∧
      (∀ e ∈ copies, ∀ x : UE2, sOk w x.e.toNat 6 1 = true → sOk w x.f.toNat 5 1 = true →
        let b := w.block x.e.toNat 6 ++ w.block x.f.toNat 5
        s.copyFault w.site (copyDesc e.2 b 0 6) (blkWord b 3) (BitVec.ofNat 64 w.pc) = none →
        pushes (e.1 x) (w.op .copy x.t.toNat (.copy (copyDesc e.2 b 0 6)))) ∧
      (∀ e ∈ [(Instr.cpmxG2a, 0), (.cpmxA2a, 3), (.cpmxGather, 5)], ∀ x : UE2,
        sOk w x.e.toNat 11 1 = true → sOk w x.f.toNat 6 1 = true →
        let b := w.block x.e.toNat 11
        let m := w.block x.f.toNat 6
        s.cpmxFault w.site e.2 b m (BitVec.ofNat 64 w.pc) = none →
        pushes (e.1 x) (w.op .matrix x.t.toNat (.cpmx (copyDesc e.2 b 0 6) m))) ∧
      (∀ x : UE2, w.ctl.isSome = true → sOk w x.e.toNat 9 1 = true → sOk w x.f.toNat 16 1 = true →
        let b := w.block x.e.toNat 9
        walkOk b = true →
        pushes (.loopRun x) { w.op .loop x.t.toNat (.walk b (w.block x.f.toNat 16)) with aux := [w.pc] })) ∧
    (∀ (a : Agent) (o : EngOp), State.who { s with cur := a } = some w → w.wait = .permit o → w.standsAt (.permit o) = true →
      s.permitDue o o.arrival = true → o.block = w.blk.id → o.rank = w.rank →
      ∃ t, exec (.stalledPushResume a) s = .next t ∧ t.ops = s.ops ++ [{ o with id := s.nextId, arrival := 0 }] ∧ t.mem = s.mem ∧
        Stands t w w.next .none w.uni)) ∧
  (∀ e ∈ copies, ∀ (x : UE2) (s : State) (w : Who) (c : Ctl), IssuesUni s w → w.grp = none → w.ctl = some c → c.st = .running →
    sOk w x.e.toNat 6 1 = true → sOk w x.f.toNat 5 1 = true →
    (w.uni.sget (x.f.toNat + 3) = 0 ∨ 65536 < (w.uni.sget (x.f.toNat + 3)).toNat ∨ w.uni.sget (x.f.toNat + 4) = 0 ∨
      1048575 < (w.uni.sget (x.f.toNat + 4)).toNat) →
    ∃ t c', exec (e.1 x) s = .next t ∧ t.ops = s.ops ∧ t.ctl? w.blk.id c.rank c.quad = some c' ∧ c'.st = .trapped ∧
      c'.trap.cause = 0x02 ∧ c'.trap.taddr = BitVec.ofNat 64 w.pc)

/-- R151, R277, R293 to R295: LOOP.WAIT goes on once every walk of the pair has pushed its records, and LOOP.ABORT stops those
that have not; RFL.WAIT stalls while the last RUN is in flight; RFL.STATE reads the run's values, zero where the last RUN has not
begun; RFL.ABORT
marks the pair's runs to stop. Model's choices it rests on: log 30 and 43. -/
def Obligations.LoopAndRunControl : Prop :=
  ∀ (s : State) (w : Who) (p : Pair), IssuesUni s w → s.pair? w.blk.id w.rank w.quad = some p →
    let mine := fun (o : EngOp) => o.block == w.blk.id && o.rank == w.rank && o.quad == w.quad
    (w.grp = none → w.ctl.isSome = true →
      (s.walksPushed w.blk.id w.rank w.quad = true → UniEffect .loopWait s w w.uni w.next) ∧
      (s.walksPushed w.blk.id w.rank w.quad = false → ∃ t, exec .loopWait s = .next t ∧ WaitsFor s t w .loopWait) ∧
      ∃ t, exec .loopAbort s = .next t ∧ OnlyIssuer { s with ops := t.ops } t w w.uni w.next ∧
        t.ops = s.ops.map fun o => if mine o && !o.pushedAll then { o with stop := true } else o) ∧
    (∃ t, exec .rflAbort s = .next t ∧ OnlyIssuer { s with ops := t.ops } t w w.uni w.next ∧
      t.ops = s.ops.map fun o => if mine o && o.isRun then { o with stop := true } else o) ∧
    (∀ (x : UEe), sOk w x.e.toNat 4 2 = true →
      (∀ l, p.lastRun = some l → (s.op? l).isSome = true → ∃ t, exec (.rflWait x) s = .next t ∧ WaitsFor s t w .rflWait) ∧
      (∀ l r, s.wq = {} → p.lastRun = some l → s.op? l = none → p.run = some r → r.op = l →
        let sel := fun (q : DoneOp) => q.id == l
        s.joinRaises w sel = none → (∀ q ∈ s.observed w sel, q.foot = []) →
        ∃ t, exec (.rflWait x) s = .next t ∧ OnlyBlock s t w.blk.id ∧
          Stands t w w.next .none (w.uni.after (w.uni.sset x.e.toNat [BitVec.ofNat 32 r.exitCode, BitVec.ofNat 32 r.rung,
            (BitVec.ofNat 64 r.eta).extractLsb' 0 32, (BitVec.ofNat 64 r.eta).extractLsb' 32 32]) (s.observed w sel))) ∧
      ((∀ r, p.run = some r → p.lastRun ≠ some r.op) → UniEffect (.rflState x) s w (w.uni.sset x.e.toNat [0, 0, 0, 0]) w.next) ∧
      (∀ r v, p.run = some r → p.lastRun = some r.op → r.seen = [v] → ∃ t, exec (.rflState x) s = .next t ∧
        OnlyIssuer { s with fresh := s.fresh + 1 } t w (w.uni.sset x.e.toNat v) w.next))

-- The engines' own events.

/-- R256, R259, R264 to R270: a copy whose sectors have all moved completes with status 0, one that has met a fault with status 2,
and the copy half of a CPMX gives way to its stream; a matrix operation starts when it may and completes with its status; MX.SWAP
exchanges the quadrant's planes; MX.GROUPED reads, checks and swaps in the weights of its next entry, MX.TILE those of its next
step. Model's choices it rests on: log 17, 19 and 21. -/
def Obligations.CopyAndMatrixEvents : Prop :=
  ∀ (s : State) (id : Nat) (o : EngOp) (x : Site), s.op? id = some o → s.opSite o = some x → s.opLive o = true →
    let planes := fun (t : State) => t.rawPlanes x
    (∀ c, o.kind = .copy c → c.cnt * c.len ≤ o.prog → o.fault = none → o.stop = false → o.nan = none →
      ∃ t, exec (.copyComplete id) s = .next t ∧ Completes s t o 0) ∧
    (∀ c f, o.kind = .copy c → o.fault = some f → ∃ t, exec (.copyComplete id) s = .next t ∧ Completes s t o 2) ∧
    (∀ c b, o.kind = .cpmx c b → o.copied = false → c.cnt * c.len ≤ o.prog → o.fault = none →
      ∃ t o', exec (.copyComplete id) s = .next t ∧ t = { s with ops := t.ops } ∧ t.op? id = some o' ∧
        o'.copied = true ∧ o'.prog = 0 ∧ o'.started = false ∧ o'.kind = o.kind) ∧
    (s.mxReady o = true → ∃ t, exec (.matrixOperationStart id) s = .next t ∧ t = { s with ops := t.ops } ∧
      t.op? id = some { o with started := true }) ∧
    (o.queue = .matrix → o.started = true → o.mxDone = true →
      ∃ t, exec (.matrixOperationComplete id) s = .next t ∧ Completes s t o o.status) ∧
    (o.kind = .swap → o.queue = .matrix → o.started = true → o.rowOut = [] → o.prog2 = 0 → o.fault = none → o.stop = false → o.nan = none →
      ∃ t, exec (.matrixOperationComplete id) s = .next t ∧ planes t = ((planes s).2, (planes s).1) ∧ Completes s t o 0) ∧
    (∀ b e l pl s1 s2, o.kind = .grouped b → o.started = true → o.mxDone = false → o.prog2 = 0 → o.aux = [] →
      o.planeIn = [] → o.rowOut = [] → s.linRead x .mxa 1 0 (blkWord b 4) 32 = (s1, .ok e) →
      s1.entryFault x b e (Config.freeDWord s1.fresh) o.prog = none →
      let w := fun (i : Nat) => ofBytes ((e.drop (4 * i)).take 4)
      let c := wctl (blkWord b 6)
      let eb : Block32 := [BitVec.ofNat 32 (w 1), BitVec.ofNat 32 (w 2), BitVec.ofNat 32 (w 3)]
      s1.readPlane x ⟨layOf eb 0, 0, 0, c.1, c.2.1, c.2.2, w 4 % 2 ^ 20, blkWord b 7, 0⟩ o.partFirst [] wholeStep =
        (s2, .ok (l, some pl)) → s2.op? id = some o →
      ∃ t, exec (.groupedEntryReached id) s = .next t ∧ planes t = (some pl, (planes s).1) ∧
        (t.op? id).map (fun y => (y.prog2, y.aux)) = some (1, [w 0, w 5, o.prog])) ∧
    (∀ b l pl s1, o.kind = .tile b → o.started = true → o.mxDone = false → o.prog = o.prog2 * blkWord b 7 → o.aux = [] →
      o.planeIn = [] → o.rowOut = [] → let c := tileCtl b
      let i := o.prog2 / c.q
      let j := o.prog2 % c.q
      s.readPlane x ⟨layOf b 3, 128 * i, j, c.bf, 1, min 128 (c.n - 128 * i), blkWord b 11, blkWord b 12, j⟩ o.partFirst [] wholeStep =
        (s1, .ok (l, some pl)) → s1.op? id = some o →
      ∃ t, exec (.tileStep id) s = .next t ∧ planes t = (some pl, (planes s).1) ∧
        (t.op? id).map (·.prog2) = some (o.prog2 + 1))

/-- R271, R274: a granted allocation gives the block its banks with every cell and counter 0 and touches no other byte; a
FREE returns them; a TRYALLOC that finds its banks taken completes with none; other operations of the queue complete with
their status once done; RGN.MAP installs its region. R33 to R35: a granule's fill brings the 128 bytes of its global place
into the granule, which is then CLEAN; a fill that meets an error leaves it INVALID and faults the operations that waited;
a write-back of a block that stands on its cores captures the dirty bytes and clears both masks, and its end writes
exactly those captured bytes that are left to be written. Nothing waits in the write queues, and no word is poisoned.
Model's choices it rests on: log 13, 20, 82 and 83. -/
def Obligations.AccumulatorRegionGranuleEvents : Prop :=
  (∀ (s : State) (id : Nat) (o : EngOp) (x : Site), s.wq = {} → s.op? id = some o → s.opSite o = some x →
    (∀ m, o.allocMask = some m → s.grantable o x = true → Memory.wf s.mem = true →
      ∃ t, exec (.accAllocGrant id) s = .next t ∧ (t.op? id).map (·.prog) = some 1 ∧
        (t.block? x.blk.id).map (·.cb) = some (x.blk.cb ++ (banksOf m).map fun k => (x.rank, k)) ∧
        (∀ k ∈ banksOf m, tabGet t.cbCount (s.bankKey x k) (0, 0, 0) = (0, 0, 0)) ∧
        ∀ a, memGet t.mem a =
          if ∃ k ∈ banksOf m, s.cellKey x k 0 0 ≤ a ∧ a < s.cellKey x k 0 0 + 0x10000 then 0 else memGet s.mem a) ∧
    (∀ m, o.kind = .free m → s.accReady o = true → o.prog = 0 → o.fault = none → o.stop = false → o.nan = none →
      ∃ t, exec (.accumulatorOperationComplete id) s = .next t ∧ Completes s t o 0 ∧
        (t.block? x.blk.id).map (·.cb) = some (x.blk.cb.filter fun e => !(e.1 == x.rank && bitOf m e.2))) ∧
    (∀ m, o.kind = .tryAlloc m → s.accReady o = true → o.prog = 0 → s.grantable o x = false →
      ∃ t, exec (.accumulatorOperationComplete id) s = .next t ∧ Completes s t o o.status ∧ t.mem = s.mem ∧
        (t.block? x.blk.id).map (·.cb) = some x.blk.cb) ∧
    ((∀ m, o.kind ≠ .tryAlloc m) → s.accReady o = true → o.accDone = true →
      ∃ t, exec (.accumulatorOperationComplete id) s = .next t ∧ Completes s t o o.status) ∧
    (∀ b, o.kind = .rgnMap b → o.queue = .region → s.opLive o = true → s.queueHead o = true →
      x.blk.regionFits (blkPtr b 0) x.rank (blkWord b 2) = true →
      ∃ t, exec (.regionOperationComplete id) s = .next t ∧ Completes s t o o.status ∧
        (t.block? x.blk.id).map (·.regions) = some (x.blk.regions ++ [mapRegion x.rank b]))) ∧
  (∀ (s : State) (x : GranuleRef) (b : Block) (gr : Grid) (reg : Region) (y : Granule),
    s.granuleRef x.block x.region x.granule = some (b, gr, reg, y) → Memory.wf s.mem = true → s.wq = {} → s.poison = [] →
    let after := fun (t : State) => (t.block? x.block).bind (·.granule? x.region x.granule)
    (∀ k, y.st = .filling → s.granuleGlobal (b.regionSite gr reg) reg x.granule = (s, some k) →
      let keys := s.granuleKeys b gr reg x.granule
      keys.Pairwise (fun p q => p + 16 ≤ q ∨ q + 16 ≤ p) →
      ∃ t, exec (.granuleFillComplete x) s = .next t ∧ after t = some { y with st := .clean } ∧
        ∀ (i q j : Nat), i < 8 → keys[i]? = some q → j < 16 → memGet t.mem (q + j) = memGet s.mem (k + 16 * i + j)) ∧
    (y.st = .filling → (∀ g ∈ b.groups, g.fillLanes x.region x.granule = []) →
      (∀ c ∈ b.ctls, c.wait.forFill x.region x.granule = none) →
      ∃ t, exec (.granuleFillError x) s = .next t ∧ after t = some { y with st := .invalid } ∧ t.mem = s.mem ∧
        ∀ (i : Nat) (o : EngOp) (p : DWord), s.ops[i]? = some o → o.block = x.block → o.waitGran = some (x.region, x.granule, p) →
          t.ops[i]? = some { o with waitGran := none, fault := some (0x0F, p) }) ∧
    (y.st = .dirty → y.mask ≠ 0 → b.pre ≠ .swapped → ∃ t, exec (.writeBackStart x) s = .next t ∧ t.mem = s.mem ∧
      after t = some { y with st := .writing, capMask := y.mask, capDirtier := y.dirtier, mask := 0, dirtier := 0,
                              capLeft := y.mask, capBytes := s.granuleBytes b gr reg x.granule }) ∧
    (∀ k, y.st = .writing → s.granuleGlobal (b.regionSite gr reg) reg x.granule = (s, some k) →
      ∃ t, exec (.writeBackComplete x) s = .next t ∧
        after t = some { y with st := if y.mask = 0 then .clean else .dirty, capMask := 0, capLeft := 0, capDirtier := 0, capBytes := [] } ∧
        ∀ a, memGet t.mem a =
          if k ≤ a ∧ a < k + 128 ∧ y.capLeft.getLsbD (a - k) = true then y.capBytes.getD (a - k) 0 else memGet s.mem a))

/-- R256, R276, R278, R279: LAUNCH takes the slot at the reservation index of a device queue and completes once the write index has
passed it; SIGNAL performs its atomic and completes; a walk pushes its next record with its patched block, which it has checked once, or stops at a check
that fails, and completes when all its records have. Model's choices it rests on: log 22 and 63. -/
def Obligations.LaunchAndLoopEvents : Prop :=
  ∀ (s : State) (id : Nat) (o : EngOp) (x : Site), s.op? id = some o → s.opSite o = some x → s.opLive o = true →
    (∀ ptr num s1 bs q k, o.kind = .launch ptr num none → o.fault = none → s.engReadAt x .ce ptr 64 = (s1, .ok bs) →
      s1.op? id = some o → s1.queueNamed x.ctx num = some q → s1.queue? q.id = some q → q.device = true →
      q.resv - q.ridx < q.entries → (s1.useReplica q.id x.die).slotPlace q.ctx (q.slotVa q.resv) = .ok k →
      ∃ t, exec (.launchSlotWrite id) s = .next t ∧ (t.queue? q.id).map (·.resv) = some (q.resv + 1) ∧
        (t.op? id).map (·.kind) = some (.launch ptr num (some q.resv))) ∧
    (∀ ptr num i, o.kind = .launch ptr num (some i) → o.fault = none → s.slotPassed x.ctx num i = true →
      ∃ t, exec (.launchComplete id) s = .next t ∧ t.mem = s.mem ∧ Completes s t o o.status) ∧
    (∀ set p v k s1 old, o.kind = .signal set p v → s.place x (0, 0) p = (s, .ok (.buf k)) →
      s.atomBy x .none (.buf k) (if set then 6 else 0) 8 v.toNat 0 = (s1, .ok old) →
      ∃ t, exec (.signalComplete id) s = .next t ∧ t.mem = s1.mem ∧ Completes s1 t o o.status) ∧
    (∀ b snap tp, o.kind = .walk b snap → templateOf (blkWord b 0) = some tp → o.pushedAll = false →
      let blk := walkBlock b snap o.prog
      let here := BitVec.ofNat 64 (o.aux.getD 0 0)
      ((o.arrival ≠ 0 ∨ s.templateFault x tp blk here = none) → s.wq = {} → s.pend o.block o.rank = [] →
        s.permitDue (walkRecord o tp b blk) (if o.arrival = 0 then s.seq else o.arrival) = true → ∃ t, exec (.loopWalkPush id) s = .next t ∧ t.mem = s.mem ∧ t.nextId = s.nextId + 1 ∧
          t.ops = modIf (s.ops ++ [{ walkRecord o tp b blk with id := s.nextId }]) (·.id == o.id)
            fun y => { y with prog := y.prog + 1, kids := y.kids ++ [s.nextId], arrival := 0 }) ∧
      (∀ f, o.arrival = 0 → s.templateFault x tp blk here = some f → ∃ t, exec (.loopWalkPush id) s = .next t ∧
        t.op? id = some { o with fault := some (f.1.code, f.2) })) ∧
    (s.walkOver o = true →
      let log := s.walkLog o
      let o1 := { o with words := walkWords o log, nan := (log.find? (·.nan.isSome)).bind (·.nan),
                         flags := log.foldl (fun a d => a ||| d.flags) 0 }
      ∃ t, exec (.loopWalkComplete id) s = .next t ∧ Completes s t o1 o1.status)

/-- A run's record after a step. -/
def Sys2Proof.Machine.RunBecomes (t : State) (v : LiveRun) (r : RflRun) : Prop :=
  (t.pair? v.o.block v.o.rank v.o.quad).bind (·.run) = some { r with seen := r.seen ++ [r.words] }

/-- R286 to R291: SETUP binds a well-formed command block; a run begins at INIT, then CONVERT, FACTOR column by column, SOLVE,
UPDATE, RESIDUAL and TEST follow in the order of R286, each with the values of R287, and DONE writes x and then the status words,
one sector at an instant (R131), and ends the binding. No unit of the workspace that a step reads is poisoned; the steps' arithmetic is the model's (notes/assumptions).
Model's choices it rests on: log 29, 31, 39, 40, 41, 42, 45, 88 and 92. -/
def Obligations.RefinementSteps : Prop :=
  (∀ (s : State) (id : Nat) (o : EngOp) (x : Site), s.op? id = some o → s.opSite o = some x → s.opLive o = true →
    (∀ ptr mask s1 s2 bs, o.kind = .rflSetup ptr mask → s.queueHead o = true →
      s.takeRfl x.core o.block o.rank o.quad = some s1 → s1.engReadAt x .rfl ptr 192 = (s2, .ok bs) →
      let b := parseBlock bs ptr mask id
      blockOk bs b = true → s2.workspaceOk x b (ofBytes ((bs.drop 0x30).take 4)) = true → s2.operandFault x b = none →
      ∃ t, exec (.rflSetupBind id) s = .next t ∧ Completes s2 t o o.status ∧
        (∀ p, s2.pair? o.block o.rank o.quad = some p → (t.pair? o.block o.rank o.quad).map (·.bind) = some (some b))) ∧
    (∀ p b s1 s3 v s4 a c s5 g, x.pair = some p → p.bind = some b → s.runReady x o = true →
      s.takeRfl x.core o.block o.rank o.quad = some s1 →
      let s2 := ((s1.emptyPlanes o.block o.rank b.mask).modPair o.block o.rank o.quad fun p =>
        { p with run := some (RflRun.start id b.n) }).modOp id fun y => { y with started := true }
      s2.liveRun id = some (s3, v) → s3.readAb v = (s4, .ok (a, c)) → s4.readGuess v = (s5, .ok g) →
      s5.pair? v.o.block v.o.rank v.o.quad ≠ none →
      let r := (residual a c g).map (·.val)
      let e := (etaOf (rowNorm a).val g c r).val
      ∃ t, exec (.rflInit id) s = .next t ∧
        RunBecomes t v { v.r with step := 7, eta0 := e, eta := e, etas := [e], normA := (rowNorm a).val, a := a, b := c, x := g,
                                  r := r })) ∧
  (∀ (s : State) (id : Nat) (s1 : State) (v : LiveRun), s.liveRun id = some (s1, v) → v.o.stop = false →
    s1.pair? v.o.block v.o.rank v.o.quad ≠ none →
    (∀ s2 a c, v.r.step = 2 → s1.readAb v = (s2, .ok (a, c)) → s2.pair? v.o.block v.o.rank v.o.quad ≠ none →
      ∃ t r, exec (.rflConvert id) s = .next t ∧ RunBecomes t v r ∧ r.step = 3 ∧ r.k = 0 ∧ r.perm = List.range v.b.n ∧
        r.lu = a.map fun q => (convRow v.rung.fmt r.alpha q).1) ∧
    (v.r.step = 3 → s1.wsPoison v = none →
      let o := factorColumn v.rung.fmt v.r.k v.r.lu v.r.scales v.r.perm
      ∃ t r, exec (.rflFactor id) s = .next t ∧ RunBecomes t v r ∧ r.lu = o.lu ∧ r.perm = o.perm ∧ r.k = v.r.k + 1 ∧
        r.step = (if o.ended then 7 else if v.b.n ≤ v.r.k + 1 then 4 else 3) ∧
        (o.ended = true → r.eta = fmtF64.infCode false ∧ r.total = v.r.total + 1)) ∧
    (v.r.step = 4 → s1.wsPoison v = none → (fmtF64.value (maxNorm v.r.r)).isFin = true → ∃ t, exec (.rflSolve id) s = .next t ∧
      RunBecomes t v { v.r with step := 5, d := (solveFor v.rung.fmt v.r.lu v.r.scales v.r.perm v.r.r v.r.alpha).1 }) ∧
    (v.r.step = 5 → s1.wsPoison v = none → ∃ t, exec (.rflUpdate id) s = .next t ∧
      RunBecomes t v { v.r with
        step := 6, j := v.r.j + 1, total := v.r.total + 1, perRung := modAt v.r.perRung v.r.rung (· + 1),
        x := (List.range v.b.n).map fun i => (fmtF64.add rflCtl (v.r.x.getD i 0) (v.r.d.getD i 0)).val }) ∧
    (∀ s2 a c, v.r.step = 6 → s1.wsPoison v = none → s1.readAb v = (s2, .ok (a, c)) → s2.pair? v.o.block v.o.rank v.o.quad ≠ none →
      let r := (residual a c v.r.x).map (·.val)
      let e := (etaOf v.r.normA v.r.x c r).val
      ∃ t, exec (.rflResidual id) s = .next t ∧ RunBecomes t v { v.r with step := 7, r := r, eta := e, etas := v.r.etas ++ [e] }) ∧
    (v.r.step = 7 →
      let e := (exitTest v.r.etas v.r.j v.b.win v.rung.limit v.b.tau.toNat v.b.gamma.toNat v.b.rho.toNat).1
      ∃ t r, exec (.rflTest id) s = .next t ∧ RunBecomes t v r ∧
        (e = 0 → r.step = (if v.r.made then 4 else 2) ∧ r.rung = v.r.rung) ∧
        (e ≠ 0 → v.rung.action e = 1 → r.step = 2 ∧ r.rung = v.r.rung + 1 ∧ r.j = 0 ∧ r.made = false) ∧
        (e ≠ 0 → v.rung.action e ≠ 1 → r.step = 8 ∧ r.exitCode = e)) ∧
    (∀ s2 b2 s3 b3, v.r.step = 8 → v.o.copied = false → s1.wsPoison v = none →
      s1.engWriteAt v.x .rfl (ptrAdd v.b.ptr 0xC0) (v.r.status v.r.exitCode) = (s2, .ok b2) →
      s1.engWriteAt v.x .rfl v.b.xPtr (f64Bytes v.r.x) = (s3, .ok b3) →
      (s.doneStep id).mem = s.mem ∧ ((s.doneStep id).op? id).map (fun y => (y.copied, y.got)) =
        some (true, sectorWrites v.b.xPtr (f64Bytes v.r.x) ++
          sectorWrites (ptrAdd v.b.ptr 0xC0) (v.r.status v.r.exitCode))) ∧
    (∀ n q bs rest s2 b2, v.o.copied = true → v.o.got = (n, [(q, bs)]) :: rest → s1.engWriteAt v.x .rfl q bs = (s2, .ok b2) →
      (s.doneStep id).mem = s2.mem ∧ ((s.doneStep id).op? id).map (·.got) = (s2.op? id).map fun _ => rest) ∧
    (v.o.copied = true → v.o.got = [] →
      ∃ t, exec (.rflDone id) s = .next t ∧ t.op? id = none ∧
        ∀ p, t.pair? v.o.block v.o.rank v.o.quad = some p → p.bind = none ∧
          ∃ r, p.run = some r ∧ r.step = 8 ∧ r.exitCode = v.r.exitCode ∧ r.x = []))

-- Queues, packets, leases.

/-- Queue q reads a packet of one kind, its words `raw`, whose checks pass and that asks for no completion signal and no
interrupt (R306, R309, R310); s2 is the state the checks leave. -/
structure Sys2Proof.Machine.ReadsPacket (s s2 : State) (x : PktRef) (q : Queue) (kind : Nat) (raw : List DWord) : Prop where
  ring : x.node = none
  queue : s.queue? x.queue = some q
  valid : (s.ctxDesc q.ctx).valid = true
  reads : q.reads = true
  unread : q.ridx < q.widx
  noSkip : q.skip = 0
  noVoid : q.voidAt q.ridx = false
  fresh : ∀ r ∈ q.run, r.index ≠ q.ridx
  bytes : ∃ s1 bs, s.qpRead q.ctx (q.slotVa q.ridx) 64 = (s1, .ok bs) ∧ raw = wordsOf bs ∧
    s1.signalsOk q.ctx (pktSignals raw false) = (s2, .ok ())
  ok : packetOk raw false = true
  kind : pktKind raw = kind
  barrier : bitOf (pktFlags raw) 0 = true → q.didx = q.ridx
  plain : bitOf (pktFlags raw) 1 = false ∧ bitOf (pktFlags raw) 2 = false
  kept : s2.queue? x.queue = some q

/-- A ring packet was read and its work is done: the read index has passed it and nothing of it is in flight. -/
def Sys2Proof.Machine.PacketDone (i : Instr) (s : State) (q : Queue) (f : State → Queue → Prop) : Prop :=
  ∃ t q', exec i s = .next t ∧ t.queue? q.id = some q' ∧ q.ridx < q'.ridx ∧ (∀ r ∈ q'.run, r.index ≠ q.ridx) ∧ f t q'

/-- A ring packet was read and is in flight. -/
def Sys2Proof.Machine.PacketRuns (i : Instr) (s : State) (q : Queue) (f : State → Queue → Prop) : Prop :=
  ∃ t q', exec i s = .next t ∧ t.queue? q.id = some q' ∧ q.ridx < q'.ridx ∧
    (∃ r ∈ q'.run, r.index = q.ridx ∧ r.done = false) ∧ f t q'

/-- R307, R309 to R313, R316: what each packet of a ring does when it is read: LAUNCH adds a grid whose lease resolves;
COPY and GRAPH run; WAIT is done where its condition holds and else blocks the queue; a false COND passes over the packets
after it; SIGNAL, REPL.SYNC and PRELOAD are done; INTERRUPT raises its vector; MARKER leaves its tag and the clock for the
status line. R309, R313: a released SIGNAL node adds to its signal, or sets it, in one 8-byte atomic at its home, and
stands done. Model's choices it rests on: log 17, 26, 62, 64 and 65. -/
def Obligations.RingPackets : Prop :=
  (∀ (s s2 : State) (x : PktRef) (q : Queue) (raw : List DWord),
    let p : PktSite := ⟨q, q.ridx, none, raw⟩
    let reads := fun (kind : Nat) => ReadsPacket s s2 x q kind raw
    (reads 1 → ∀ s3 g, s2.launch p = (s3, .ok g) → s3.queue? x.queue = some q →
      PacketRuns (.launchGrid x) s q fun t _ => t.grids = s3.grids ++ [g] ∧ t.nextId = s3.nextId + 1) ∧
    (reads 2 → ∀ s3 ps, s2.resolveAll q.ctx q.die s2.nextId qeAccess (copyRanges raw) = (s3, .ok ps) →
      ((s3.markLeaves (copyRanges raw) ps).pinAll ps).queue? x.queue = some q →
      PacketRuns (.copyPacket x) s q fun _ _ => True) ∧
    (reads 3 → ∀ s3, s2.condition q.ctx raw = (s3, .ok true) → s3.queue? x.queue = some q →
      PacketDone (.waitPacket x) s q fun _ _ => True) ∧
    (reads 3 → ∀ s3, s2.condition q.ctx raw = (s3, .ok false) → s3.queue? x.queue = some q →
      PacketRuns (.waitPacket x) s q fun _ q' => q'.state = .blocked ∨ q'.state = .error) ∧
    (reads 4 → ∀ s3 k, s2.signalAt q.ctx (raw.getD 3 0) true = (s3, .ok k) → s3.queue? x.queue = some q →
      PacketDone (.signalPacket x) s q fun _ _ => True) ∧
    (reads 5 → ∀ s3 b, s2.condition q.ctx raw = (s3, .ok b) → s3.queue? x.queue = some q →
      PacketDone (.condPacket x) s q fun _ q' => b = false → min q.widx (q.ridx + 1 + pktBody raw 2 / 2 ^ 8) ≤ q'.ridx) ∧
    (reads 6 → ∀ s3 bs, s2.qpRead q.ctx (pktBody raw 0) (64 * pktBody raw 1) = (s3, .ok bs) → graphOk (nodesOf bs) = true →
      s3.queue? x.queue = some q →
      PacketRuns (.graphPacket x) s q fun _ q' => ∃ g ∈ q'.graphs, g.index = q.ridx ∧ g.nodes = nodesOf bs) ∧
    (reads 8 → PacketDone (.interruptPacket x) s q fun t _ =>
      (t.fnRegs (s2.ctxFn q.ctx)).intPend.getLsbD (pktVector raw) = true) ∧
    (reads 9 → PacketDone (.markerPacket x) s q fun _ q' => q'.marker = pktBody raw 0 ∧ q'.markerClk = s2.clk17 / 17) ∧
    (reads 10 → bitOf (pktBody raw 2) 0 = false → ∀ s3, s2.replSync q.ctx raw = some s3 → s3.queue? x.queue = some q →
      PacketDone (.replSync x) s q fun _ _ => True) ∧
    (reads 10 → bitOf (pktBody raw 2) 0 = true → ∀ s3 ps,
      s2.resolveAll q.ctx q.die s2.nextId qeAccess [preloadRange raw] = (s3, .ok ps) →
      (s3.markLeaves [preloadRange raw] ps).queue? x.queue = some q →
      PacketDone (.preload x) s q fun _ _ => True)) ∧
  (∀ (s s1 s2 : State) (x : PktRef) (q : Queue) (g n k : Nat) (raw : List DWord), x.node = some (g, n) →
    s.queue? x.queue = some q → (s.ctxDesc q.ctx).valid = true → q.nodeAt g n = some raw → pktKind raw = 4 → Memory.wf s2.mem = true →
    s.signalsOk q.ctx (pktSignals raw true) = (s1, .ok ()) → s1.signalAt q.ctx (raw.getD 3 0) true = (s2, .ok k) →
    ∃ t, exec (.signalPacket x) s = .next t ∧
      t.word64 k = (if bitOf (pktBody raw 2) 0 then pktBody raw 1 else s2.word64 k + pktBody raw 1) % 2 ^ 64 ∧
      ∀ a, a < k ∨ k + 8 ≤ a → memGet t.mem a = memGet s2.mem a)

/-- R53, R65, R307, R310, R313, R316, R324: a packet whose work is done leaves its queue and raises its vector where it asks; a
graph node's completion releases its successors; a queue with something to read gets a thread; a WAIT whose condition has come
true is done; a lease whose pages all stand is granted and offered; a migration that is refused is counted; a wait cycle puts
every queue of its context into ERROR and is logged. Model's choices it rests on: log 62 and 96. -/
def Obligations.QueueAndLeaseEvents : Prop :=
  ∀ (s : State),
    (∀ queue index q r, s.queue? queue = some q → q.run.find? (·.index == index) = some r → r.failed = false → r.done = true →
      bitOf (pktFlags r.raw) 1 = false →
      ∃ t q', exec (.packetCompletion queue index) s = .next t ∧ t.queue? queue = some q' ∧ (∀ y ∈ q'.run, y.index ≠ index) ∧
        (bitOf (pktFlags r.raw) 2 = true → pktVector r.raw < 64 →
          (t.fnRegs (s.ctxFn q.ctx)).intPend.getLsbD (pktVector r.raw) = true)) ∧
    (∀ queue graph node q g r, s.queue? queue = some q → q.graphs.find? (·.index == graph) = some g →
      g.running.find? (·.node == node) = some r → r.done = true → bitOf (pktFlags (g.nodes.getD node [])) 2 = false →
      ((g.completed r).released ≠ [] ∨ (g.completed r).running ≠ []) →
      ∃ t, exec (.graphNodeComplete queue graph node) s = .next t ∧ t.mem = s.mem ∧
        (t.queue? queue).bind (fun y => y.graphs.find? (·.index == graph)) = some (g.completed r)) ∧
    (∀ queue q, s.queue? queue = some q → s.mappable q = true → s.mapsNext q = true → (s.threadsOf q.die).length < 64 →
      ∃ t, exec (.queueMap queue) s = .next t ∧ (t.queue? queue).map (·.mapped) = some true) ∧
    (∀ queue q r s1, s.queue? queue = some q → q.waiting = some r → q.mapped = true → q.waitNodes = [] →
      q.run.find? (·.index == r.index) = some r →
      s.condition q.ctx r.raw = (s1, .ok true) → s1.queue? queue = some q → bitOf (pktFlags r.raw) 1 = false →
      ∃ t q', exec (.waitWake queue) s = .next t ∧ t.queue? queue = some q' ∧ ∀ y ∈ q'.run, y.index ≠ r.index) ∧
    (∀ id g q s1 ps side, s.grid? id = some g → s.queue? g.queue = some q → g.lease = .resolving →
      s.resolveGrid g q.die q.qcbh.leaseLimit.toNat = (s1, .ok (ps, side)) → s1.grid? id ≠ none →
      ∃ t, exec (.leaseGrant id) s = .next t ∧
        (t.grid? id).map (fun y => (y.lease, y.pins, y.offered)) = some (.granted, ps, true)) ∧
    (∀ (x : MigrateReq) s1 r, s.movePage x.ctx x.va x.die x.copies = (s1, r) →
      exec (.pageMigration x) s = .next (match r with
        | .refused => { s1 with migRefused := s1.migRefused + 1 }
        | _ => s1)) ∧
    (∀ ctx, s.waitCycle ctx = true → (s.queues.map (·.id)).Nodup →
      ∃ t, exec (.waitCycleTimeout ctx) s = .next t ∧ (∀ q ∈ t.queues, q.ctx = ctx → q.state = .error) ∧
        (t.fnRegs (s.ctxFn ctx)).faultLog = (s.fnRegs (s.ctxFn ctx)).faultLog ++ [(0x13, ctx)])

-- Placement, pre-emption, policy engines.

/-- R147, R149, R157, R317, R318, R320: TRY_PLACE attempts the round's next grid where its dispatcher has no other reserved head:
where a place is found the grid's next block is added, its threads RUNNING at the group entry with registers zero and no item;
where none is, the round goes on and leaves the head to the grid, as one that waits behind a reserved head only leaves the round.
The place is surely found on enough cores that meet the block's needs, with the power tokens it asks for free, for a kernel that has
neither CLS nor PRIV. Model's choices it rests on: log 28, 61, 66 and 89. -/
def Obligations.Placement : Prop :=
  ∀ (s : State) (cluster grid : Nat) (g : Grid), (s.disp cluster).order.head? = some grid → s.grid? grid = some g →
    s.isReady cluster g = true →
    let s0 := s.sweepHeads
    let r := s0.findPlace g cluster none
    (s0.roundOf cluster [grid] = [grid] → s.swappedOf g.id = [] →
      (∀ p, r.2 = some p → ∃ t b, exec (.tryPlace cluster grid) s = .next t ∧
        t.blocks = r.1.blocks ++ [b] ∧ b.grid = grid ∧ b.num = g.nextBlock ∧ b.cores = p.cores ∧ b.cbase = p.cbase ∧
        b.groups.length = g.desc.g ∧ ∀ h ∈ b.groups, h.threads.length = 32 ∧ ∀ th ∈ h.threads,
          th.pc = g.desc.groupEntry ∧ th.st = .running ∧ th.item = none ∧ ∀ r, th.vget r = 0) ∧
      (r.2 = none → ∃ t, exec (.tryPlace cluster grid) s = .next t ∧
        t.blocks = r.1.blocks ∧ (t.disp cluster).order = (r.1.disp cluster).order.drop 1 ∧
        ((r.1.disp cluster).head = none → (t.disp cluster).head = some grid)) ∧
      (g.desc.m ≤ (s.coreOrder (s.ctxFn g.ctx) g.desc cluster).length →
        g.desc.tokens = 0 ∨ g.desc.tokens + s0.withheld g.id ≤ s.ptFree → g.desc.c = 0 → g.desc.privBase = 0 →
        ∃ t b, exec (.tryPlace cluster grid) s = .next t ∧ t.blocks = s.blocks ++ [b] ∧ b.grid = grid ∧
          b.num = g.nextBlock ∧ b.cores.Perm ((s.coreOrder (s.ctxFn g.ctx) g.desc cluster).take g.desc.m))) ∧
    (grid ∉ s0.roundOf cluster [grid] → ∃ t, exec (.tryPlace cluster grid) s = .next t ∧ t.blocks = s.blocks ∧
      (t.disp cluster).order = (s.disp cluster).order.drop 1)

/-- R321, R352 to R355, R357: a swapped-out block comes back on the cores found for it with the registers of its save; a reserved
head's victims are asked to yield, at the hard grade at once where GRACE is 0; a grace window that ends takes the block at the hard
grade, its groups saved first that have stopped; a group with no access still to take effect is saved, and its save at the hard grade
keeps every register. Model's choices it rests on: log 28, 33, 60, 66, 68 and 90. -/
def Obligations.RestoreAndPreemption : Prop :=
  ∀ (s : State) (cluster : Nat),
    (∀ b g p bs, s.block? b.id = some b → s.grid? b.grid = some g → (s.disp cluster).order.head? = some g.id →
      s.isReady cluster g = true → s.swappedOf g.id = b :: bs → (b.frame.map s.savePoisoned).getD false = false →
      s.sweepHeads.roundOf cluster [g.id] = [g.id] → (s.sweepHeads.findPlace g cluster (some b)).2 = some p →
      let u := s.unspill b g.desc.c
      let regs := fun (x : Block) => x.groups.map fun h => (h.uni, h.threads.map fun th => (th.v, th.p, th.pc, th.item))
      ((∀ f, b.frame = some f → f.images = []) → u.groups = b.groups) ∧
      ∃ t b', exec (.blockRestore cluster b.id) s = .next t ∧ t.block? b.id = some b' ∧ b'.pre = .none ∧ b'.cores = p.cores ∧
        regs b' = regs u) ∧
    (∀ g v vs, s.slicedHead cluster = some g → s.victims cluster g = v :: vs → ∃ t, exec (.tsliceExpiry cluster) s = .next t ∧
      t.mem = s.mem ∧ ∀ i ∈ v :: vs, ∀ b, s.block? i = some b → b.pre = .none →
        t.block? i = some { b with pre :=
          if (s.disp b.cluster).grace = 0 then .hard else .soft (s.clk17 + (s.disp b.cluster).grace * usec) }) ∧
    (∀ i b, s.block? i = some b → s.graceOver b = true →
      (∃ t b', exec (.graceWindowExpiry i) s = .next t ∧ t.block? i = some b' ∧ b'.pre = .hard ∧ b'.cores = b.cores) ∧
      ((∀ g ∈ b.groups, s.savable b g = false) → ∃ t, exec (.graceWindowExpiry i) s = .next t ∧ OnlyBlock s t i ∧
        t.block? i = some { b with pre := .hard })) ∧
    (∀ (x : GroupRef) b gr g, s.block? x.block = some b → s.grid? b.grid = some gr → b.group? x.group = some g →
      s.savable b g = true → (s.wq.late.any fun l => agentsMeet l.owner (.frag x.block x.group 0xFFFFFFFF)) = false →
      ∃ t g', exec (.groupSave x) s = .next t ∧ t.group? x.block x.group = some g' ∧ g'.saved = true ∧
        (b.pre = .hard → (∀ th ∈ g.threads, th.v.length ≤ 64) → g.uni.s.length ≤ 64 →
          g'.uni = g.uni ∧ g'.threads = g.threads))

/-- R327 to R329, R334, R336, R337, R339 to R342: with a policy engine disabled the carousel decides its events: ENQUEUE gives the class's
rank, PICK the carousel's order, WAKE defers nothing, TICK, BLOCK and MIGRATE change no rank and move no page; each decided
event leaves the queue, at whose end ENQUEUE and WAKE may put the PICK of an attempt. A routine stopped by its allowance leaves its event decided all the same. A seed of zero is ignored and any
other takes effect at once. R339 to R341: a write of TRLCTL without GO writes CTXID and KIND alone, one of GO while a load runs does
nothing, and GO loads an image that passes every check: its set is installed with its windows zero, GO reads 0 and OK 1, without an
error. Model's choices it rests on: log 34 and 74. -/
def Obligations.CarouselAndSeed : Prop :=
  ∀ (s : State) (cluster : Nat),
    (∀ e r, (s.disp cluster).events = e :: r → (s.disp cluster).policy = none → (s.disp cluster).enabled = false →
      (e.point = 0 → ∀ g o, s.grid? e.grid = some g → g.offerAt cluster = some o →
        ∃ t l, exec (.tregalEnqueue cluster e.grid) s = .next t ∧
          (t.disp cluster).events = r ++ l ∧ (∀ x ∈ l, x.point = 1) ∧
          (t.grid? e.grid).bind (·.offerAt cluster) = some { o with rank := some ((3 - e.arg) * 64) }) ∧
      (e.point = 1 → ∃ t, exec (.tregalPick cluster) s = .next t ∧ (t.disp cluster).events = r ∧
        let s1 := s.modDisp cluster fun d => { d with events := r }
        (t.disp cluster).order = s1.roundOf cluster (s1.carouselOrder cluster)) ∧
      (e.point = 2 → s.tickDue cluster = false → ∃ t, exec (.tregalTick cluster) s = .next t ∧
        t = { s with disps := t.disps, seq := s.seq + 1 } ∧ (t.disp cluster).events = r) ∧
      (e.point = 3 → ∀ b, (s.block? b = none ∨ (s.block? b).map (·.grid) = some e.grid) →
        ∃ t, exec (.tregalBlock cluster b) s = .next t ∧
          t = { s with disps := t.disps, seq := s.seq + 1 } ∧ (t.disp cluster).events = r) ∧
      (e.point = 4 → ∀ g o, s.grid? e.grid = some g → g.offerAt cluster = some o →
        ∃ t l, exec (.tregalWake cluster e.grid e.arg) s = .next t ∧
          (t.disp cluster).events = r ++ l ∧ (∀ x ∈ l, x.point = 1) ∧
          (t.grid? e.grid).bind (·.offerAt cluster) = some { o with deferred := false }) ∧
      (e.point = 5 → ∃ t, exec (.tregalMigrate cluster e.arg) s = .next t ∧
        t = { s with disps := t.disps, seq := s.seq + 1 } ∧ (t.disp cluster).events = r)) ∧
    (s.overruns cluster = true → exec (.policyWatchdogOverrun cluster) s = .next (s.decideHead cluster)) ∧
    (∀ v : DWord, ∃ t, exec (.trseedWrite cluster v) s = .next t ∧ (v = 0 → t = s) ∧
      (v ≠ 0 → (t.disp cluster).trseed = v ∧ (t.disp cluster).gen = v ∧ ∀ k, k ≠ cluster → t.disp k = s.disp k)) ∧
    (∀ (fn : Nat) (v : Word), (s.fnRegs fn).ready = true →
      (v.getLsbD 31 = false → ∃ t, exec (.tregalLoad fn v) s = .next t ∧
        t.fnRegs fn = { s.fnRegs fn with trlCtl := ((s.fnRegs fn).trlCtl &&& 0x80007FFF) ||| (v &&& 0x0FFF8000) }) ∧
      (v.getLsbD 31 = true → (s.fnRegs fn).trlCtl.getLsbD 31 = true → exec (.tregalLoad fn v) s = .next s) ∧
      (v.getLsbD 31 = true → (s.fnRegs fn).trlCtl.getLsbD 31 = false →
        let ctl := trlStored (s.fnRegs fn).trlCtl v
        let kind := bitOf ctl.toNat 15
        let ctx := bitsOf ctl.toNat 27 16
        let a := bitsOf (s.fnRegs fn).trlAddr.toNat 55 6 * 64
        let tenant := if kind then 16 else (s.ctxDesc ctx).tenant
        (s.ctxDesc ctx).fn = fn → (s.ctxDesc ctx).valid = true → (kind = true → fn = 0) →
        ∀ s1 s2 h bs, (s.startLoad fn v).qpRead ctx a 64 = (s1, .ok h) →
          s1.qpRead ctx (a + 64) (4 * (imageOf h).words) = (s2, .ok bs) →
          s2.checkImage (imageOf h) (s.ctxDesc ctx).tenant kind h (imageCode bs) = none →
          ∃ t, exec (.tregalLoad fn v) s = .next t ∧ t.mem = s2.mem ∧
            t.sets.find? (·.tenant == tenant) = some ⟨tenant, (imageOf h).table, (imageOf h).window, imageCode bs, [], false⟩ ∧
            (t.fnRegs fn).trlCtl.getLsbD 31 = false ∧ (t.fnRegs fn).trlCtl.getLsbD 13 = true ∧
            (t.fnRegs fn).trlCtl.toNat % 256 = 0 ∧ (t.fnRegs fn).trlIdx = 0))

/-- R62 to R64: the burst that a stack served first of those still to count raises each of its frame's four counters by one, to
0xFFFFFF at most; the close of an interval publishes the sorted list with the new sequence number at the stack's base, clears the
counters and begins the next interval, both with the IVAL last written (log 85); SKCTL's EN cleared clears counters and list, and an
IVAL within its limits is taken. Model's choices it rests on: log 34, 46, 47 and 85. -/
def Obligations.AccessSketch : Prop :=
  ∀ (s : State) (stack : Nat), stack < 12 →
    (∀ frame ctx, (s.sketch stack).on = true → (s.sketch stack).waiting.head? = some (frame, ctx) →
      ∃ t, exec (.sketchCountBurst stack frame ctx) s = .next t ∧ (t.sketch stack).waiting = (s.sketch stack).waiting.drop 1 ∧
      (∀ i h, i < 4 → h < 4096 → (t.sketch stack).cell i h =
        if h = sketchHash frame (sketchMul.getD i 0) then min ((s.sketch stack).cell i h + 1) 0xFFFFFF
        else (s.sketch stack).cell i h) ∧
      ∀ k, k ≠ stack → t.sketch k = s.sketch k) ∧
    (s.sketchDue stack = true → Memory.wf s.mem = true →
      let k := s.sketch stack
      let bs := hotBytes (sortHot k.hot) (k.skseq + 1).toNat k.ival
      ∃ t, exec (.sketchIntervalClose stack) s = .next t ∧ t.readMem (hotPlace stack) bs.length = bs ∧
        (t.sketch stack).skseq = k.skseq + 1 ∧ (t.sketch stack).cnt = [] ∧ (t.sketch stack).hot = [] ∧
        (t.sketch stack).start = k.start + k.ival * usec) ∧
    (∀ v : Word, ∃ t, exec (.skctlWrite stack v) s = .next t ∧ t = { s with sketches := t.sketches } ∧
      (t.sketch stack).skctl.getLsbD 31 = v.getLsbD 31 ∧
      (v.getLsbD 31 = false → (t.sketch stack).cnt = [] ∧ (t.sketch stack).hot = []) ∧
      (100 ≤ v.toNat % 2 ^ 17 → v.toNat % 2 ^ 17 ≤ 100000 → (t.sketch stack).skctl.toNat % 2 ^ 17 = v.toNat % 2 ^ 17))

-- The host, the firmware and the outside.

/-- R48, R49: TLBI_CTL's GO starts the invalidation it names, or is rejected with ERR; when a context's is complete no
core holds a translation of an address of it below 2^56, none of its writes waits in a write queue, and GO reads 0. R303,
R306, R375, R377: a doorbell within its limits raises its queue's write index and any other is dropped and counted: of a
queue that is not there, is another function's or the device's own, that makes nothing ready, or more than its ring holds;
a control block update within its limits replaces the hypervisor half; a response of the function's generation that names
an outstanding request ends it, or is the refusal, and any other is dropped and counted, no request of the present
generation going with it; INTPEND clears the bits written; a message that is due is sent.
Model's choices it rests on: log 23 and 77. -/
def Obligations.InvalidationAndQueueRegisters : Prop :=
  (∀ (s : State) (fn : Nat),
    (∀ v : Word, (s.fnRegs fn).ready = true → (s.fnRegs fn).tlbiCtl.getLsbD 31 = false → v.getLsbD 31 = true →
      ∃ t, exec (.tlbiGo fn v) s = .next t ∧ t = { s with fns := t.fns } ∧ (∀ k, k ≠ fn → t.fnRegs k = s.fnRegs k) ∧
        (s.tlbiRejects fn v.toNat = true → (t.fnRegs fn).tlbiCtl.getLsbD 31 = false ∧ (t.fnRegs fn).tlbiCtl.getLsbD 1 = true) ∧
        (s.tlbiRejects fn v.toNat = false → (t.fnRegs fn).tlbiCtl.getLsbD 31 = true ∧
          (t.fnRegs fn).tlbiRun = [bitsOf v.toNat 3 2, bitsOf v.toNat 27 16, bitsOf (s.fnRegs fn).tlbiVa.toNat 55 12 * 4096,
            (s.fnRegs fn).tlbiNpg.toNat * 4096])) ∧
    (∀ ctx va n, (s.fnRegs fn).tlbiCtl.getLsbD 31 = true → (s.fnRegs fn).tlbiRun = [1, ctx, va, n] →
      ∃ t, exec (.tlbiComplete fn) s = .next t ∧ (t.fnRegs fn).tlbiCtl.getLsbD 31 = false ∧
        (s.wq.stores = [] → s.wq.late = [] → (∀ b ∈ s.blocks, ∀ l ∈ b.doms, l = []) → t.mem = s.mem) ∧ (∀ e ∈ t.wq.stores, e.ctx ≠ ctx) ∧
        ∀ c ∈ t.cores, ∀ e ∈ c.2.tlb ++ c.2.slice, e.ctx = ctx → 2 ^ 56 ≤ e.va)) ∧
  (∀ (s : State) (fn : Nat),
    (∀ v : DWord, (s.fnRegs fn).ready = true →
      let ctx := bitsOf v.toNat 63 52
      (∀ q, s.queueNamed ctx (bitsOf v.toNat 51 42) = some q → s.queue? q.id = some q → s.ctxFn ctx = fn → q.device = false →
        let n := (v.toNat % 2 ^ 42 + 2 ^ 42 - q.widx % 2 ^ 42) % 2 ^ 42
        1 ≤ n → n + (q.widx - q.ridx) ≤ q.entries →
        ∃ t, exec (.dbellWrite fn v) s = .next t ∧ (t.queue? q.id).map (·.widx) = some (q.widx + n)) ∧
      ((s.queueNamed ctx (bitsOf v.toNat 51 42) = none ∨
          ∃ q, s.queueNamed ctx (bitsOf v.toNat 51 42) = some q ∧
            let n := (v.toNat % 2 ^ 42 + 2 ^ 42 - q.widx % 2 ^ 42) % 2 ^ 42
            (n = 0 ∨ q.entries < n + (q.widx - q.ridx) ∨ s.ctxFn ctx ≠ fn ∨ q.device = true)) →
        ∃ t, exec (.dbellWrite fn v) s = .next t ∧ t = { s with events := t.events } ∧
          tabGet t.events 0x0020 0 = tabGet s.events 0x0020 0 + 1)) ∧
    (∀ h : QcbHalf, (s.qcbOk h = false → exec (.qcbUpdate h) s = .next s) ∧
      (∀ q, s.qcbOk h = true → s.queues.find? (fun q => q.ctx == h.ident.toNat % 2 ^ 12 && q.num == bitsOf h.ident.toNat 21 12) =
          some q → s.queue? q.id = some q →
        ∃ t q', exec (.qcbUpdate h) s = .next t ∧ t.queue? q.id = some q' ∧ q'.qcbh = h ∧
          q'.version = (q.version + 1) % 2 ^ 32 ∧ q'.widx = q.widx ∧ q'.ridx = q.ridx ∧ q'.didx = q.didx)) ∧
    ((∀ f ∈ s.fns, f.2.trlRun = none) →
      (∀ (v : DWord) (r : PageReq), (s.fnRegs fn).ready = true → s.requestOf fn (v.toNat % 2 ^ 32) false = some r →
        bitsOf v.toNat 63 48 = (s.fnRegs fn).fngen.toNat →
        ∃ t, exec (.prrespWrite fn v) s = .next t ∧
          (bitsOf v.toNat 39 32 = 0 → r ∉ t.pageReqs) ∧
          (bitsOf v.toNat 39 32 ≠ 0 → { r with refused := true } ∈ t.pageReqs)) ∧
      (∀ (idx : Nat) (ok : Bool) (r : PageReq), s.requestOf 0 idx true = some r →
        r.gen = (s.fnRegs r.fn).fngen.toNat →
        ∃ t, exec (.priResponse idx ok) s = .next t ∧
          (ok = true → r ∉ t.pageReqs) ∧ (ok = false → { r with refused := true } ∈ t.pageReqs))) ∧
    (∀ v : DWord, (s.fnRegs fn).ready = true →
      (s.requestOf fn (v.toNat % 2 ^ 32) false = none ∨ bitsOf v.toNat 63 48 ≠ (s.fnRegs fn).fngen.toNat) →
      ∃ t, exec (.prrespWrite fn v) s = .next t ∧ t = { s with events := t.events, pageReqs := t.pageReqs } ∧
        tabGet t.events 0x0021 0 = tabGet s.events 0x0021 0 + 1 ∧
        ∀ r ∈ s.pageReqs, r ∈ t.pageReqs ∨ (r.gen = bitsOf v.toNat 63 48 ∧ r.gen ≠ (s.fnRegs fn).fngen.toNat)) ∧
    (∀ (idx : Nat) (ok : Bool),
      (∀ r, s.requestOf 0 idx true = some r → r.gen ≠ (s.fnRegs r.fn).fngen.toNat) →
      ∃ t, exec (.priResponse idx ok) s = .next t ∧ t = { s with events := t.events, pageReqs := t.pageReqs } ∧
        tabGet t.events 0x0021 0 = tabGet s.events 0x0021 0 + 1) ∧
    (∀ v : DWord, (s.fnRegs fn).ready = true → ∃ t, exec (.intpendClear fn v) s = .next t ∧ t = { s with fns := t.fns } ∧
      t.fnRegs fn = { s.fnRegs fn with intPend := (s.fnRegs fn).intPend &&& ~~~v }) ∧
    (∀ vec, s.messageDue fn vec = true → ∃ t, exec (.interruptMessage fn vec) s = .next t ∧
      t.messages = s.messages ++ [(fn, vec)] ∧ (t.fnRegs fn).intPend = (s.fnRegs fn).intPend))

/-- R81, R319, R366, R367, R369, R372, R373: a quadrant's new owner takes it once it is empty, its AB, WB and CB banks zero; the
token pool takes a size up to 768; DBGCTL stops and runs a quadrant, and dumps every waiting register write of a stopped one
to DBGBUF and counts them; a monitor's results clear; a comparator's base
keeps 56 bits once a function that owns a quadrant of its core is READY, and VSCTL takes a VWAYS of 4 at most.
Model's choices it rests on: log 34 and 35. -/
def Obligations.DeviceRegisters : Prop :=
  ∀ (s : State) (quad : Nat), quad < 768 →
    (∀ v : Word, v.toNat % 32 ≤ 16 ∨ v.toNat % 32 = 31 → ∃ t, exec (.qownWrite quad v) s = .next t ∧
      t = { s with quads := t.quads } ∧
      t.quadHw quad = { s.quadHw quad with
        wanted := if (s.quadHw quad).own = v.toNat % 32 then none else some (v.toNat % 32) }) ∧
    (∀ fn, (s.quadHw quad).wanted = some fn → s.quadEmpty quad = true → ∃ t, exec (.qownChange quad) s = .next t ∧
      (t.quadHw quad).own = fn ∧ (t.quadHw quad).wanted = none ∧
      ∀ a, inQuadBanks (quad / 4) (quad % 4) a = true → memGet t.mem a = 0) ∧
    (∀ v : Word, ∃ t, exec (.ptpoolSizeWrite v) s = .next t ∧
      t.ptpool = if v.toNat % 2 ^ 10 ≤ 768 then v.toNat % 2 ^ 10 else s.ptpool) ∧
    (∃ t, exec (.debugStop quad) s = .next t ∧ t = { s with quads := t.quads } ∧ (t.quadHw quad).stopped = true) ∧
    (∃ t, exec (.debugRun quad) s = .next t ∧ t = { s with quads := t.quads } ∧ (t.quadHw quad).stopped = false) ∧
    (∃ t, exec (.debugDump quad) s = .next t ∧
      t = { s with quads := t.quads, mem := t.mem, poison := t.poison, clusters := t.clusters, dies := t.dies } ∧
      (t.quadHw quad).stopped = (s.quadHw quad).stopped ∧
      ((s.quadHw quad).stopped = false ∨ s.dumpOf quad = [] → t.mem = s.mem) ∧
      ((s.quadHw quad).stopped = true → (t.quadHw quad).dbgEntries = (s.dumpOf quad).length ∧
        (isHbm (s.quadHw quad).dbgBuf.toNat = true → Memory.wf s.mem = true →
          t.readMem (s.quadHw quad).dbgBuf.toNat (16 * (s.dumpOf quad).length) = (s.dumpOf quad).flatten))) ∧
    (∀ core n, n < 4 → ∃ t, exec (.monitorClear core n) s = .next t ∧ t = { s with cores := t.cores } ∧
      tabGet (t.coreHw core).mons n {} = { tabGet (s.coreHw core).mons n {} with min := 0, max := 0, bins := [] }) ∧
    (∀ (core n : Nat) (v : DWord), n < 8 →
      (∃ t, exec (.registerWrite (.wpBase core n) v) s = .next t ∧ t = { s with cores := t.cores } ∧
        (tabGet (t.coreHw core).wps n {}).base =
          if s.debugReady core then BitVec.ofNat 64 (v.toNat % 2 ^ 56) else (tabGet (s.coreHw core).wps n {}).base) ∧
      (∃ t, exec (.registerWrite (.vsctl n) v) s = .next t ∧ t = { s with dies := t.dies } ∧
        (t.dieHw n).vsctl = if v.toNat % 8 ≤ 4 then BitVec.ofNat 32 (v.toNat % 8) else (s.dieHw n).vsctl))

/-- R362 to R365, R372, R374: RSTCTL's GO begins its rung: a queue stands empty with its indices equal; a context loses its
versions; an engine's operations end; the partition's generation goes up; the device stands as at power-on. A rung that is done
clears GO and reports REACHED, as does one that has timed out with AUTO clear; a function level reset raises the generation.
Model's choices it rests on: log 32, 57, 87 and 94. -/
def Obligations.Resets : Prop :=
  ∀ (s : State) (fn : Nat),
    (∀ v : DWord, (s.fnRegs fn).ready = true → v.getLsbD 63 = true → (s.fnRegs fn).rstCtl.getLsbD 63 = false →
      s.rstRejects fn v.toNat = false →
      (rstRung v.toNat = 0 → ∀ q, s.queues.find? (fun q => q.ctx == rstCtx v.toNat && q.num == rstQueue v.toNat) = some q →
        s.queue? q.id = some q → ∃ t q', exec (.resetQueue fn v) s = .next t ∧ t.queue? q.id = some q' ∧ q'.run = [] ∧
          q'.graphs = [] ∧ q'.ridx = q'.widx ∧ q'.didx = q'.widx ∧ q'.resv = q'.widx) ∧
      (rstRung v.toNat = 1 → ∃ t, exec (.resetContext fn v) s = .next t ∧ ∀ x ∈ t.versions, x.ctx ≠ rstCtx v.toNat) ∧
      (rstRung v.toNat = 2 → ∃ t, exec (.resetEngine fn v) s = .next t ∧
        ∀ o ∈ s.ops, s.engineHit (rstEngine v.toNat) (rstQuad v.toNat) o = true → t.op? o.id = none) ∧
      (rstRung v.toNat = 3 → ∃ t, exec (.resetPartition fn v) s = .next t ∧
        (t.fnRegs fn).fngen = (s.fnRegs fn).fngen + 1 ∧ (t.fnRegs fn).rstCtl.getLsbD 63 = true) ∧
      (rstRung v.toNat = 4 → ∃ t, exec (.resetDevice fn v) s = .next t ∧ t.blocks = [] ∧ t.grids = [] ∧ t.queues = [] ∧
        t.ops = [] ∧ t.cores = [] ∧ t.mem = outsideMem s.mem ∧ (t.fnRegs fn).ready = false)) ∧
    ((s.fnRegs fn).rstCtl.getLsbD 63 = true → s.rungDone fn = true → ∃ t, exec (.resetComplete fn) s = .next t ∧
      t = { s with fns := t.fns, fresh := t.fresh } ∧ (t.fnRegs fn).rstCtl.getLsbD 63 = false ∧
      bitsOf (t.fnRegs fn).rstCtl.toNat 58 56 = (s.fnRegs fn).rstRung % 8) ∧
    ((s.fnRegs fn).rstCtl.getLsbD 63 = true → (s.fnRegs fn).rstRung < 4 →
      (s.fnRegs fn).rstStart + (s.fnRegs fn).rstTmo.toNat * 17000 ≤ s.clk17 → (s.fnRegs fn).rstCtl.getLsbD 59 = false →
      ∃ t, exec (.resetRungTimeout fn) s = .next t ∧ (t.fnRegs fn).rstCtl.getLsbD 63 = false ∧
        bitsOf (t.fnRegs fn).rstCtl.toNat 58 56 = (s.fnRegs fn).rstRung % 8) ∧
    (1 ≤ fn → fn ≤ 16 → ∃ t, exec (.functionLevelReset fn) s = .next t ∧ (t.fnRegs fn).fngen = (s.fnRegs fn).fngen + 1)

/-- R38, R67, R70, R79, R123, R371, R376, R379 to R384: bring-up measures its five images, each by that of the selected slot that
verifies or else of the other, and reaches stage 4 (log 37), from which a function's quadrants make it READY, or stage 0xFF; SPDM
requests are answered, unsupported ones as such; the host reads and writes HBM at its home, and a request that relies on a feature
not offered is an Unsupported Request; a peer's read, write or atomic is performed at the home where an export entry covers it with
its right, the length word's bit 61, 62 or 63 (log 36), and else does nothing; invalidated host pages leave the TLBs once what waits for them is performed; errors poison what they strike; links, heat
and rejected stores are noted; a line the host snoops leaves every L2.
Model's choices it rests on: log 25, 36, 37, 38, 49, 72, 77, 98 and 99. -/
def Obligations.OutsideEvents : Prop :=
  ∀ (s : State),
    (∀ images : List ImagePair, images.length = 5 → (s.fnRegs 0).stage = 0 →
      ((∀ p ∈ images, p.okA = true ∨ p.okB = true) → ∃ t, exec (.powerOn images) s = .next t ∧
        (∀ k, k < 17 → (t.fnRegs k).ready = (s.fnRegs k).ready ∧ (t.fnRegs k).stage = 4) ∧
        ∀ i p, s.meas.length = 8 → images[i]? = some p → t.meas.getD i [] =
          fit48 (sha384 (s.meas.getD i [] ++ fit48 (if (if p.selB then !p.okB else p.okA) then p.digestA else p.digestB)))) ∧
      ((∃ p ∈ images, p.okA = false ∧ p.okB = false) → ∃ t, exec (.powerOn images) s = .next t ∧
        ∀ k, k < 17 → (t.fnRegs k).ready = (s.fnRegs k).ready ∧ (t.fnRegs k).stage = 0xFF)) ∧
    (∀ fn rest, s.due = none → s.wq.void = false → s.agenda = .micro (.fnReady fn) :: rest → (s.fnRegs fn).stage = 4 →
      ∃ u : State, u.fnRegs fn = { s.fnRegs fn with ready := true, stage := 5 } ∧ u = { s with agenda := rest, fns := u.fns } ∧
        step s = .next u.settle) ∧
    (∀ e ∈ [(Instr.getVersion, 0x84), (.getCapabilities, 0xE1), (.negotiateAlgorithms, 0xE3), (.getDigests, 0x81),
        (.getCertificate, 0x82), (.challenge, 0x83)],
      ∃ t body, exec e.1 s = .next t ∧ t = { s with spdm := s.spdm ++ [.ok e.2 body], fresh := s.fresh + 1 }) ∧
    (∀ n, ∃ t body, exec (.getMeasurements n) s = .next t ∧
      t = { s with spdm := s.spdm ++ [.ok 0xE0 body], fresh := s.fresh + 1 } ∧
      (1 ≤ n → n ≤ 8 → (s.meas.getD (n - 1) []).isPrefixOf body = true)) ∧
    (∀ code, code ∉ [0x84, 0xE1, 0xE3, 0x81, 0x82, 0x83, 0xE0] →
      exec (.spdmUnsupportedRequest code) s = .next { s with spdm := s.spdm ++ [.unsupported code] }) ∧
    (∀ pa n, hbmSpan pa n = true → (∀ i, i < n → s.inSpill (pa + i) = false) → s.poison = [] →
      ∃ t, exec (.hostMemoryAccess (.read pa n)) s = .next t ∧
        t = { s with hostData := s.readMem pa n, hostUr := false, seq := s.seq + 1, sketches := t.sketches }) ∧
    (∀ pa bs, hbmSpan pa bs.length = true → Memory.wf s.mem = true →
      ∃ t, exec (.hostMemoryAccess (.write pa bs)) s = .next t ∧ t.readMem pa bs.length = bs ∧
        ∀ a, a < pa ∨ pa + bs.length ≤ a → memGet t.mem a = memGet s.mem a) ∧
    (∀ pa n, hbmSpan pa n = false → exec (.hostMemoryAccess (.read pa n)) s = .fault .noSuchAddress) ∧
    (exec (.hostMemoryAccess .unlisted) s = .next { s with hostData := [], hostUr := true }) ∧
    (∀ port off n, (∀ pa, s.exported port off n 61 = some pa → (∀ i, i < n → s.inSpill (pa + i) = false) → s.poison = [] →
        ∃ t, exec (.peerAccess ⟨port, off, .read n⟩) s = .next t ∧
          t = { s with hostData := s.readMem pa n, seq := s.seq + 1, sketches := t.sketches }) ∧
      (s.exported port off n 61 = none → exec (.peerAccess ⟨port, off, .read n⟩) s = .next { s with hostData := [] })) ∧
    (∀ port off f w (data swap : DWord), w = 4 ∨ w = 8 → f < 8 → off % w = 0 →
      (∀ pa, s.exported port off w 63 = some pa → (∀ i, i < w → s.inSpill (pa + i) = false) → s.poison = [] → Memory.wf s.mem = true →
        ∃ t, exec (.peerAccess ⟨port, off, .atomic f w data swap⟩) s = .next t ∧ t.hostData = s.readMem pa w ∧
          t.readMem pa w = (match atomValue f w (ofBytes (s.readMem pa w)) (data.toNat % 2 ^ (8 * w)) (swap.toNat % 2 ^ (8 * w)) with
            | some v => toBytes w v
            | none => s.readMem pa w) ∧
          ∀ a, a < pa ∨ pa + w ≤ a → memGet t.mem a = memGet s.mem a) ∧
      (s.exported port off w 63 = none →
        exec (.peerAccess ⟨port, off, .atomic f w data swap⟩) s = .next { s with hostData := [] })) ∧
    (∀ port off bs pa, s.exported port off bs.length 62 = some pa → Memory.wf s.mem = true →
      ∃ t, exec (.peerAccess ⟨port, off, .write bs⟩) s = .next t ∧ t.readMem pa bs.length = bs) ∧
    (∀ port off bs, s.exported port off bs.length 62 = none → exec (.peerAccess ⟨port, off, .write bs⟩) s = .next s) ∧
    (∀ base len, len ≠ 0 → ∃ t, exec (.atsInvalidation base len) s = .next t ∧ (∀ c ∈ t.cores, ∀ e ∈ c.2.tlb ++ c.2.slice,
      pteMt e.leaf = 1 → leafBase e.bits e.leaf + 2 ^ e.bits ≤ base ∨ base + len ≤ leafBase e.bits e.leaf) ∧
      ∀ e ∈ t.wq.stores, e.overlaps (hostPlace base) len = false) ∧
    (∀ pa, isHbm pa = true → s.wq.late = [] → ∃ t, exec (.uncorrectableError (.llcSector pa)) s = .next t ∧ t.poisoned pa 1 = true ∧ t.mem = s.mem) ∧
    (∀ r n, s.wq.late = [] → ∃ t, exec (.uncorrectableError (.vreg r n)) s = .next t ∧ .v r n ∈ t.regPoison ∧ t.blocks = s.blocks) ∧
    (∀ pa, isHbm pa = true → exec (.correctableError (.llcSector pa)) s = .next { s with corrected := s.corrected + 1 }) ∧
    (∀ port, port < 16 → (∃ t, exec (.jxLinkPortDown port true) s = .next t ∧ port ∈ t.portsDown) ∧
      (∃ t, exec (.jxLinkPortDown port false) s = .next t ∧ port ∉ t.portsDown)) ∧
    (∀ port fn, port < 16 → fn ≤ 16 → ∃ t, exec (.peerStoreRejected port fn) s = .next t ∧ t.mem = s.mem ∧
      (t.fnRegs fn).peerRej = (s.fnRegs fn).peerRej + 1) ∧
    (∀ die, die < 4 → ∃ t, exec (.thermalLimitExceeded die) s = .next t ∧ (t.dieHw die).slowed = true) ∧
    (∀ a, ∃ t, exec (.hostCacheSnoop a) s = .next t ∧ t = { s with seq := s.seq + 1, clusters := t.clusters } ∧
      ∀ c ∈ t.clusters, c.1 < 16 → ∀ l ∈ c.2.l2, l.line = hostPlace a / 128 → l.dom ≠ none)

-- The whole machine: reset, fetching and decoding, the encodings, the memory.

/-- R63, R81, R319, R320, R342, R352, R362, R372, R381, R382 and the reset columns of their registers: right after reset VSCTL,
DSCTL, PECTL, TRCTL, TRSEED, the token pool, SKCTL, RSTTMO, QOWN and the measurements hold their reset values; no function is
READY, no block, grid or queue is there, and no agent issues. -/
def Obligations.ResetState : Prop :=
  let s := State.reset
  (∀ d, (s.dieHw d).vsctl = 4) ∧
  (∀ k, (s.disp k).dsctl = 0x100007D0 ∧ (s.disp k).pectl = 20 ∧ (s.disp k).trctl = 0x800003E8 ∧
    (s.disp k).trseed = 0x6A09E667F3BCC909 ∧ (s.disp k).gen = (s.disp k).trseed) ∧
  s.ptpool = 768 ∧ (∀ k, (s.sketch k).skctl = 1000 ∧ (s.sketch k).skseq = 0) ∧
  (∀ f, (s.fnRegs f).rstTmo = 2000 ∧ (s.fnRegs f).ready = false ∧ (s.fnRegs f).stage = 0) ∧
  (∀ q, (s.quadHw q).own = 0) ∧ (∀ m ∈ s.meas, m = List.replicate 48 0) ∧ s.meas.length = 8 ∧
  s.blocks = [] ∧ s.grids = [] ∧ s.queues = [] ∧ s.who = none

/-- The memory of the reset state is in the model's canonical form. The form is the model's choice (log 1) and no rule's; R363
only says that the module stands there as at power-on. -/
def Obligations.ResetMemoryCanonical : Prop := Memory.wf State.reset.mem = true

/-- The one memory keeps the form that the model gives it under every step: addresses strictly rising, no byte listed that reads as
an unlisted one does. The form is the model's choice (log 1) and no rule's; R12 and R38 only name the storage that the memory
holds. -/
def Obligations.StepKeepsMemory : Prop :=
  ∀ s t : State, Memory.wf s.mem = true → step s = .next t → Memory.wf t.mem = true

/-- R165, R189, R325: a step in which an agent's turn has come and nothing is due before it runs the instruction that the word
at its program counter decodes to, and one cycle passes; a word that decodes to none faults; where the word names a register with
a pending write, that write comes about instead, or, where it waits for a fill, nothing does; before the word, a capacity close of the
agent's domain comes to its end and the phase that an acquire of it opens is opened; a step whose turn is a device event
runs that event. The fetched word is the four bytes of memory at the place the program counter translates to, lowest byte
first, where the core holds no line of them. Model's choices it rests on: log 2 and 76. -/
def Obligations.StepRunsDecoded : Prop :=
  ∀ (s : State) (rest : List Turn), s.due = none → s.wq.void = false →
    let s0 := { s with agenda := rest }
    (∀ (a a' : Agent) (w : Who) (s1 : State) (word : Nat), s.agenda = .issue a :: rest → s0.ready a = some a' →
      State.who { s0 with cur := a' } = some w → w.dueFlags = [] →
      State.fetch ((State.passClose { s0 with cur := a' } (w.blk.id, w.rank)).openDue w) w.site w.pc = (s1, .word word) →
      (word < 2 ^ 31 → s0.pipeHeld w = none) →
      (w.fillHolds word = true → step s = .next s1.endIssue) ∧
      (w.fillHolds word = false →
      let pending := s1.wq.late.any fun l => l.holds w.agent word
      (pending = false → (∀ i, decode word = some i →
        step s = onNext (exec i (s1.noteIssue w (decide (2 ^ 31 ≤ word)))) State.endIssue) ∧
        (decode word = none → step s = .next (s1.wordFault w (badWord w.ctl.isSome word) (chainBit word)).endIssue)) ∧
      (pending = true → step s = .next (s1.settleLate fun l => l.holds w.agent word).endIssue))) ∧
    (∀ i, s.agenda = .event i :: rest → step s = onNext (exec i s0) State.settle) ∧
    (∀ (x : Site) (pc k : Nat) (u : State) (copies : List Nat) (rep : Nat) (h : Bool), x.grid.leased .x pc 4 = true →
      s.globPlace x pc false = (u, .ok (.glob k copies rep h)) → u.poisoned k 4 = false →
      (∀ l ∈ (u.coreHw x.core).ic, l.ctx = x.ctx → l.line ≠ k / 128) →
      (s.fetch x pc).2 = .word (ofBytes (u.readMem k 4)))

/-- Words worked out in the spec's own examples, with the instruction each stands for: the chain of the encoding chapter, its
uniform words, and words of its programs. -/
def Sys2Proof.Machine.sampleWords : List (Nat × Instr) :=
  [(0x2820048D, .fmul ⟨0, true, 0, 0x04, 0x46, true⟩), (0x2620400F, .fadd ⟨0, true, 0, 0x40, 0x07, true⟩),
   (0x2E04C18F, .fmax ⟨0, false, 9, 0x41, 0x47, true⟩), (0x3A114290, .fcmp ⟨0, false, 4, 2, 0x42, 0x48, false⟩),
   (0x6A890402, .stw ⟨2, 9, 2, 0, 2⟩), (0x8A080030, .smovi ⟨1, 0x30⟩), (0x8C080020, .smovhi ⟨1, 0x20⟩),
   (0x9ABFFFFA, .sbr ⟨2, true, -6⟩), (0xB00418A3, .cpG2a ⟨8, 12, 0xA3⟩), (0x480F1073, .tshflIdx ⟨0, 15, 8, 14, 3⟩),
   (0x460E0406, .ballot ⟨0, false, 28, 4, 3, false⟩), (0x63583480, .ldd ⟨5, 24, 26, 1, 0⟩),
   (0x701CA8F0, .atom ⟨0, 28, 0x54, 0x1E, 0⟩), (0x70109878, .atom ⟨0, 16, 0x4C, 0x0F, 0⟩),
   (0x24850E9C, .sel ⟨2, false, 10, 14, 0x4E, false⟩), (0x781FFFE9, .brv ⟨0, false, -23⟩),
   (0x7E000004, .refill), (0x7E00000A, .bar ⟨0⟩), (0x7E000014, .fenceBlk), (0x7E000010, .phaseOpen),
   (0x7E000012, .phaseClose), (0x4E000010, .movs ⟨0, 0, 0x10⟩), (0xB4460020, .mxStream ⟨12, 0x20⟩),
   (0xB8260040, .acceOut ⟨12, 0x40⟩), (0xBA502000, .waitc ⟨10, 1⟩), (0xAC220000, .dqPop ⟨4, 0⟩),
   (0x8F209410, .scmp ⟨true, 1, 1, 10, 2, 0⟩), (0xBE010021, .rflSetup ⟨2, 0x21⟩), (0xBE460000, .rflWait ⟨12⟩)]

/-- R167, R169, R170, R181, R189: the words the spec assembles in its examples decode to the instructions it assembles them
from, and all-zero bits are IADD v0, v0, v0. -/
def Obligations.DecodeWords : Prop :=
  (∀ e ∈ sampleWords, decode e.1 = some e.2) ∧ decode 0 = some (.iadd ⟨0, false, 0, 0, 0, false⟩)

/-- R189, R192: decoding inverts encoding: the word of every well-formed instruction that has one is a 32-bit word and decodes
to that instruction, every operand at every value its fields admit. -/
def Obligations.DecodeEncode : Prop :=
  ∀ (i : Instr) (w : Nat), i.wf = true → encode i = some w → w < 2 ^ 32 ∧ decode w = some i

/-- R167, R189: a word that decodes is the encoding of the instruction it decodes to, which is well-formed: no bit of it is
ignored, and reserved bits and values decode to nothing. -/
def Obligations.EncodeDecode : Prop :=
  ∀ (w : Nat) (i : Instr), w < 2 ^ 32 → decode w = some i → i.wf = true ∧ encode i = some w
end

