-- ==== Sys2Proof/Laws/State.lean ====
section
/-!
SUPPORT. One lemma per field of State per named update of Machine/Ops.lean: what the update leaves and what it makes.
-/
namespace Sys2Proof.Machine

@[simp] theorem State.modCoreHw_mem (s : State) (c : Nat) (f : CoreHw → CoreHw) : (s.modCoreHw c f).mem = s.mem := rfl
@[simp] theorem State.modCoreHw_poison (s : State) (c : Nat) (f : CoreHw → CoreHw) : (s.modCoreHw c f).poison = s.poison := rfl
@[simp] theorem State.modCoreHw_regPoison (s : State) (c : Nat) (f : CoreHw → CoreHw) : (s.modCoreHw c f).regPoison = s.regPoison := rfl
@[simp] theorem State.modCoreHw_ctxs (s : State) (c : Nat) (f : CoreHw → CoreHw) : (s.modCoreHw c f).ctxs = s.ctxs := rfl
@[simp] theorem State.modCoreHw_queues (s : State) (c : Nat) (f : CoreHw → CoreHw) : (s.modCoreHw c f).queues = s.queues := rfl
@[simp] theorem State.modCoreHw_grids (s : State) (c : Nat) (f : CoreHw → CoreHw) : (s.modCoreHw c f).grids = s.grids := rfl
@[simp] theorem State.modCoreHw_blocks (s : State) (c : Nat) (f : CoreHw → CoreHw) : (s.modCoreHw c f).blocks = s.blocks := rfl
@[simp] theorem State.modCoreHw_ops (s : State) (c : Nat) (f : CoreHw → CoreHw) : (s.modCoreHw c f).ops = s.ops := rfl
@[simp] theorem State.modCoreHw_nextId (s : State) (c : Nat) (f : CoreHw → CoreHw) : (s.modCoreHw c f).nextId = s.nextId := rfl
@[simp] theorem State.modCoreHw_seq (s : State) (c : Nat) (f : CoreHw → CoreHw) : (s.modCoreHw c f).seq = s.seq := rfl
@[simp] theorem State.modCoreHw_cores (s : State) (c : Nat) (f : CoreHw → CoreHw) : (s.modCoreHw c f).cores = tabMod s.cores c {} f := rfl
@[simp] theorem State.modCoreHw_quads (s : State) (c : Nat) (f : CoreHw → CoreHw) : (s.modCoreHw c f).quads = s.quads := rfl
@[simp] theorem State.modCoreHw_clusters (s : State) (c : Nat) (f : CoreHw → CoreHw) : (s.modCoreHw c f).clusters = s.clusters := rfl
@[simp] theorem State.modCoreHw_dies (s : State) (c : Nat) (f : CoreHw → CoreHw) : (s.modCoreHw c f).dies = s.dies := rfl
@[simp] theorem State.modCoreHw_disps (s : State) (c : Nat) (f : CoreHw → CoreHw) : (s.modCoreHw c f).disps = s.disps := rfl
@[simp] theorem State.modCoreHw_fns (s : State) (c : Nat) (f : CoreHw → CoreHw) : (s.modCoreHw c f).fns = s.fns := rfl
@[simp] theorem State.modCoreHw_sketches (s : State) (c : Nat) (f : CoreHw → CoreHw) : (s.modCoreHw c f).sketches = s.sketches := rfl
@[simp] theorem State.modCoreHw_versions (s : State) (c : Nat) (f : CoreHw → CoreHw) : (s.modCoreHw c f).versions = s.versions := rfl
@[simp] theorem State.modCoreHw_wq (s : State) (c : Nat) (f : CoreHw → CoreHw) : (s.modCoreHw c f).wq = s.wq := rfl
@[simp] theorem State.modCoreHw_cbCount (s : State) (c : Nat) (f : CoreHw → CoreHw) : (s.modCoreHw c f).cbCount = s.cbCount := rfl
@[simp] theorem State.modCoreHw_frames (s : State) (c : Nat) (f : CoreHw → CoreHw) : (s.modCoreHw c f).frames = s.frames := rfl
@[simp] theorem State.modCoreHw_freeFrames (s : State) (c : Nat) (f : CoreHw → CoreHw) : (s.modCoreHw c f).freeFrames = s.freeFrames := rfl
@[simp] theorem State.modCoreHw_pageReqs (s : State) (c : Nat) (f : CoreHw → CoreHw) : (s.modCoreHw c f).pageReqs = s.pageReqs := rfl
@[simp] theorem State.modCoreHw_sets (s : State) (c : Nat) (f : CoreHw → CoreHw) : (s.modCoreHw c f).sets = s.sets := rfl
@[simp] theorem State.modCoreHw_ptpool (s : State) (c : Nat) (f : CoreHw → CoreHw) : (s.modCoreHw c f).ptpool = s.ptpool := rfl
@[simp] theorem State.modCoreHw_portsDown (s : State) (c : Nat) (f : CoreHw → CoreHw) : (s.modCoreHw c f).portsDown = s.portsDown := rfl
@[simp] theorem State.modCoreHw_exports (s : State) (c : Nat) (f : CoreHw → CoreHw) : (s.modCoreHw c f).exports = s.exports := rfl
@[simp] theorem State.modCoreHw_meas (s : State) (c : Nat) (f : CoreHw → CoreHw) : (s.modCoreHw c f).meas = s.meas := rfl
@[simp] theorem State.modCoreHw_spdm (s : State) (c : Nat) (f : CoreHw → CoreHw) : (s.modCoreHw c f).spdm = s.spdm := rfl
@[simp] theorem State.modCoreHw_messages (s : State) (c : Nat) (f : CoreHw → CoreHw) : (s.modCoreHw c f).messages = s.messages := rfl
@[simp] theorem State.modCoreHw_events (s : State) (c : Nat) (f : CoreHw → CoreHw) : (s.modCoreHw c f).events = s.events := rfl
@[simp] theorem State.modCoreHw_sessions (s : State) (c : Nat) (f : CoreHw → CoreHw) : (s.modCoreHw c f).sessions = s.sessions := rfl
@[simp] theorem State.modCoreHw_marks (s : State) (c : Nat) (f : CoreHw → CoreHw) : (s.modCoreHw c f).marks = s.marks := rfl
@[simp] theorem State.modCoreHw_corrected (s : State) (c : Nat) (f : CoreHw → CoreHw) : (s.modCoreHw c f).corrected = s.corrected := rfl
@[simp] theorem State.modCoreHw_migRefused (s : State) (c : Nat) (f : CoreHw → CoreHw) : (s.modCoreHw c f).migRefused = s.migRefused := rfl
@[simp] theorem State.modCoreHw_hostData (s : State) (c : Nat) (f : CoreHw → CoreHw) : (s.modCoreHw c f).hostData = s.hostData := rfl
@[simp] theorem State.modCoreHw_hostUr (s : State) (c : Nat) (f : CoreHw → CoreHw) : (s.modCoreHw c f).hostUr = s.hostUr := rfl
@[simp] theorem State.modCoreHw_hostGone (s : State) (c : Nat) (f : CoreHw → CoreHw) : (s.modCoreHw c f).hostGone = s.hostGone := rfl
@[simp] theorem State.modCoreHw_lastLive (s : State) (c : Nat) (f : CoreHw → CoreHw) : (s.modCoreHw c f).lastLive = s.lastLive := rfl
@[simp] theorem State.modCoreHw_peerDeny (s : State) (c : Nat) (f : CoreHw → CoreHw) : (s.modCoreHw c f).peerDeny = s.peerDeny := rfl
@[simp] theorem State.modCoreHw_clk17 (s : State) (c : Nat) (f : CoreHw → CoreHw) : (s.modCoreHw c f).clk17 = s.clk17 := rfl
@[simp] theorem State.modCoreHw_cycle (s : State) (c : Nat) (f : CoreHw → CoreHw) : (s.modCoreHw c f).cycle = s.cycle := rfl
@[simp] theorem State.modCoreHw_cur (s : State) (c : Nat) (f : CoreHw → CoreHw) : (s.modCoreHw c f).cur = s.cur := rfl
@[simp] theorem State.modCoreHw_agenda (s : State) (c : Nat) (f : CoreHw → CoreHw) : (s.modCoreHw c f).agenda = s.agenda := rfl
@[simp] theorem State.modCoreHw_fresh (s : State) (c : Nat) (f : CoreHw → CoreHw) : (s.modCoreHw c f).fresh = s.fresh := rfl

@[simp] theorem State.modQuadHw_mem (s : State) (q : Nat) (f : QuadHw → QuadHw) : (s.modQuadHw q f).mem = s.mem := rfl
@[simp] theorem State.modQuadHw_poison (s : State) (q : Nat) (f : QuadHw → QuadHw) : (s.modQuadHw q f).poison = s.poison := rfl
@[simp] theorem State.modQuadHw_regPoison (s : State) (q : Nat) (f : QuadHw → QuadHw) : (s.modQuadHw q f).regPoison = s.regPoison := rfl
@[simp] theorem State.modQuadHw_ctxs (s : State) (q : Nat) (f : QuadHw → QuadHw) : (s.modQuadHw q f).ctxs = s.ctxs := rfl
@[simp] theorem State.modQuadHw_queues (s : State) (q : Nat) (f : QuadHw → QuadHw) : (s.modQuadHw q f).queues = s.queues := rfl
@[simp] theorem State.modQuadHw_grids (s : State) (q : Nat) (f : QuadHw → QuadHw) : (s.modQuadHw q f).grids = s.grids := rfl
@[simp] theorem State.modQuadHw_blocks (s : State) (q : Nat) (f : QuadHw → QuadHw) : (s.modQuadHw q f).blocks = s.blocks := rfl
@[simp] theorem State.modQuadHw_ops (s : State) (q : Nat) (f : QuadHw → QuadHw) : (s.modQuadHw q f).ops = s.ops := rfl
@[simp] theorem State.modQuadHw_nextId (s : State) (q : Nat) (f : QuadHw → QuadHw) : (s.modQuadHw q f).nextId = s.nextId := rfl
@[simp] theorem State.modQuadHw_seq (s : State) (q : Nat) (f : QuadHw → QuadHw) : (s.modQuadHw q f).seq = s.seq := rfl
@[simp] theorem State.modQuadHw_cores (s : State) (q : Nat) (f : QuadHw → QuadHw) : (s.modQuadHw q f).cores = s.cores := rfl
@[simp] theorem State.modQuadHw_quads (s : State) (q : Nat) (f : QuadHw → QuadHw) : (s.modQuadHw q f).quads = tabMod s.quads q {} f := rfl
@[simp] theorem State.modQuadHw_clusters (s : State) (q : Nat) (f : QuadHw → QuadHw) : (s.modQuadHw q f).clusters = s.clusters := rfl
@[simp] theorem State.modQuadHw_dies (s : State) (q : Nat) (f : QuadHw → QuadHw) : (s.modQuadHw q f).dies = s.dies := rfl
@[simp] theorem State.modQuadHw_disps (s : State) (q : Nat) (f : QuadHw → QuadHw) : (s.modQuadHw q f).disps = s.disps := rfl
@[simp] theorem State.modQuadHw_fns (s : State) (q : Nat) (f : QuadHw → QuadHw) : (s.modQuadHw q f).fns = s.fns := rfl
@[simp] theorem State.modQuadHw_sketches (s : State) (q : Nat) (f : QuadHw → QuadHw) : (s.modQuadHw q f).sketches = s.sketches := rfl
@[simp] theorem State.modQuadHw_versions (s : State) (q : Nat) (f : QuadHw → QuadHw) : (s.modQuadHw q f).versions = s.versions := rfl
@[simp] theorem State.modQuadHw_wq (s : State) (q : Nat) (f : QuadHw → QuadHw) : (s.modQuadHw q f).wq = s.wq := rfl
@[simp] theorem State.modQuadHw_cbCount (s : State) (q : Nat) (f : QuadHw → QuadHw) : (s.modQuadHw q f).cbCount = s.cbCount := rfl
@[simp] theorem State.modQuadHw_frames (s : State) (q : Nat) (f : QuadHw → QuadHw) : (s.modQuadHw q f).frames = s.frames := rfl
@[simp] theorem State.modQuadHw_freeFrames (s : State) (q : Nat) (f : QuadHw → QuadHw) : (s.modQuadHw q f).freeFrames = s.freeFrames := rfl
@[simp] theorem State.modQuadHw_pageReqs (s : State) (q : Nat) (f : QuadHw → QuadHw) : (s.modQuadHw q f).pageReqs = s.pageReqs := rfl
@[simp] theorem State.modQuadHw_sets (s : State) (q : Nat) (f : QuadHw → QuadHw) : (s.modQuadHw q f).sets = s.sets := rfl
@[simp] theorem State.modQuadHw_ptpool (s : State) (q : Nat) (f : QuadHw → QuadHw) : (s.modQuadHw q f).ptpool = s.ptpool := rfl
@[simp] theorem State.modQuadHw_portsDown (s : State) (q : Nat) (f : QuadHw → QuadHw) : (s.modQuadHw q f).portsDown = s.portsDown := rfl
@[simp] theorem State.modQuadHw_exports (s : State) (q : Nat) (f : QuadHw → QuadHw) : (s.modQuadHw q f).exports = s.exports := rfl
@[simp] theorem State.modQuadHw_meas (s : State) (q : Nat) (f : QuadHw → QuadHw) : (s.modQuadHw q f).meas = s.meas := rfl
@[simp] theorem State.modQuadHw_spdm (s : State) (q : Nat) (f : QuadHw → QuadHw) : (s.modQuadHw q f).spdm = s.spdm := rfl
@[simp] theorem State.modQuadHw_messages (s : State) (q : Nat) (f : QuadHw → QuadHw) : (s.modQuadHw q f).messages = s.messages := rfl
@[simp] theorem State.modQuadHw_events (s : State) (q : Nat) (f : QuadHw → QuadHw) : (s.modQuadHw q f).events = s.events := rfl
@[simp] theorem State.modQuadHw_sessions (s : State) (q : Nat) (f : QuadHw → QuadHw) : (s.modQuadHw q f).sessions = s.sessions := rfl
@[simp] theorem State.modQuadHw_marks (s : State) (q : Nat) (f : QuadHw → QuadHw) : (s.modQuadHw q f).marks = s.marks := rfl
@[simp] theorem State.modQuadHw_corrected (s : State) (q : Nat) (f : QuadHw → QuadHw) : (s.modQuadHw q f).corrected = s.corrected := rfl
@[simp] theorem State.modQuadHw_migRefused (s : State) (q : Nat) (f : QuadHw → QuadHw) : (s.modQuadHw q f).migRefused = s.migRefused := rfl
@[simp] theorem State.modQuadHw_hostData (s : State) (q : Nat) (f : QuadHw → QuadHw) : (s.modQuadHw q f).hostData = s.hostData := rfl
@[simp] theorem State.modQuadHw_hostUr (s : State) (q : Nat) (f : QuadHw → QuadHw) : (s.modQuadHw q f).hostUr = s.hostUr := rfl
@[simp] theorem State.modQuadHw_hostGone (s : State) (q : Nat) (f : QuadHw → QuadHw) : (s.modQuadHw q f).hostGone = s.hostGone := rfl
@[simp] theorem State.modQuadHw_lastLive (s : State) (q : Nat) (f : QuadHw → QuadHw) : (s.modQuadHw q f).lastLive = s.lastLive := rfl
@[simp] theorem State.modQuadHw_peerDeny (s : State) (q : Nat) (f : QuadHw → QuadHw) : (s.modQuadHw q f).peerDeny = s.peerDeny := rfl
@[simp] theorem State.modQuadHw_clk17 (s : State) (q : Nat) (f : QuadHw → QuadHw) : (s.modQuadHw q f).clk17 = s.clk17 := rfl
@[simp] theorem State.modQuadHw_cycle (s : State) (q : Nat) (f : QuadHw → QuadHw) : (s.modQuadHw q f).cycle = s.cycle := rfl
@[simp] theorem State.modQuadHw_cur (s : State) (q : Nat) (f : QuadHw → QuadHw) : (s.modQuadHw q f).cur = s.cur := rfl
@[simp] theorem State.modQuadHw_agenda (s : State) (q : Nat) (f : QuadHw → QuadHw) : (s.modQuadHw q f).agenda = s.agenda := rfl
@[simp] theorem State.modQuadHw_fresh (s : State) (q : Nat) (f : QuadHw → QuadHw) : (s.modQuadHw q f).fresh = s.fresh := rfl

@[simp] theorem State.modDieHw_mem (s : State) (d : Nat) (f : DieHw → DieHw) : (s.modDieHw d f).mem = s.mem := rfl
@[simp] theorem State.modDieHw_poison (s : State) (d : Nat) (f : DieHw → DieHw) : (s.modDieHw d f).poison = s.poison := rfl
@[simp] theorem State.modDieHw_regPoison (s : State) (d : Nat) (f : DieHw → DieHw) : (s.modDieHw d f).regPoison = s.regPoison := rfl
@[simp] theorem State.modDieHw_ctxs (s : State) (d : Nat) (f : DieHw → DieHw) : (s.modDieHw d f).ctxs = s.ctxs := rfl
@[simp] theorem State.modDieHw_queues (s : State) (d : Nat) (f : DieHw → DieHw) : (s.modDieHw d f).queues = s.queues := rfl
@[simp] theorem State.modDieHw_grids (s : State) (d : Nat) (f : DieHw → DieHw) : (s.modDieHw d f).grids = s.grids := rfl
@[simp] theorem State.modDieHw_blocks (s : State) (d : Nat) (f : DieHw → DieHw) : (s.modDieHw d f).blocks = s.blocks := rfl
@[simp] theorem State.modDieHw_ops (s : State) (d : Nat) (f : DieHw → DieHw) : (s.modDieHw d f).ops = s.ops := rfl
@[simp] theorem State.modDieHw_nextId (s : State) (d : Nat) (f : DieHw → DieHw) : (s.modDieHw d f).nextId = s.nextId := rfl
@[simp] theorem State.modDieHw_seq (s : State) (d : Nat) (f : DieHw → DieHw) : (s.modDieHw d f).seq = s.seq := rfl
@[simp] theorem State.modDieHw_cores (s : State) (d : Nat) (f : DieHw → DieHw) : (s.modDieHw d f).cores = s.cores := rfl
@[simp] theorem State.modDieHw_quads (s : State) (d : Nat) (f : DieHw → DieHw) : (s.modDieHw d f).quads = s.quads := rfl
@[simp] theorem State.modDieHw_clusters (s : State) (d : Nat) (f : DieHw → DieHw) : (s.modDieHw d f).clusters = s.clusters := rfl
@[simp] theorem State.modDieHw_dies (s : State) (d : Nat) (f : DieHw → DieHw) : (s.modDieHw d f).dies = tabMod s.dies d {} f := rfl
@[simp] theorem State.modDieHw_disps (s : State) (d : Nat) (f : DieHw → DieHw) : (s.modDieHw d f).disps = s.disps := rfl
@[simp] theorem State.modDieHw_fns (s : State) (d : Nat) (f : DieHw → DieHw) : (s.modDieHw d f).fns = s.fns := rfl
@[simp] theorem State.modDieHw_sketches (s : State) (d : Nat) (f : DieHw → DieHw) : (s.modDieHw d f).sketches = s.sketches := rfl
@[simp] theorem State.modDieHw_versions (s : State) (d : Nat) (f : DieHw → DieHw) : (s.modDieHw d f).versions = s.versions := rfl
@[simp] theorem State.modDieHw_wq (s : State) (d : Nat) (f : DieHw → DieHw) : (s.modDieHw d f).wq = s.wq := rfl
@[simp] theorem State.modDieHw_cbCount (s : State) (d : Nat) (f : DieHw → DieHw) : (s.modDieHw d f).cbCount = s.cbCount := rfl
@[simp] theorem State.modDieHw_frames (s : State) (d : Nat) (f : DieHw → DieHw) : (s.modDieHw d f).frames = s.frames := rfl
@[simp] theorem State.modDieHw_freeFrames (s : State) (d : Nat) (f : DieHw → DieHw) : (s.modDieHw d f).freeFrames = s.freeFrames := rfl
@[simp] theorem State.modDieHw_pageReqs (s : State) (d : Nat) (f : DieHw → DieHw) : (s.modDieHw d f).pageReqs = s.pageReqs := rfl
@[simp] theorem State.modDieHw_sets (s : State) (d : Nat) (f : DieHw → DieHw) : (s.modDieHw d f).sets = s.sets := rfl
@[simp] theorem State.modDieHw_ptpool (s : State) (d : Nat) (f : DieHw → DieHw) : (s.modDieHw d f).ptpool = s.ptpool := rfl
@[simp] theorem State.modDieHw_portsDown (s : State) (d : Nat) (f : DieHw → DieHw) : (s.modDieHw d f).portsDown = s.portsDown := rfl
@[simp] theorem State.modDieHw_exports (s : State) (d : Nat) (f : DieHw → DieHw) : (s.modDieHw d f).exports = s.exports := rfl
@[simp] theorem State.modDieHw_meas (s : State) (d : Nat) (f : DieHw → DieHw) : (s.modDieHw d f).meas = s.meas := rfl
@[simp] theorem State.modDieHw_spdm (s : State) (d : Nat) (f : DieHw → DieHw) : (s.modDieHw d f).spdm = s.spdm := rfl
@[simp] theorem State.modDieHw_messages (s : State) (d : Nat) (f : DieHw → DieHw) : (s.modDieHw d f).messages = s.messages := rfl
@[simp] theorem State.modDieHw_events (s : State) (d : Nat) (f : DieHw → DieHw) : (s.modDieHw d f).events = s.events := rfl
@[simp] theorem State.modDieHw_sessions (s : State) (d : Nat) (f : DieHw → DieHw) : (s.modDieHw d f).sessions = s.sessions := rfl
@[simp] theorem State.modDieHw_marks (s : State) (d : Nat) (f : DieHw → DieHw) : (s.modDieHw d f).marks = s.marks := rfl
@[simp] theorem State.modDieHw_corrected (s : State) (d : Nat) (f : DieHw → DieHw) : (s.modDieHw d f).corrected = s.corrected := rfl
@[simp] theorem State.modDieHw_migRefused (s : State) (d : Nat) (f : DieHw → DieHw) : (s.modDieHw d f).migRefused = s.migRefused := rfl
@[simp] theorem State.modDieHw_hostData (s : State) (d : Nat) (f : DieHw → DieHw) : (s.modDieHw d f).hostData = s.hostData := rfl
@[simp] theorem State.modDieHw_hostUr (s : State) (d : Nat) (f : DieHw → DieHw) : (s.modDieHw d f).hostUr = s.hostUr := rfl
@[simp] theorem State.modDieHw_hostGone (s : State) (d : Nat) (f : DieHw → DieHw) : (s.modDieHw d f).hostGone = s.hostGone := rfl
@[simp] theorem State.modDieHw_lastLive (s : State) (d : Nat) (f : DieHw → DieHw) : (s.modDieHw d f).lastLive = s.lastLive := rfl
@[simp] theorem State.modDieHw_peerDeny (s : State) (d : Nat) (f : DieHw → DieHw) : (s.modDieHw d f).peerDeny = s.peerDeny := rfl
@[simp] theorem State.modDieHw_clk17 (s : State) (d : Nat) (f : DieHw → DieHw) : (s.modDieHw d f).clk17 = s.clk17 := rfl
@[simp] theorem State.modDieHw_cycle (s : State) (d : Nat) (f : DieHw → DieHw) : (s.modDieHw d f).cycle = s.cycle := rfl
@[simp] theorem State.modDieHw_cur (s : State) (d : Nat) (f : DieHw → DieHw) : (s.modDieHw d f).cur = s.cur := rfl
@[simp] theorem State.modDieHw_agenda (s : State) (d : Nat) (f : DieHw → DieHw) : (s.modDieHw d f).agenda = s.agenda := rfl
@[simp] theorem State.modDieHw_fresh (s : State) (d : Nat) (f : DieHw → DieHw) : (s.modDieHw d f).fresh = s.fresh := rfl

@[simp] theorem State.modDisp_mem (s : State) (k : Nat) (f : Disp → Disp) : (s.modDisp k f).mem = s.mem := rfl
@[simp] theorem State.modDisp_poison (s : State) (k : Nat) (f : Disp → Disp) : (s.modDisp k f).poison = s.poison := rfl
@[simp] theorem State.modDisp_regPoison (s : State) (k : Nat) (f : Disp → Disp) : (s.modDisp k f).regPoison = s.regPoison := rfl
@[simp] theorem State.modDisp_ctxs (s : State) (k : Nat) (f : Disp → Disp) : (s.modDisp k f).ctxs = s.ctxs := rfl
@[simp] theorem State.modDisp_queues (s : State) (k : Nat) (f : Disp → Disp) : (s.modDisp k f).queues = s.queues := rfl
@[simp] theorem State.modDisp_grids (s : State) (k : Nat) (f : Disp → Disp) : (s.modDisp k f).grids = s.grids := rfl
@[simp] theorem State.modDisp_blocks (s : State) (k : Nat) (f : Disp → Disp) : (s.modDisp k f).blocks = s.blocks := rfl
@[simp] theorem State.modDisp_ops (s : State) (k : Nat) (f : Disp → Disp) : (s.modDisp k f).ops = s.ops := rfl
@[simp] theorem State.modDisp_nextId (s : State) (k : Nat) (f : Disp → Disp) : (s.modDisp k f).nextId = s.nextId := rfl
@[simp] theorem State.modDisp_seq (s : State) (k : Nat) (f : Disp → Disp) : (s.modDisp k f).seq = s.seq := rfl
@[simp] theorem State.modDisp_cores (s : State) (k : Nat) (f : Disp → Disp) : (s.modDisp k f).cores = s.cores := rfl
@[simp] theorem State.modDisp_quads (s : State) (k : Nat) (f : Disp → Disp) : (s.modDisp k f).quads = s.quads := rfl
@[simp] theorem State.modDisp_clusters (s : State) (k : Nat) (f : Disp → Disp) : (s.modDisp k f).clusters = s.clusters := rfl
@[simp] theorem State.modDisp_dies (s : State) (k : Nat) (f : Disp → Disp) : (s.modDisp k f).dies = s.dies := rfl
@[simp] theorem State.modDisp_disps (s : State) (k : Nat) (f : Disp → Disp) : (s.modDisp k f).disps = tabMod s.disps k {} f := rfl
@[simp] theorem State.modDisp_fns (s : State) (k : Nat) (f : Disp → Disp) : (s.modDisp k f).fns = s.fns := rfl
@[simp] theorem State.modDisp_sketches (s : State) (k : Nat) (f : Disp → Disp) : (s.modDisp k f).sketches = s.sketches := rfl
@[simp] theorem State.modDisp_versions (s : State) (k : Nat) (f : Disp → Disp) : (s.modDisp k f).versions = s.versions := rfl
@[simp] theorem State.modDisp_wq (s : State) (k : Nat) (f : Disp → Disp) : (s.modDisp k f).wq = s.wq := rfl
@[simp] theorem State.modDisp_cbCount (s : State) (k : Nat) (f : Disp → Disp) : (s.modDisp k f).cbCount = s.cbCount := rfl
@[simp] theorem State.modDisp_frames (s : State) (k : Nat) (f : Disp → Disp) : (s.modDisp k f).frames = s.frames := rfl
@[simp] theorem State.modDisp_freeFrames (s : State) (k : Nat) (f : Disp → Disp) : (s.modDisp k f).freeFrames = s.freeFrames := rfl
@[simp] theorem State.modDisp_pageReqs (s : State) (k : Nat) (f : Disp → Disp) : (s.modDisp k f).pageReqs = s.pageReqs := rfl
@[simp] theorem State.modDisp_sets (s : State) (k : Nat) (f : Disp → Disp) : (s.modDisp k f).sets = s.sets := rfl
@[simp] theorem State.modDisp_ptpool (s : State) (k : Nat) (f : Disp → Disp) : (s.modDisp k f).ptpool = s.ptpool := rfl
@[simp] theorem State.modDisp_portsDown (s : State) (k : Nat) (f : Disp → Disp) : (s.modDisp k f).portsDown = s.portsDown := rfl
@[simp] theorem State.modDisp_exports (s : State) (k : Nat) (f : Disp → Disp) : (s.modDisp k f).exports = s.exports := rfl
@[simp] theorem State.modDisp_meas (s : State) (k : Nat) (f : Disp → Disp) : (s.modDisp k f).meas = s.meas := rfl
@[simp] theorem State.modDisp_spdm (s : State) (k : Nat) (f : Disp → Disp) : (s.modDisp k f).spdm = s.spdm := rfl
@[simp] theorem State.modDisp_messages (s : State) (k : Nat) (f : Disp → Disp) : (s.modDisp k f).messages = s.messages := rfl
@[simp] theorem State.modDisp_events (s : State) (k : Nat) (f : Disp → Disp) : (s.modDisp k f).events = s.events := rfl
@[simp] theorem State.modDisp_sessions (s : State) (k : Nat) (f : Disp → Disp) : (s.modDisp k f).sessions = s.sessions := rfl
@[simp] theorem State.modDisp_marks (s : State) (k : Nat) (f : Disp → Disp) : (s.modDisp k f).marks = s.marks := rfl
@[simp] theorem State.modDisp_corrected (s : State) (k : Nat) (f : Disp → Disp) : (s.modDisp k f).corrected = s.corrected := rfl
@[simp] theorem State.modDisp_migRefused (s : State) (k : Nat) (f : Disp → Disp) : (s.modDisp k f).migRefused = s.migRefused := rfl
@[simp] theorem State.modDisp_hostData (s : State) (k : Nat) (f : Disp → Disp) : (s.modDisp k f).hostData = s.hostData := rfl
@[simp] theorem State.modDisp_hostUr (s : State) (k : Nat) (f : Disp → Disp) : (s.modDisp k f).hostUr = s.hostUr := rfl
@[simp] theorem State.modDisp_hostGone (s : State) (k : Nat) (f : Disp → Disp) : (s.modDisp k f).hostGone = s.hostGone := rfl
@[simp] theorem State.modDisp_lastLive (s : State) (k : Nat) (f : Disp → Disp) : (s.modDisp k f).lastLive = s.lastLive := rfl
@[simp] theorem State.modDisp_peerDeny (s : State) (k : Nat) (f : Disp → Disp) : (s.modDisp k f).peerDeny = s.peerDeny := rfl
@[simp] theorem State.modDisp_clk17 (s : State) (k : Nat) (f : Disp → Disp) : (s.modDisp k f).clk17 = s.clk17 := rfl
@[simp] theorem State.modDisp_cycle (s : State) (k : Nat) (f : Disp → Disp) : (s.modDisp k f).cycle = s.cycle := rfl
@[simp] theorem State.modDisp_cur (s : State) (k : Nat) (f : Disp → Disp) : (s.modDisp k f).cur = s.cur := rfl
@[simp] theorem State.modDisp_agenda (s : State) (k : Nat) (f : Disp → Disp) : (s.modDisp k f).agenda = s.agenda := rfl
@[simp] theorem State.modDisp_fresh (s : State) (k : Nat) (f : Disp → Disp) : (s.modDisp k f).fresh = s.fresh := rfl

@[simp] theorem State.modFn_mem (s : State) (k : Nat) (f : FnRegs → FnRegs) : (s.modFn k f).mem = s.mem := rfl
@[simp] theorem State.modFn_poison (s : State) (k : Nat) (f : FnRegs → FnRegs) : (s.modFn k f).poison = s.poison := rfl
@[simp] theorem State.modFn_regPoison (s : State) (k : Nat) (f : FnRegs → FnRegs) : (s.modFn k f).regPoison = s.regPoison := rfl
@[simp] theorem State.modFn_ctxs (s : State) (k : Nat) (f : FnRegs → FnRegs) : (s.modFn k f).ctxs = s.ctxs := rfl
@[simp] theorem State.modFn_queues (s : State) (k : Nat) (f : FnRegs → FnRegs) : (s.modFn k f).queues = s.queues := rfl
@[simp] theorem State.modFn_grids (s : State) (k : Nat) (f : FnRegs → FnRegs) : (s.modFn k f).grids = s.grids := rfl
@[simp] theorem State.modFn_blocks (s : State) (k : Nat) (f : FnRegs → FnRegs) : (s.modFn k f).blocks = s.blocks := rfl
@[simp] theorem State.modFn_ops (s : State) (k : Nat) (f : FnRegs → FnRegs) : (s.modFn k f).ops = s.ops := rfl
@[simp] theorem State.modFn_nextId (s : State) (k : Nat) (f : FnRegs → FnRegs) : (s.modFn k f).nextId = s.nextId := rfl
@[simp] theorem State.modFn_seq (s : State) (k : Nat) (f : FnRegs → FnRegs) : (s.modFn k f).seq = s.seq := rfl
@[simp] theorem State.modFn_cores (s : State) (k : Nat) (f : FnRegs → FnRegs) : (s.modFn k f).cores = s.cores := rfl
@[simp] theorem State.modFn_quads (s : State) (k : Nat) (f : FnRegs → FnRegs) : (s.modFn k f).quads = s.quads := rfl
@[simp] theorem State.modFn_clusters (s : State) (k : Nat) (f : FnRegs → FnRegs) : (s.modFn k f).clusters = s.clusters := rfl
@[simp] theorem State.modFn_dies (s : State) (k : Nat) (f : FnRegs → FnRegs) : (s.modFn k f).dies = s.dies := rfl
@[simp] theorem State.modFn_disps (s : State) (k : Nat) (f : FnRegs → FnRegs) : (s.modFn k f).disps = s.disps := rfl
@[simp] theorem State.modFn_fns (s : State) (k : Nat) (f : FnRegs → FnRegs) : (s.modFn k f).fns = tabMod s.fns k {} f := rfl
@[simp] theorem State.modFn_sketches (s : State) (k : Nat) (f : FnRegs → FnRegs) : (s.modFn k f).sketches = s.sketches := rfl
@[simp] theorem State.modFn_versions (s : State) (k : Nat) (f : FnRegs → FnRegs) : (s.modFn k f).versions = s.versions := rfl
@[simp] theorem State.modFn_wq (s : State) (k : Nat) (f : FnRegs → FnRegs) : (s.modFn k f).wq = s.wq := rfl
@[simp] theorem State.modFn_cbCount (s : State) (k : Nat) (f : FnRegs → FnRegs) : (s.modFn k f).cbCount = s.cbCount := rfl
@[simp] theorem State.modFn_frames (s : State) (k : Nat) (f : FnRegs → FnRegs) : (s.modFn k f).frames = s.frames := rfl
@[simp] theorem State.modFn_freeFrames (s : State) (k : Nat) (f : FnRegs → FnRegs) : (s.modFn k f).freeFrames = s.freeFrames := rfl
@[simp] theorem State.modFn_pageReqs (s : State) (k : Nat) (f : FnRegs → FnRegs) : (s.modFn k f).pageReqs = s.pageReqs := rfl
@[simp] theorem State.modFn_sets (s : State) (k : Nat) (f : FnRegs → FnRegs) : (s.modFn k f).sets = s.sets := rfl
@[simp] theorem State.modFn_ptpool (s : State) (k : Nat) (f : FnRegs → FnRegs) : (s.modFn k f).ptpool = s.ptpool := rfl
@[simp] theorem State.modFn_portsDown (s : State) (k : Nat) (f : FnRegs → FnRegs) : (s.modFn k f).portsDown = s.portsDown := rfl
@[simp] theorem State.modFn_exports (s : State) (k : Nat) (f : FnRegs → FnRegs) : (s.modFn k f).exports = s.exports := rfl
@[simp] theorem State.modFn_meas (s : State) (k : Nat) (f : FnRegs → FnRegs) : (s.modFn k f).meas = s.meas := rfl
@[simp] theorem State.modFn_spdm (s : State) (k : Nat) (f : FnRegs → FnRegs) : (s.modFn k f).spdm = s.spdm := rfl
@[simp] theorem State.modFn_messages (s : State) (k : Nat) (f : FnRegs → FnRegs) : (s.modFn k f).messages = s.messages := rfl
@[simp] theorem State.modFn_events (s : State) (k : Nat) (f : FnRegs → FnRegs) : (s.modFn k f).events = s.events := rfl
@[simp] theorem State.modFn_sessions (s : State) (k : Nat) (f : FnRegs → FnRegs) : (s.modFn k f).sessions = s.sessions := rfl
@[simp] theorem State.modFn_marks (s : State) (k : Nat) (f : FnRegs → FnRegs) : (s.modFn k f).marks = s.marks := rfl
@[simp] theorem State.modFn_corrected (s : State) (k : Nat) (f : FnRegs → FnRegs) : (s.modFn k f).corrected = s.corrected := rfl
@[simp] theorem State.modFn_migRefused (s : State) (k : Nat) (f : FnRegs → FnRegs) : (s.modFn k f).migRefused = s.migRefused := rfl
@[simp] theorem State.modFn_hostData (s : State) (k : Nat) (f : FnRegs → FnRegs) : (s.modFn k f).hostData = s.hostData := rfl
@[simp] theorem State.modFn_hostUr (s : State) (k : Nat) (f : FnRegs → FnRegs) : (s.modFn k f).hostUr = s.hostUr := rfl
@[simp] theorem State.modFn_hostGone (s : State) (k : Nat) (f : FnRegs → FnRegs) : (s.modFn k f).hostGone = s.hostGone := rfl
@[simp] theorem State.modFn_lastLive (s : State) (k : Nat) (f : FnRegs → FnRegs) : (s.modFn k f).lastLive = s.lastLive := rfl
@[simp] theorem State.modFn_peerDeny (s : State) (k : Nat) (f : FnRegs → FnRegs) : (s.modFn k f).peerDeny = s.peerDeny := rfl
@[simp] theorem State.modFn_clk17 (s : State) (k : Nat) (f : FnRegs → FnRegs) : (s.modFn k f).clk17 = s.clk17 := rfl
@[simp] theorem State.modFn_cycle (s : State) (k : Nat) (f : FnRegs → FnRegs) : (s.modFn k f).cycle = s.cycle := rfl
@[simp] theorem State.modFn_cur (s : State) (k : Nat) (f : FnRegs → FnRegs) : (s.modFn k f).cur = s.cur := rfl
@[simp] theorem State.modFn_agenda (s : State) (k : Nat) (f : FnRegs → FnRegs) : (s.modFn k f).agenda = s.agenda := rfl
@[simp] theorem State.modFn_fresh (s : State) (k : Nat) (f : FnRegs → FnRegs) : (s.modFn k f).fresh = s.fresh := rfl

@[simp] theorem State.modGrid_mem (s : State) (g : Nat) (f : Grid → Grid) : (s.modGrid g f).mem = s.mem := rfl
@[simp] theorem State.modGrid_poison (s : State) (g : Nat) (f : Grid → Grid) : (s.modGrid g f).poison = s.poison := rfl
@[simp] theorem State.modGrid_regPoison (s : State) (g : Nat) (f : Grid → Grid) : (s.modGrid g f).regPoison = s.regPoison := rfl
@[simp] theorem State.modGrid_ctxs (s : State) (g : Nat) (f : Grid → Grid) : (s.modGrid g f).ctxs = s.ctxs := rfl
@[simp] theorem State.modGrid_queues (s : State) (g : Nat) (f : Grid → Grid) : (s.modGrid g f).queues = s.queues := rfl
@[simp] theorem State.modGrid_grids (s : State) (g : Nat) (f : Grid → Grid) : (s.modGrid g f).grids = modIf s.grids (·.id == g) f := rfl
@[simp] theorem State.modGrid_blocks (s : State) (g : Nat) (f : Grid → Grid) : (s.modGrid g f).blocks = s.blocks := rfl
@[simp] theorem State.modGrid_ops (s : State) (g : Nat) (f : Grid → Grid) : (s.modGrid g f).ops = s.ops := rfl
@[simp] theorem State.modGrid_nextId (s : State) (g : Nat) (f : Grid → Grid) : (s.modGrid g f).nextId = s.nextId := rfl
@[simp] theorem State.modGrid_seq (s : State) (g : Nat) (f : Grid → Grid) : (s.modGrid g f).seq = s.seq := rfl
@[simp] theorem State.modGrid_cores (s : State) (g : Nat) (f : Grid → Grid) : (s.modGrid g f).cores = s.cores := rfl
@[simp] theorem State.modGrid_quads (s : State) (g : Nat) (f : Grid → Grid) : (s.modGrid g f).quads = s.quads := rfl
@[simp] theorem State.modGrid_clusters (s : State) (g : Nat) (f : Grid → Grid) : (s.modGrid g f).clusters = s.clusters := rfl
@[simp] theorem State.modGrid_dies (s : State) (g : Nat) (f : Grid → Grid) : (s.modGrid g f).dies = s.dies := rfl
@[simp] theorem State.modGrid_disps (s : State) (g : Nat) (f : Grid → Grid) : (s.modGrid g f).disps = s.disps := rfl
@[simp] theorem State.modGrid_fns (s : State) (g : Nat) (f : Grid → Grid) : (s.modGrid g f).fns = s.fns := rfl
@[simp] theorem State.modGrid_sketches (s : State) (g : Nat) (f : Grid → Grid) : (s.modGrid g f).sketches = s.sketches := rfl
@[simp] theorem State.modGrid_versions (s : State) (g : Nat) (f : Grid → Grid) : (s.modGrid g f).versions = s.versions := rfl
@[simp] theorem State.modGrid_wq (s : State) (g : Nat) (f : Grid → Grid) : (s.modGrid g f).wq = s.wq := rfl
@[simp] theorem State.modGrid_cbCount (s : State) (g : Nat) (f : Grid → Grid) : (s.modGrid g f).cbCount = s.cbCount := rfl
@[simp] theorem State.modGrid_frames (s : State) (g : Nat) (f : Grid → Grid) : (s.modGrid g f).frames = s.frames := rfl
@[simp] theorem State.modGrid_freeFrames (s : State) (g : Nat) (f : Grid → Grid) : (s.modGrid g f).freeFrames = s.freeFrames := rfl
@[simp] theorem State.modGrid_pageReqs (s : State) (g : Nat) (f : Grid → Grid) : (s.modGrid g f).pageReqs = s.pageReqs := rfl
@[simp] theorem State.modGrid_sets (s : State) (g : Nat) (f : Grid → Grid) : (s.modGrid g f).sets = s.sets := rfl
@[simp] theorem State.modGrid_ptpool (s : State) (g : Nat) (f : Grid → Grid) : (s.modGrid g f).ptpool = s.ptpool := rfl
@[simp] theorem State.modGrid_portsDown (s : State) (g : Nat) (f : Grid → Grid) : (s.modGrid g f).portsDown = s.portsDown := rfl
@[simp] theorem State.modGrid_exports (s : State) (g : Nat) (f : Grid → Grid) : (s.modGrid g f).exports = s.exports := rfl
@[simp] theorem State.modGrid_meas (s : State) (g : Nat) (f : Grid → Grid) : (s.modGrid g f).meas = s.meas := rfl
@[simp] theorem State.modGrid_spdm (s : State) (g : Nat) (f : Grid → Grid) : (s.modGrid g f).spdm = s.spdm := rfl
@[simp] theorem State.modGrid_messages (s : State) (g : Nat) (f : Grid → Grid) : (s.modGrid g f).messages = s.messages := rfl
@[simp] theorem State.modGrid_events (s : State) (g : Nat) (f : Grid → Grid) : (s.modGrid g f).events = s.events := rfl
@[simp] theorem State.modGrid_sessions (s : State) (g : Nat) (f : Grid → Grid) : (s.modGrid g f).sessions = s.sessions := rfl
@[simp] theorem State.modGrid_marks (s : State) (g : Nat) (f : Grid → Grid) : (s.modGrid g f).marks = s.marks := rfl
@[simp] theorem State.modGrid_corrected (s : State) (g : Nat) (f : Grid → Grid) : (s.modGrid g f).corrected = s.corrected := rfl
@[simp] theorem State.modGrid_migRefused (s : State) (g : Nat) (f : Grid → Grid) : (s.modGrid g f).migRefused = s.migRefused := rfl
@[simp] theorem State.modGrid_hostData (s : State) (g : Nat) (f : Grid → Grid) : (s.modGrid g f).hostData = s.hostData := rfl
@[simp] theorem State.modGrid_hostUr (s : State) (g : Nat) (f : Grid → Grid) : (s.modGrid g f).hostUr = s.hostUr := rfl
@[simp] theorem State.modGrid_hostGone (s : State) (g : Nat) (f : Grid → Grid) : (s.modGrid g f).hostGone = s.hostGone := rfl
@[simp] theorem State.modGrid_lastLive (s : State) (g : Nat) (f : Grid → Grid) : (s.modGrid g f).lastLive = s.lastLive := rfl
@[simp] theorem State.modGrid_peerDeny (s : State) (g : Nat) (f : Grid → Grid) : (s.modGrid g f).peerDeny = s.peerDeny := rfl
@[simp] theorem State.modGrid_clk17 (s : State) (g : Nat) (f : Grid → Grid) : (s.modGrid g f).clk17 = s.clk17 := rfl
@[simp] theorem State.modGrid_cycle (s : State) (g : Nat) (f : Grid → Grid) : (s.modGrid g f).cycle = s.cycle := rfl
@[simp] theorem State.modGrid_cur (s : State) (g : Nat) (f : Grid → Grid) : (s.modGrid g f).cur = s.cur := rfl
@[simp] theorem State.modGrid_agenda (s : State) (g : Nat) (f : Grid → Grid) : (s.modGrid g f).agenda = s.agenda := rfl
@[simp] theorem State.modGrid_fresh (s : State) (g : Nat) (f : Grid → Grid) : (s.modGrid g f).fresh = s.fresh := rfl

@[simp] theorem State.modBlock_mem (s : State) (b : Nat) (f : Block → Block) : (s.modBlock b f).mem = s.mem := rfl
@[simp] theorem State.modBlock_poison (s : State) (b : Nat) (f : Block → Block) : (s.modBlock b f).poison = s.poison := rfl
@[simp] theorem State.modBlock_regPoison (s : State) (b : Nat) (f : Block → Block) : (s.modBlock b f).regPoison = s.regPoison := rfl
@[simp] theorem State.modBlock_ctxs (s : State) (b : Nat) (f : Block → Block) : (s.modBlock b f).ctxs = s.ctxs := rfl
@[simp] theorem State.modBlock_queues (s : State) (b : Nat) (f : Block → Block) : (s.modBlock b f).queues = s.queues := rfl
@[simp] theorem State.modBlock_grids (s : State) (b : Nat) (f : Block → Block) : (s.modBlock b f).grids = s.grids := rfl
@[simp] theorem State.modBlock_blocks (s : State) (b : Nat) (f : Block → Block) : (s.modBlock b f).blocks = modIf s.blocks (·.id == b) f := rfl
@[simp] theorem State.modBlock_ops (s : State) (b : Nat) (f : Block → Block) : (s.modBlock b f).ops = s.ops := rfl
@[simp] theorem State.modBlock_nextId (s : State) (b : Nat) (f : Block → Block) : (s.modBlock b f).nextId = s.nextId := rfl
@[simp] theorem State.modBlock_seq (s : State) (b : Nat) (f : Block → Block) : (s.modBlock b f).seq = s.seq := rfl
@[simp] theorem State.modBlock_cores (s : State) (b : Nat) (f : Block → Block) : (s.modBlock b f).cores = s.cores := rfl
@[simp] theorem State.modBlock_quads (s : State) (b : Nat) (f : Block → Block) : (s.modBlock b f).quads = s.quads := rfl
@[simp] theorem State.modBlock_clusters (s : State) (b : Nat) (f : Block → Block) : (s.modBlock b f).clusters = s.clusters := rfl
@[simp] theorem State.modBlock_dies (s : State) (b : Nat) (f : Block → Block) : (s.modBlock b f).dies = s.dies := rfl
@[simp] theorem State.modBlock_disps (s : State) (b : Nat) (f : Block → Block) : (s.modBlock b f).disps = s.disps := rfl
@[simp] theorem State.modBlock_fns (s : State) (b : Nat) (f : Block → Block) : (s.modBlock b f).fns = s.fns := rfl
@[simp] theorem State.modBlock_sketches (s : State) (b : Nat) (f : Block → Block) : (s.modBlock b f).sketches = s.sketches := rfl
@[simp] theorem State.modBlock_versions (s : State) (b : Nat) (f : Block → Block) : (s.modBlock b f).versions = s.versions := rfl
@[simp] theorem State.modBlock_wq (s : State) (b : Nat) (f : Block → Block) : (s.modBlock b f).wq = s.wq := rfl
@[simp] theorem State.modBlock_cbCount (s : State) (b : Nat) (f : Block → Block) : (s.modBlock b f).cbCount = s.cbCount := rfl
@[simp] theorem State.modBlock_frames (s : State) (b : Nat) (f : Block → Block) : (s.modBlock b f).frames = s.frames := rfl
@[simp] theorem State.modBlock_freeFrames (s : State) (b : Nat) (f : Block → Block) : (s.modBlock b f).freeFrames = s.freeFrames := rfl
@[simp] theorem State.modBlock_pageReqs (s : State) (b : Nat) (f : Block → Block) : (s.modBlock b f).pageReqs = s.pageReqs := rfl
@[simp] theorem State.modBlock_sets (s : State) (b : Nat) (f : Block → Block) : (s.modBlock b f).sets = s.sets := rfl
@[simp] theorem State.modBlock_ptpool (s : State) (b : Nat) (f : Block → Block) : (s.modBlock b f).ptpool = s.ptpool := rfl
@[simp] theorem State.modBlock_portsDown (s : State) (b : Nat) (f : Block → Block) : (s.modBlock b f).portsDown = s.portsDown := rfl
@[simp] theorem State.modBlock_exports (s : State) (b : Nat) (f : Block → Block) : (s.modBlock b f).exports = s.exports := rfl
@[simp] theorem State.modBlock_meas (s : State) (b : Nat) (f : Block → Block) : (s.modBlock b f).meas = s.meas := rfl
@[simp] theorem State.modBlock_spdm (s : State) (b : Nat) (f : Block → Block) : (s.modBlock b f).spdm = s.spdm := rfl
@[simp] theorem State.modBlock_messages (s : State) (b : Nat) (f : Block → Block) : (s.modBlock b f).messages = s.messages := rfl
@[simp] theorem State.modBlock_events (s : State) (b : Nat) (f : Block → Block) : (s.modBlock b f).events = s.events := rfl
@[simp] theorem State.modBlock_sessions (s : State) (b : Nat) (f : Block → Block) : (s.modBlock b f).sessions = s.sessions := rfl
@[simp] theorem State.modBlock_marks (s : State) (b : Nat) (f : Block → Block) : (s.modBlock b f).marks = s.marks := rfl
@[simp] theorem State.modBlock_corrected (s : State) (b : Nat) (f : Block → Block) : (s.modBlock b f).corrected = s.corrected := rfl
@[simp] theorem State.modBlock_migRefused (s : State) (b : Nat) (f : Block → Block) : (s.modBlock b f).migRefused = s.migRefused := rfl
@[simp] theorem State.modBlock_hostData (s : State) (b : Nat) (f : Block → Block) : (s.modBlock b f).hostData = s.hostData := rfl
@[simp] theorem State.modBlock_hostUr (s : State) (b : Nat) (f : Block → Block) : (s.modBlock b f).hostUr = s.hostUr := rfl
@[simp] theorem State.modBlock_hostGone (s : State) (b : Nat) (f : Block → Block) : (s.modBlock b f).hostGone = s.hostGone := rfl
@[simp] theorem State.modBlock_lastLive (s : State) (b : Nat) (f : Block → Block) : (s.modBlock b f).lastLive = s.lastLive := rfl
@[simp] theorem State.modBlock_peerDeny (s : State) (b : Nat) (f : Block → Block) : (s.modBlock b f).peerDeny = s.peerDeny := rfl
@[simp] theorem State.modBlock_clk17 (s : State) (b : Nat) (f : Block → Block) : (s.modBlock b f).clk17 = s.clk17 := rfl
@[simp] theorem State.modBlock_cycle (s : State) (b : Nat) (f : Block → Block) : (s.modBlock b f).cycle = s.cycle := rfl
@[simp] theorem State.modBlock_cur (s : State) (b : Nat) (f : Block → Block) : (s.modBlock b f).cur = s.cur := rfl
@[simp] theorem State.modBlock_agenda (s : State) (b : Nat) (f : Block → Block) : (s.modBlock b f).agenda = s.agenda := rfl
@[simp] theorem State.modBlock_fresh (s : State) (b : Nat) (f : Block → Block) : (s.modBlock b f).fresh = s.fresh := rfl

@[simp] theorem State.countEvent_mem (s : State) (i n : Nat) : (s.countEvent i n).mem = s.mem := rfl
@[simp] theorem State.countEvent_poison (s : State) (i n : Nat) : (s.countEvent i n).poison = s.poison := rfl
@[simp] theorem State.countEvent_regPoison (s : State) (i n : Nat) : (s.countEvent i n).regPoison = s.regPoison := rfl
@[simp] theorem State.countEvent_ctxs (s : State) (i n : Nat) : (s.countEvent i n).ctxs = s.ctxs := rfl
@[simp] theorem State.countEvent_queues (s : State) (i n : Nat) : (s.countEvent i n).queues = s.queues := rfl
@[simp] theorem State.countEvent_grids (s : State) (i n : Nat) : (s.countEvent i n).grids = s.grids := rfl
@[simp] theorem State.countEvent_blocks (s : State) (i n : Nat) : (s.countEvent i n).blocks = s.blocks := rfl
@[simp] theorem State.countEvent_ops (s : State) (i n : Nat) : (s.countEvent i n).ops = s.ops := rfl
@[simp] theorem State.countEvent_nextId (s : State) (i n : Nat) : (s.countEvent i n).nextId = s.nextId := rfl
@[simp] theorem State.countEvent_seq (s : State) (i n : Nat) : (s.countEvent i n).seq = s.seq := rfl
@[simp] theorem State.countEvent_cores (s : State) (i n : Nat) : (s.countEvent i n).cores = s.cores := rfl
@[simp] theorem State.countEvent_quads (s : State) (i n : Nat) : (s.countEvent i n).quads = s.quads := rfl
@[simp] theorem State.countEvent_clusters (s : State) (i n : Nat) : (s.countEvent i n).clusters = s.clusters := rfl
@[simp] theorem State.countEvent_dies (s : State) (i n : Nat) : (s.countEvent i n).dies = s.dies := rfl
@[simp] theorem State.countEvent_disps (s : State) (i n : Nat) : (s.countEvent i n).disps = s.disps := rfl
@[simp] theorem State.countEvent_fns (s : State) (i n : Nat) : (s.countEvent i n).fns = s.fns := rfl
@[simp] theorem State.countEvent_sketches (s : State) (i n : Nat) : (s.countEvent i n).sketches = s.sketches := rfl
@[simp] theorem State.countEvent_versions (s : State) (i n : Nat) : (s.countEvent i n).versions = s.versions := rfl
@[simp] theorem State.countEvent_wq (s : State) (i n : Nat) : (s.countEvent i n).wq = s.wq := rfl
@[simp] theorem State.countEvent_cbCount (s : State) (i n : Nat) : (s.countEvent i n).cbCount = s.cbCount := rfl
@[simp] theorem State.countEvent_frames (s : State) (i n : Nat) : (s.countEvent i n).frames = s.frames := rfl
@[simp] theorem State.countEvent_freeFrames (s : State) (i n : Nat) : (s.countEvent i n).freeFrames = s.freeFrames := rfl
@[simp] theorem State.countEvent_pageReqs (s : State) (i n : Nat) : (s.countEvent i n).pageReqs = s.pageReqs := rfl
@[simp] theorem State.countEvent_sets (s : State) (i n : Nat) : (s.countEvent i n).sets = s.sets := rfl
@[simp] theorem State.countEvent_ptpool (s : State) (i n : Nat) : (s.countEvent i n).ptpool = s.ptpool := rfl
@[simp] theorem State.countEvent_portsDown (s : State) (i n : Nat) : (s.countEvent i n).portsDown = s.portsDown := rfl
@[simp] theorem State.countEvent_exports (s : State) (i n : Nat) : (s.countEvent i n).exports = s.exports := rfl
@[simp] theorem State.countEvent_meas (s : State) (i n : Nat) : (s.countEvent i n).meas = s.meas := rfl
@[simp] theorem State.countEvent_spdm (s : State) (i n : Nat) : (s.countEvent i n).spdm = s.spdm := rfl
@[simp] theorem State.countEvent_messages (s : State) (i n : Nat) : (s.countEvent i n).messages = s.messages := rfl
@[simp] theorem State.countEvent_events (s : State) (i n : Nat) : (s.countEvent i n).events = tabMod s.events i 0 (· + n) := rfl
@[simp] theorem State.countEvent_sessions (s : State) (i n : Nat) : (s.countEvent i n).sessions = s.sessions := rfl
@[simp] theorem State.countEvent_marks (s : State) (i n : Nat) : (s.countEvent i n).marks = s.marks := rfl
@[simp] theorem State.countEvent_corrected (s : State) (i n : Nat) : (s.countEvent i n).corrected = s.corrected := rfl
@[simp] theorem State.countEvent_migRefused (s : State) (i n : Nat) : (s.countEvent i n).migRefused = s.migRefused := rfl
@[simp] theorem State.countEvent_hostData (s : State) (i n : Nat) : (s.countEvent i n).hostData = s.hostData := rfl
@[simp] theorem State.countEvent_hostUr (s : State) (i n : Nat) : (s.countEvent i n).hostUr = s.hostUr := rfl
@[simp] theorem State.countEvent_hostGone (s : State) (i n : Nat) : (s.countEvent i n).hostGone = s.hostGone := rfl
@[simp] theorem State.countEvent_lastLive (s : State) (i n : Nat) : (s.countEvent i n).lastLive = s.lastLive := rfl
@[simp] theorem State.countEvent_peerDeny (s : State) (i n : Nat) : (s.countEvent i n).peerDeny = s.peerDeny := rfl
@[simp] theorem State.countEvent_clk17 (s : State) (i n : Nat) : (s.countEvent i n).clk17 = s.clk17 := rfl
@[simp] theorem State.countEvent_cycle (s : State) (i n : Nat) : (s.countEvent i n).cycle = s.cycle := rfl
@[simp] theorem State.countEvent_cur (s : State) (i n : Nat) : (s.countEvent i n).cur = s.cur := rfl
@[simp] theorem State.countEvent_agenda (s : State) (i n : Nat) : (s.countEvent i n).agenda = s.agenda := rfl
@[simp] theorem State.countEvent_fresh (s : State) (i n : Nat) : (s.countEvent i n).fresh = s.fresh := rfl

@[simp] theorem State.tick_mem (s : State) : s.tick.mem = s.mem := rfl
@[simp] theorem State.tick_poison (s : State) : s.tick.poison = s.poison := rfl
@[simp] theorem State.tick_regPoison (s : State) : s.tick.regPoison = s.regPoison := rfl
@[simp] theorem State.tick_ctxs (s : State) : s.tick.ctxs = s.ctxs := rfl
@[simp] theorem State.tick_queues (s : State) : s.tick.queues = s.queues := rfl
@[simp] theorem State.tick_grids (s : State) : s.tick.grids = s.grids := rfl
@[simp] theorem State.tick_blocks (s : State) : s.tick.blocks = s.blocks := rfl
@[simp] theorem State.tick_ops (s : State) : s.tick.ops = s.ops := rfl
@[simp] theorem State.tick_nextId (s : State) : s.tick.nextId = s.nextId := rfl
@[simp] theorem State.tick_seq (s : State) : s.tick.seq = s.seq + 1 := rfl
@[simp] theorem State.tick_cores (s : State) : s.tick.cores = s.cores := rfl
@[simp] theorem State.tick_quads (s : State) : s.tick.quads = s.quads := rfl
@[simp] theorem State.tick_clusters (s : State) : s.tick.clusters = s.clusters := rfl
@[simp] theorem State.tick_dies (s : State) : s.tick.dies = s.dies := rfl
@[simp] theorem State.tick_disps (s : State) : s.tick.disps = s.disps := rfl
@[simp] theorem State.tick_fns (s : State) : s.tick.fns = s.fns := rfl
@[simp] theorem State.tick_sketches (s : State) : s.tick.sketches = s.sketches := rfl
@[simp] theorem State.tick_versions (s : State) : s.tick.versions = s.versions := rfl
@[simp] theorem State.tick_wq (s : State) : s.tick.wq = s.wq := rfl
@[simp] theorem State.tick_cbCount (s : State) : s.tick.cbCount = s.cbCount := rfl
@[simp] theorem State.tick_frames (s : State) : s.tick.frames = s.frames := rfl
@[simp] theorem State.tick_freeFrames (s : State) : s.tick.freeFrames = s.freeFrames := rfl
@[simp] theorem State.tick_pageReqs (s : State) : s.tick.pageReqs = s.pageReqs := rfl
@[simp] theorem State.tick_sets (s : State) : s.tick.sets = s.sets := rfl
@[simp] theorem State.tick_ptpool (s : State) : s.tick.ptpool = s.ptpool := rfl
@[simp] theorem State.tick_portsDown (s : State) : s.tick.portsDown = s.portsDown := rfl
@[simp] theorem State.tick_exports (s : State) : s.tick.exports = s.exports := rfl
@[simp] theorem State.tick_meas (s : State) : s.tick.meas = s.meas := rfl
@[simp] theorem State.tick_spdm (s : State) : s.tick.spdm = s.spdm := rfl
@[simp] theorem State.tick_messages (s : State) : s.tick.messages = s.messages := rfl
@[simp] theorem State.tick_events (s : State) : s.tick.events = s.events := rfl
@[simp] theorem State.tick_sessions (s : State) : s.tick.sessions = s.sessions := rfl
@[simp] theorem State.tick_marks (s : State) : s.tick.marks = s.marks := rfl
@[simp] theorem State.tick_corrected (s : State) : s.tick.corrected = s.corrected := rfl
@[simp] theorem State.tick_migRefused (s : State) : s.tick.migRefused = s.migRefused := rfl
@[simp] theorem State.tick_hostData (s : State) : s.tick.hostData = s.hostData := rfl
@[simp] theorem State.tick_hostUr (s : State) : s.tick.hostUr = s.hostUr := rfl
@[simp] theorem State.tick_hostGone (s : State) : s.tick.hostGone = s.hostGone := rfl
@[simp] theorem State.tick_lastLive (s : State) : s.tick.lastLive = s.lastLive := rfl
@[simp] theorem State.tick_peerDeny (s : State) : s.tick.peerDeny = s.peerDeny := rfl
@[simp] theorem State.tick_clk17 (s : State) : s.tick.clk17 = s.clk17 := rfl
@[simp] theorem State.tick_cycle (s : State) : s.tick.cycle = s.cycle := rfl
@[simp] theorem State.tick_cur (s : State) : s.tick.cur = s.cur := rfl
@[simp] theorem State.tick_agenda (s : State) : s.tick.agenda = s.agenda := rfl
@[simp] theorem State.tick_fresh (s : State) : s.tick.fresh = s.fresh := rfl

@[simp] theorem State.fresh1_mem (s : State) : s.fresh1.mem = s.mem := rfl
@[simp] theorem State.fresh1_poison (s : State) : s.fresh1.poison = s.poison := rfl
@[simp] theorem State.fresh1_regPoison (s : State) : s.fresh1.regPoison = s.regPoison := rfl
@[simp] theorem State.fresh1_ctxs (s : State) : s.fresh1.ctxs = s.ctxs := rfl
@[simp] theorem State.fresh1_queues (s : State) : s.fresh1.queues = s.queues := rfl
@[simp] theorem State.fresh1_grids (s : State) : s.fresh1.grids = s.grids := rfl
@[simp] theorem State.fresh1_blocks (s : State) : s.fresh1.blocks = s.blocks := rfl
@[simp] theorem State.fresh1_ops (s : State) : s.fresh1.ops = s.ops := rfl
@[simp] theorem State.fresh1_nextId (s : State) : s.fresh1.nextId = s.nextId := rfl
@[simp] theorem State.fresh1_seq (s : State) : s.fresh1.seq = s.seq := rfl
@[simp] theorem State.fresh1_cores (s : State) : s.fresh1.cores = s.cores := rfl
@[simp] theorem State.fresh1_quads (s : State) : s.fresh1.quads = s.quads := rfl
@[simp] theorem State.fresh1_clusters (s : State) : s.fresh1.clusters = s.clusters := rfl
@[simp] theorem State.fresh1_dies (s : State) : s.fresh1.dies = s.dies := rfl
@[simp] theorem State.fresh1_disps (s : State) : s.fresh1.disps = s.disps := rfl
@[simp] theorem State.fresh1_fns (s : State) : s.fresh1.fns = s.fns := rfl
@[simp] theorem State.fresh1_sketches (s : State) : s.fresh1.sketches = s.sketches := rfl
@[simp] theorem State.fresh1_versions (s : State) : s.fresh1.versions = s.versions := rfl
@[simp] theorem State.fresh1_wq (s : State) : s.fresh1.wq = s.wq := rfl
@[simp] theorem State.fresh1_cbCount (s : State) : s.fresh1.cbCount = s.cbCount := rfl
@[simp] theorem State.fresh1_frames (s : State) : s.fresh1.frames = s.frames := rfl
@[simp] theorem State.fresh1_freeFrames (s : State) : s.fresh1.freeFrames = s.freeFrames := rfl
@[simp] theorem State.fresh1_pageReqs (s : State) : s.fresh1.pageReqs = s.pageReqs := rfl
@[simp] theorem State.fresh1_sets (s : State) : s.fresh1.sets = s.sets := rfl
@[simp] theorem State.fresh1_ptpool (s : State) : s.fresh1.ptpool = s.ptpool := rfl
@[simp] theorem State.fresh1_portsDown (s : State) : s.fresh1.portsDown = s.portsDown := rfl
@[simp] theorem State.fresh1_exports (s : State) : s.fresh1.exports = s.exports := rfl
@[simp] theorem State.fresh1_meas (s : State) : s.fresh1.meas = s.meas := rfl
@[simp] theorem State.fresh1_spdm (s : State) : s.fresh1.spdm = s.spdm := rfl
@[simp] theorem State.fresh1_messages (s : State) : s.fresh1.messages = s.messages := rfl
@[simp] theorem State.fresh1_events (s : State) : s.fresh1.events = s.events := rfl
@[simp] theorem State.fresh1_sessions (s : State) : s.fresh1.sessions = s.sessions := rfl
@[simp] theorem State.fresh1_marks (s : State) : s.fresh1.marks = s.marks := rfl
@[simp] theorem State.fresh1_corrected (s : State) : s.fresh1.corrected = s.corrected := rfl
@[simp] theorem State.fresh1_migRefused (s : State) : s.fresh1.migRefused = s.migRefused := rfl
@[simp] theorem State.fresh1_hostData (s : State) : s.fresh1.hostData = s.hostData := rfl
@[simp] theorem State.fresh1_hostUr (s : State) : s.fresh1.hostUr = s.hostUr := rfl
@[simp] theorem State.fresh1_hostGone (s : State) : s.fresh1.hostGone = s.hostGone := rfl
@[simp] theorem State.fresh1_lastLive (s : State) : s.fresh1.lastLive = s.lastLive := rfl
@[simp] theorem State.fresh1_peerDeny (s : State) : s.fresh1.peerDeny = s.peerDeny := rfl
@[simp] theorem State.fresh1_clk17 (s : State) : s.fresh1.clk17 = s.clk17 := rfl
@[simp] theorem State.fresh1_cycle (s : State) : s.fresh1.cycle = s.cycle := rfl
@[simp] theorem State.fresh1_cur (s : State) : s.fresh1.cur = s.cur := rfl
@[simp] theorem State.fresh1_agenda (s : State) : s.fresh1.agenda = s.agenda := rfl
@[simp] theorem State.fresh1_fresh (s : State) : s.fresh1.fresh = s.fresh + 1 := rfl

@[simp] theorem State.discard_mem (s : State) (t : ThreadRef) : (s.discard t).mem = s.mem := rfl
@[simp] theorem State.discard_poison (s : State) (t : ThreadRef) : (s.discard t).poison = s.poison := rfl
@[simp] theorem State.discard_regPoison (s : State) (t : ThreadRef) : (s.discard t).regPoison = s.regPoison := rfl
@[simp] theorem State.discard_ctxs (s : State) (t : ThreadRef) : (s.discard t).ctxs = s.ctxs := rfl
@[simp] theorem State.discard_queues (s : State) (t : ThreadRef) : (s.discard t).queues = s.queues := rfl
@[simp] theorem State.discard_grids (s : State) (t : ThreadRef) : (s.discard t).grids = s.grids := rfl
@[simp] theorem State.discard_blocks (s : State) (t : ThreadRef) : (s.discard t).blocks = s.blocks := rfl
@[simp] theorem State.discard_ops (s : State) (t : ThreadRef) : (s.discard t).ops = s.ops := rfl
@[simp] theorem State.discard_nextId (s : State) (t : ThreadRef) : (s.discard t).nextId = s.nextId := rfl
@[simp] theorem State.discard_seq (s : State) (t : ThreadRef) : (s.discard t).seq = s.seq := rfl
@[simp] theorem State.discard_cores (s : State) (t : ThreadRef) : (s.discard t).cores = s.cores := rfl
@[simp] theorem State.discard_quads (s : State) (t : ThreadRef) : (s.discard t).quads = s.quads := rfl
@[simp] theorem State.discard_clusters (s : State) (t : ThreadRef) : (s.discard t).clusters = s.clusters := rfl
@[simp] theorem State.discard_dies (s : State) (t : ThreadRef) : (s.discard t).dies = s.dies := rfl
@[simp] theorem State.discard_disps (s : State) (t : ThreadRef) : (s.discard t).disps = s.disps := rfl
@[simp] theorem State.discard_fns (s : State) (t : ThreadRef) : (s.discard t).fns = s.fns := rfl
@[simp] theorem State.discard_sketches (s : State) (t : ThreadRef) : (s.discard t).sketches = s.sketches := rfl
@[simp] theorem State.discard_versions (s : State) (t : ThreadRef) : (s.discard t).versions = s.versions.filter (·.tag != t) := rfl
@[simp] theorem State.discard_wq (s : State) (t : ThreadRef) : (s.discard t).wq = s.wq := rfl
@[simp] theorem State.discard_cbCount (s : State) (t : ThreadRef) : (s.discard t).cbCount = s.cbCount := rfl
@[simp] theorem State.discard_frames (s : State) (t : ThreadRef) : (s.discard t).frames = s.frames := rfl
@[simp] theorem State.discard_freeFrames (s : State) (t : ThreadRef) : (s.discard t).freeFrames = s.freeFrames := rfl
@[simp] theorem State.discard_pageReqs (s : State) (t : ThreadRef) : (s.discard t).pageReqs = s.pageReqs := rfl
@[simp] theorem State.discard_sets (s : State) (t : ThreadRef) : (s.discard t).sets = s.sets := rfl
@[simp] theorem State.discard_ptpool (s : State) (t : ThreadRef) : (s.discard t).ptpool = s.ptpool := rfl
@[simp] theorem State.discard_portsDown (s : State) (t : ThreadRef) : (s.discard t).portsDown = s.portsDown := rfl
@[simp] theorem State.discard_exports (s : State) (t : ThreadRef) : (s.discard t).exports = s.exports := rfl
@[simp] theorem State.discard_meas (s : State) (t : ThreadRef) : (s.discard t).meas = s.meas := rfl
@[simp] theorem State.discard_spdm (s : State) (t : ThreadRef) : (s.discard t).spdm = s.spdm := rfl
@[simp] theorem State.discard_messages (s : State) (t : ThreadRef) : (s.discard t).messages = s.messages := rfl
@[simp] theorem State.discard_events (s : State) (t : ThreadRef) : (s.discard t).events = s.events := rfl
@[simp] theorem State.discard_sessions (s : State) (t : ThreadRef) : (s.discard t).sessions = s.sessions := rfl
@[simp] theorem State.discard_marks (s : State) (t : ThreadRef) : (s.discard t).marks = s.marks := rfl
@[simp] theorem State.discard_corrected (s : State) (t : ThreadRef) : (s.discard t).corrected = s.corrected := rfl
@[simp] theorem State.discard_migRefused (s : State) (t : ThreadRef) : (s.discard t).migRefused = s.migRefused := rfl
@[simp] theorem State.discard_hostData (s : State) (t : ThreadRef) : (s.discard t).hostData = s.hostData := rfl
@[simp] theorem State.discard_hostUr (s : State) (t : ThreadRef) : (s.discard t).hostUr = s.hostUr := rfl
@[simp] theorem State.discard_hostGone (s : State) (t : ThreadRef) : (s.discard t).hostGone = s.hostGone := rfl
@[simp] theorem State.discard_lastLive (s : State) (t : ThreadRef) : (s.discard t).lastLive = s.lastLive := rfl
@[simp] theorem State.discard_peerDeny (s : State) (t : ThreadRef) : (s.discard t).peerDeny = s.peerDeny := rfl
@[simp] theorem State.discard_clk17 (s : State) (t : ThreadRef) : (s.discard t).clk17 = s.clk17 := rfl
@[simp] theorem State.discard_cycle (s : State) (t : ThreadRef) : (s.discard t).cycle = s.cycle := rfl
@[simp] theorem State.discard_cur (s : State) (t : ThreadRef) : (s.discard t).cur = s.cur := rfl
@[simp] theorem State.discard_agenda (s : State) (t : ThreadRef) : (s.discard t).agenda = s.agenda := rfl
@[simp] theorem State.discard_fresh (s : State) (t : ThreadRef) : (s.discard t).fresh = s.fresh := rfl

@[simp] theorem State.writeMem_mem (s : State) (k : Nat) (bs : List Byte) : (s.writeMem k bs).mem = memWrite s.mem k bs := rfl
@[simp] theorem State.writeMem_regPoison (s : State) (k : Nat) (bs : List Byte) : (s.writeMem k bs).regPoison = s.regPoison := rfl
@[simp] theorem State.writeMem_ctxs (s : State) (k : Nat) (bs : List Byte) : (s.writeMem k bs).ctxs = s.ctxs := rfl
@[simp] theorem State.writeMem_queues (s : State) (k : Nat) (bs : List Byte) : (s.writeMem k bs).queues = s.queues := rfl
@[simp] theorem State.writeMem_grids (s : State) (k : Nat) (bs : List Byte) : (s.writeMem k bs).grids = s.grids := rfl
@[simp] theorem State.writeMem_blocks (s : State) (k : Nat) (bs : List Byte) : (s.writeMem k bs).blocks = s.blocks := rfl
@[simp] theorem State.writeMem_ops (s : State) (k : Nat) (bs : List Byte) : (s.writeMem k bs).ops = s.ops := rfl
@[simp] theorem State.writeMem_nextId (s : State) (k : Nat) (bs : List Byte) : (s.writeMem k bs).nextId = s.nextId := rfl
@[simp] theorem State.writeMem_seq (s : State) (k : Nat) (bs : List Byte) : (s.writeMem k bs).seq = s.seq := rfl
@[simp] theorem State.writeMem_cores (s : State) (k : Nat) (bs : List Byte) : (s.writeMem k bs).cores = s.cores := rfl
@[simp] theorem State.writeMem_quads (s : State) (k : Nat) (bs : List Byte) : (s.writeMem k bs).quads = s.quads := rfl
@[simp] theorem State.writeMem_clusters (s : State) (k : Nat) (bs : List Byte) : (s.writeMem k bs).clusters = s.clusters := rfl
@[simp] theorem State.writeMem_dies (s : State) (k : Nat) (bs : List Byte) : (s.writeMem k bs).dies = s.dies := rfl
@[simp] theorem State.writeMem_disps (s : State) (k : Nat) (bs : List Byte) : (s.writeMem k bs).disps = s.disps := rfl
@[simp] theorem State.writeMem_fns (s : State) (k : Nat) (bs : List Byte) : (s.writeMem k bs).fns = s.fns := rfl
@[simp] theorem State.writeMem_sketches (s : State) (k : Nat) (bs : List Byte) : (s.writeMem k bs).sketches = s.sketches := rfl
@[simp] theorem State.writeMem_versions (s : State) (k : Nat) (bs : List Byte) : (s.writeMem k bs).versions = s.versions := rfl
@[simp] theorem State.writeMem_wq (s : State) (k : Nat) (bs : List Byte) : (s.writeMem k bs).wq = s.wq := rfl
@[simp] theorem State.writeMem_cbCount (s : State) (k : Nat) (bs : List Byte) : (s.writeMem k bs).cbCount = s.cbCount := rfl
@[simp] theorem State.writeMem_frames (s : State) (k : Nat) (bs : List Byte) : (s.writeMem k bs).frames = s.frames := rfl
@[simp] theorem State.writeMem_freeFrames (s : State) (k : Nat) (bs : List Byte) : (s.writeMem k bs).freeFrames = s.freeFrames := rfl
@[simp] theorem State.writeMem_pageReqs (s : State) (k : Nat) (bs : List Byte) : (s.writeMem k bs).pageReqs = s.pageReqs := rfl
@[simp] theorem State.writeMem_sets (s : State) (k : Nat) (bs : List Byte) : (s.writeMem k bs).sets = s.sets := rfl
@[simp] theorem State.writeMem_ptpool (s : State) (k : Nat) (bs : List Byte) : (s.writeMem k bs).ptpool = s.ptpool := rfl
@[simp] theorem State.writeMem_portsDown (s : State) (k : Nat) (bs : List Byte) : (s.writeMem k bs).portsDown = s.portsDown := rfl
@[simp] theorem State.writeMem_exports (s : State) (k : Nat) (bs : List Byte) : (s.writeMem k bs).exports = s.exports := rfl
@[simp] theorem State.writeMem_meas (s : State) (k : Nat) (bs : List Byte) : (s.writeMem k bs).meas = s.meas := rfl
@[simp] theorem State.writeMem_spdm (s : State) (k : Nat) (bs : List Byte) : (s.writeMem k bs).spdm = s.spdm := rfl
@[simp] theorem State.writeMem_messages (s : State) (k : Nat) (bs : List Byte) : (s.writeMem k bs).messages = s.messages := rfl
@[simp] theorem State.writeMem_events (s : State) (k : Nat) (bs : List Byte) : (s.writeMem k bs).events = s.events := rfl
@[simp] theorem State.writeMem_sessions (s : State) (k : Nat) (bs : List Byte) : (s.writeMem k bs).sessions = s.sessions := rfl
@[simp] theorem State.writeMem_marks (s : State) (k : Nat) (bs : List Byte) : (s.writeMem k bs).marks = s.marks := rfl
@[simp] theorem State.writeMem_corrected (s : State) (k : Nat) (bs : List Byte) : (s.writeMem k bs).corrected = s.corrected := rfl
@[simp] theorem State.writeMem_migRefused (s : State) (k : Nat) (bs : List Byte) : (s.writeMem k bs).migRefused = s.migRefused := rfl
@[simp] theorem State.writeMem_hostData (s : State) (k : Nat) (bs : List Byte) : (s.writeMem k bs).hostData = s.hostData := rfl
@[simp] theorem State.writeMem_hostUr (s : State) (k : Nat) (bs : List Byte) : (s.writeMem k bs).hostUr = s.hostUr := rfl
@[simp] theorem State.writeMem_hostGone (s : State) (k : Nat) (bs : List Byte) : (s.writeMem k bs).hostGone = s.hostGone := rfl
@[simp] theorem State.writeMem_lastLive (s : State) (k : Nat) (bs : List Byte) : (s.writeMem k bs).lastLive = s.lastLive := rfl
@[simp] theorem State.writeMem_peerDeny (s : State) (k : Nat) (bs : List Byte) : (s.writeMem k bs).peerDeny = s.peerDeny := rfl
@[simp] theorem State.writeMem_clk17 (s : State) (k : Nat) (bs : List Byte) : (s.writeMem k bs).clk17 = s.clk17 := rfl
@[simp] theorem State.writeMem_cycle (s : State) (k : Nat) (bs : List Byte) : (s.writeMem k bs).cycle = s.cycle := rfl
@[simp] theorem State.writeMem_cur (s : State) (k : Nat) (bs : List Byte) : (s.writeMem k bs).cur = s.cur := rfl
@[simp] theorem State.writeMem_agenda (s : State) (k : Nat) (bs : List Byte) : (s.writeMem k bs).agenda = s.agenda := rfl
@[simp] theorem State.writeMem_fresh (s : State) (k : Nat) (bs : List Byte) : (s.writeMem k bs).fresh = s.fresh := rfl

@[simp] theorem State.modLanes_mem (s : State) (b g : Nat) (ls : List Nat) (f : Nat → Thread → Thread) : (s.modLanes b g ls f).mem = s.mem := rfl
@[simp] theorem State.modLanes_poison (s : State) (b g : Nat) (ls : List Nat) (f : Nat → Thread → Thread) : (s.modLanes b g ls f).poison = s.poison := rfl
@[simp] theorem State.modLanes_regPoison (s : State) (b g : Nat) (ls : List Nat) (f : Nat → Thread → Thread) : (s.modLanes b g ls f).regPoison = s.regPoison := rfl
@[simp] theorem State.modLanes_ctxs (s : State) (b g : Nat) (ls : List Nat) (f : Nat → Thread → Thread) : (s.modLanes b g ls f).ctxs = s.ctxs := rfl
@[simp] theorem State.modLanes_queues (s : State) (b g : Nat) (ls : List Nat) (f : Nat → Thread → Thread) : (s.modLanes b g ls f).queues = s.queues := rfl
@[simp] theorem State.modLanes_grids (s : State) (b g : Nat) (ls : List Nat) (f : Nat → Thread → Thread) : (s.modLanes b g ls f).grids = s.grids := rfl
@[simp] theorem State.modLanes_ops (s : State) (b g : Nat) (ls : List Nat) (f : Nat → Thread → Thread) : (s.modLanes b g ls f).ops = s.ops := rfl
@[simp] theorem State.modLanes_nextId (s : State) (b g : Nat) (ls : List Nat) (f : Nat → Thread → Thread) : (s.modLanes b g ls f).nextId = s.nextId := rfl
@[simp] theorem State.modLanes_seq (s : State) (b g : Nat) (ls : List Nat) (f : Nat → Thread → Thread) : (s.modLanes b g ls f).seq = s.seq := rfl
@[simp] theorem State.modLanes_cores (s : State) (b g : Nat) (ls : List Nat) (f : Nat → Thread → Thread) : (s.modLanes b g ls f).cores = s.cores := rfl
@[simp] theorem State.modLanes_quads (s : State) (b g : Nat) (ls : List Nat) (f : Nat → Thread → Thread) : (s.modLanes b g ls f).quads = s.quads := rfl
@[simp] theorem State.modLanes_clusters (s : State) (b g : Nat) (ls : List Nat) (f : Nat → Thread → Thread) : (s.modLanes b g ls f).clusters = s.clusters := rfl
@[simp] theorem State.modLanes_dies (s : State) (b g : Nat) (ls : List Nat) (f : Nat → Thread → Thread) : (s.modLanes b g ls f).dies = s.dies := rfl
@[simp] theorem State.modLanes_disps (s : State) (b g : Nat) (ls : List Nat) (f : Nat → Thread → Thread) : (s.modLanes b g ls f).disps = s.disps := rfl
@[simp] theorem State.modLanes_fns (s : State) (b g : Nat) (ls : List Nat) (f : Nat → Thread → Thread) : (s.modLanes b g ls f).fns = s.fns := rfl
@[simp] theorem State.modLanes_sketches (s : State) (b g : Nat) (ls : List Nat) (f : Nat → Thread → Thread) : (s.modLanes b g ls f).sketches = s.sketches := rfl
@[simp] theorem State.modLanes_versions (s : State) (b g : Nat) (ls : List Nat) (f : Nat → Thread → Thread) : (s.modLanes b g ls f).versions = s.versions := rfl
@[simp] theorem State.modLanes_wq (s : State) (b g : Nat) (ls : List Nat) (f : Nat → Thread → Thread) : (s.modLanes b g ls f).wq = s.wq := rfl
@[simp] theorem State.modLanes_cbCount (s : State) (b g : Nat) (ls : List Nat) (f : Nat → Thread → Thread) : (s.modLanes b g ls f).cbCount = s.cbCount := rfl
@[simp] theorem State.modLanes_frames (s : State) (b g : Nat) (ls : List Nat) (f : Nat → Thread → Thread) : (s.modLanes b g ls f).frames = s.frames := rfl
@[simp] theorem State.modLanes_freeFrames (s : State) (b g : Nat) (ls : List Nat) (f : Nat → Thread → Thread) : (s.modLanes b g ls f).freeFrames = s.freeFrames := rfl
@[simp] theorem State.modLanes_pageReqs (s : State) (b g : Nat) (ls : List Nat) (f : Nat → Thread → Thread) : (s.modLanes b g ls f).pageReqs = s.pageReqs := rfl
@[simp] theorem State.modLanes_sets (s : State) (b g : Nat) (ls : List Nat) (f : Nat → Thread → Thread) : (s.modLanes b g ls f).sets = s.sets := rfl
@[simp] theorem State.modLanes_ptpool (s : State) (b g : Nat) (ls : List Nat) (f : Nat → Thread → Thread) : (s.modLanes b g ls f).ptpool = s.ptpool := rfl
@[simp] theorem State.modLanes_portsDown (s : State) (b g : Nat) (ls : List Nat) (f : Nat → Thread → Thread) : (s.modLanes b g ls f).portsDown = s.portsDown := rfl
@[simp] theorem State.modLanes_exports (s : State) (b g : Nat) (ls : List Nat) (f : Nat → Thread → Thread) : (s.modLanes b g ls f).exports = s.exports := rfl
@[simp] theorem State.modLanes_meas (s : State) (b g : Nat) (ls : List Nat) (f : Nat → Thread → Thread) : (s.modLanes b g ls f).meas = s.meas := rfl
@[simp] theorem State.modLanes_spdm (s : State) (b g : Nat) (ls : List Nat) (f : Nat → Thread → Thread) : (s.modLanes b g ls f).spdm = s.spdm := rfl
@[simp] theorem State.modLanes_messages (s : State) (b g : Nat) (ls : List Nat) (f : Nat → Thread → Thread) : (s.modLanes b g ls f).messages = s.messages := rfl
@[simp] theorem State.modLanes_events (s : State) (b g : Nat) (ls : List Nat) (f : Nat → Thread → Thread) : (s.modLanes b g ls f).events = s.events := rfl
@[simp] theorem State.modLanes_sessions (s : State) (b g : Nat) (ls : List Nat) (f : Nat → Thread → Thread) : (s.modLanes b g ls f).sessions = s.sessions := rfl
@[simp] theorem State.modLanes_marks (s : State) (b g : Nat) (ls : List Nat) (f : Nat → Thread → Thread) : (s.modLanes b g ls f).marks = s.marks := rfl
@[simp] theorem State.modLanes_corrected (s : State) (b g : Nat) (ls : List Nat) (f : Nat → Thread → Thread) : (s.modLanes b g ls f).corrected = s.corrected := rfl
@[simp] theorem State.modLanes_migRefused (s : State) (b g : Nat) (ls : List Nat) (f : Nat → Thread → Thread) : (s.modLanes b g ls f).migRefused = s.migRefused := rfl
@[simp] theorem State.modLanes_hostData (s : State) (b g : Nat) (ls : List Nat) (f : Nat → Thread → Thread) : (s.modLanes b g ls f).hostData = s.hostData := rfl
@[simp] theorem State.modLanes_hostUr (s : State) (b g : Nat) (ls : List Nat) (f : Nat → Thread → Thread) : (s.modLanes b g ls f).hostUr = s.hostUr := rfl
@[simp] theorem State.modLanes_hostGone (s : State) (b g : Nat) (ls : List Nat) (f : Nat → Thread → Thread) : (s.modLanes b g ls f).hostGone = s.hostGone := rfl
@[simp] theorem State.modLanes_lastLive (s : State) (b g : Nat) (ls : List Nat) (f : Nat → Thread → Thread) : (s.modLanes b g ls f).lastLive = s.lastLive := rfl
@[simp] theorem State.modLanes_peerDeny (s : State) (b g : Nat) (ls : List Nat) (f : Nat → Thread → Thread) : (s.modLanes b g ls f).peerDeny = s.peerDeny := rfl
@[simp] theorem State.modLanes_clk17 (s : State) (b g : Nat) (ls : List Nat) (f : Nat → Thread → Thread) : (s.modLanes b g ls f).clk17 = s.clk17 := rfl
@[simp] theorem State.modLanes_cycle (s : State) (b g : Nat) (ls : List Nat) (f : Nat → Thread → Thread) : (s.modLanes b g ls f).cycle = s.cycle := rfl
@[simp] theorem State.modLanes_cur (s : State) (b g : Nat) (ls : List Nat) (f : Nat → Thread → Thread) : (s.modLanes b g ls f).cur = s.cur := rfl
@[simp] theorem State.modLanes_agenda (s : State) (b g : Nat) (ls : List Nat) (f : Nat → Thread → Thread) : (s.modLanes b g ls f).agenda = s.agenda := rfl
@[simp] theorem State.modLanes_fresh (s : State) (b g : Nat) (ls : List Nat) (f : Nat → Thread → Thread) : (s.modLanes b g ls f).fresh = s.fresh := rfl

@[simp] theorem State.modGroup_mem (s : State) (b g : Nat) (f : Group → Group) : (s.modGroup b g f).mem = s.mem := rfl
@[simp] theorem State.modGroup_poison (s : State) (b g : Nat) (f : Group → Group) : (s.modGroup b g f).poison = s.poison := rfl
@[simp] theorem State.modGroup_regPoison (s : State) (b g : Nat) (f : Group → Group) : (s.modGroup b g f).regPoison = s.regPoison := rfl
@[simp] theorem State.modGroup_ctxs (s : State) (b g : Nat) (f : Group → Group) : (s.modGroup b g f).ctxs = s.ctxs := rfl
@[simp] theorem State.modGroup_queues (s : State) (b g : Nat) (f : Group → Group) : (s.modGroup b g f).queues = s.queues := rfl
@[simp] theorem State.modGroup_grids (s : State) (b g : Nat) (f : Group → Group) : (s.modGroup b g f).grids = s.grids := rfl
@[simp] theorem State.modGroup_ops (s : State) (b g : Nat) (f : Group → Group) : (s.modGroup b g f).ops = s.ops := rfl
@[simp] theorem State.modGroup_nextId (s : State) (b g : Nat) (f : Group → Group) : (s.modGroup b g f).nextId = s.nextId := rfl
@[simp] theorem State.modGroup_seq (s : State) (b g : Nat) (f : Group → Group) : (s.modGroup b g f).seq = s.seq := rfl
@[simp] theorem State.modGroup_cores (s : State) (b g : Nat) (f : Group → Group) : (s.modGroup b g f).cores = s.cores := rfl
@[simp] theorem State.modGroup_quads (s : State) (b g : Nat) (f : Group → Group) : (s.modGroup b g f).quads = s.quads := rfl
@[simp] theorem State.modGroup_clusters (s : State) (b g : Nat) (f : Group → Group) : (s.modGroup b g f).clusters = s.clusters := rfl
@[simp] theorem State.modGroup_dies (s : State) (b g : Nat) (f : Group → Group) : (s.modGroup b g f).dies = s.dies := rfl
@[simp] theorem State.modGroup_disps (s : State) (b g : Nat) (f : Group → Group) : (s.modGroup b g f).disps = s.disps := rfl
@[simp] theorem State.modGroup_fns (s : State) (b g : Nat) (f : Group → Group) : (s.modGroup b g f).fns = s.fns := rfl
@[simp] theorem State.modGroup_sketches (s : State) (b g : Nat) (f : Group → Group) : (s.modGroup b g f).sketches = s.sketches := rfl
@[simp] theorem State.modGroup_versions (s : State) (b g : Nat) (f : Group → Group) : (s.modGroup b g f).versions = s.versions := rfl
@[simp] theorem State.modGroup_wq (s : State) (b g : Nat) (f : Group → Group) : (s.modGroup b g f).wq = s.wq := rfl
@[simp] theorem State.modGroup_cbCount (s : State) (b g : Nat) (f : Group → Group) : (s.modGroup b g f).cbCount = s.cbCount := rfl
@[simp] theorem State.modGroup_frames (s : State) (b g : Nat) (f : Group → Group) : (s.modGroup b g f).frames = s.frames := rfl
@[simp] theorem State.modGroup_freeFrames (s : State) (b g : Nat) (f : Group → Group) : (s.modGroup b g f).freeFrames = s.freeFrames := rfl
@[simp] theorem State.modGroup_pageReqs (s : State) (b g : Nat) (f : Group → Group) : (s.modGroup b g f).pageReqs = s.pageReqs := rfl
@[simp] theorem State.modGroup_sets (s : State) (b g : Nat) (f : Group → Group) : (s.modGroup b g f).sets = s.sets := rfl
@[simp] theorem State.modGroup_ptpool (s : State) (b g : Nat) (f : Group → Group) : (s.modGroup b g f).ptpool = s.ptpool := rfl
@[simp] theorem State.modGroup_portsDown (s : State) (b g : Nat) (f : Group → Group) : (s.modGroup b g f).portsDown = s.portsDown := rfl
@[simp] theorem State.modGroup_exports (s : State) (b g : Nat) (f : Group → Group) : (s.modGroup b g f).exports = s.exports := rfl
@[simp] theorem State.modGroup_meas (s : State) (b g : Nat) (f : Group → Group) : (s.modGroup b g f).meas = s.meas := rfl
@[simp] theorem State.modGroup_spdm (s : State) (b g : Nat) (f : Group → Group) : (s.modGroup b g f).spdm = s.spdm := rfl
@[simp] theorem State.modGroup_messages (s : State) (b g : Nat) (f : Group → Group) : (s.modGroup b g f).messages = s.messages := rfl
@[simp] theorem State.modGroup_events (s : State) (b g : Nat) (f : Group → Group) : (s.modGroup b g f).events = s.events := rfl
@[simp] theorem State.modGroup_sessions (s : State) (b g : Nat) (f : Group → Group) : (s.modGroup b g f).sessions = s.sessions := rfl
@[simp] theorem State.modGroup_marks (s : State) (b g : Nat) (f : Group → Group) : (s.modGroup b g f).marks = s.marks := rfl
@[simp] theorem State.modGroup_corrected (s : State) (b g : Nat) (f : Group → Group) : (s.modGroup b g f).corrected = s.corrected := rfl
@[simp] theorem State.modGroup_migRefused (s : State) (b g : Nat) (f : Group → Group) : (s.modGroup b g f).migRefused = s.migRefused := rfl
@[simp] theorem State.modGroup_hostData (s : State) (b g : Nat) (f : Group → Group) : (s.modGroup b g f).hostData = s.hostData := rfl
@[simp] theorem State.modGroup_hostUr (s : State) (b g : Nat) (f : Group → Group) : (s.modGroup b g f).hostUr = s.hostUr := rfl
@[simp] theorem State.modGroup_hostGone (s : State) (b g : Nat) (f : Group → Group) : (s.modGroup b g f).hostGone = s.hostGone := rfl
@[simp] theorem State.modGroup_lastLive (s : State) (b g : Nat) (f : Group → Group) : (s.modGroup b g f).lastLive = s.lastLive := rfl
@[simp] theorem State.modGroup_peerDeny (s : State) (b g : Nat) (f : Group → Group) : (s.modGroup b g f).peerDeny = s.peerDeny := rfl
@[simp] theorem State.modGroup_clk17 (s : State) (b g : Nat) (f : Group → Group) : (s.modGroup b g f).clk17 = s.clk17 := rfl
@[simp] theorem State.modGroup_cycle (s : State) (b g : Nat) (f : Group → Group) : (s.modGroup b g f).cycle = s.cycle := rfl
@[simp] theorem State.modGroup_cur (s : State) (b g : Nat) (f : Group → Group) : (s.modGroup b g f).cur = s.cur := rfl
@[simp] theorem State.modGroup_agenda (s : State) (b g : Nat) (f : Group → Group) : (s.modGroup b g f).agenda = s.agenda := rfl
@[simp] theorem State.modGroup_fresh (s : State) (b g : Nat) (f : Group → Group) : (s.modGroup b g f).fresh = s.fresh := rfl

@[simp] theorem State.modCtl_mem (s : State) (b r q : Nat) (f : Ctl → Ctl) : (s.modCtl b r q f).mem = s.mem := rfl
@[simp] theorem State.modCtl_poison (s : State) (b r q : Nat) (f : Ctl → Ctl) : (s.modCtl b r q f).poison = s.poison := rfl
@[simp] theorem State.modCtl_regPoison (s : State) (b r q : Nat) (f : Ctl → Ctl) : (s.modCtl b r q f).regPoison = s.regPoison := rfl
@[simp] theorem State.modCtl_ctxs (s : State) (b r q : Nat) (f : Ctl → Ctl) : (s.modCtl b r q f).ctxs = s.ctxs := rfl
@[simp] theorem State.modCtl_queues (s : State) (b r q : Nat) (f : Ctl → Ctl) : (s.modCtl b r q f).queues = s.queues := rfl
@[simp] theorem State.modCtl_grids (s : State) (b r q : Nat) (f : Ctl → Ctl) : (s.modCtl b r q f).grids = s.grids := rfl
@[simp] theorem State.modCtl_ops (s : State) (b r q : Nat) (f : Ctl → Ctl) : (s.modCtl b r q f).ops = s.ops := rfl
@[simp] theorem State.modCtl_nextId (s : State) (b r q : Nat) (f : Ctl → Ctl) : (s.modCtl b r q f).nextId = s.nextId := rfl
@[simp] theorem State.modCtl_seq (s : State) (b r q : Nat) (f : Ctl → Ctl) : (s.modCtl b r q f).seq = s.seq := rfl
@[simp] theorem State.modCtl_cores (s : State) (b r q : Nat) (f : Ctl → Ctl) : (s.modCtl b r q f).cores = s.cores := rfl
@[simp] theorem State.modCtl_quads (s : State) (b r q : Nat) (f : Ctl → Ctl) : (s.modCtl b r q f).quads = s.quads := rfl
@[simp] theorem State.modCtl_clusters (s : State) (b r q : Nat) (f : Ctl → Ctl) : (s.modCtl b r q f).clusters = s.clusters := rfl
@[simp] theorem State.modCtl_dies (s : State) (b r q : Nat) (f : Ctl → Ctl) : (s.modCtl b r q f).dies = s.dies := rfl
@[simp] theorem State.modCtl_disps (s : State) (b r q : Nat) (f : Ctl → Ctl) : (s.modCtl b r q f).disps = s.disps := rfl
@[simp] theorem State.modCtl_fns (s : State) (b r q : Nat) (f : Ctl → Ctl) : (s.modCtl b r q f).fns = s.fns := rfl
@[simp] theorem State.modCtl_sketches (s : State) (b r q : Nat) (f : Ctl → Ctl) : (s.modCtl b r q f).sketches = s.sketches := rfl
@[simp] theorem State.modCtl_versions (s : State) (b r q : Nat) (f : Ctl → Ctl) : (s.modCtl b r q f).versions = s.versions := rfl
@[simp] theorem State.modCtl_wq (s : State) (b r q : Nat) (f : Ctl → Ctl) : (s.modCtl b r q f).wq = s.wq := rfl
@[simp] theorem State.modCtl_cbCount (s : State) (b r q : Nat) (f : Ctl → Ctl) : (s.modCtl b r q f).cbCount = s.cbCount := rfl
@[simp] theorem State.modCtl_frames (s : State) (b r q : Nat) (f : Ctl → Ctl) : (s.modCtl b r q f).frames = s.frames := rfl
@[simp] theorem State.modCtl_freeFrames (s : State) (b r q : Nat) (f : Ctl → Ctl) : (s.modCtl b r q f).freeFrames = s.freeFrames := rfl
@[simp] theorem State.modCtl_pageReqs (s : State) (b r q : Nat) (f : Ctl → Ctl) : (s.modCtl b r q f).pageReqs = s.pageReqs := rfl
@[simp] theorem State.modCtl_sets (s : State) (b r q : Nat) (f : Ctl → Ctl) : (s.modCtl b r q f).sets = s.sets := rfl
@[simp] theorem State.modCtl_ptpool (s : State) (b r q : Nat) (f : Ctl → Ctl) : (s.modCtl b r q f).ptpool = s.ptpool := rfl
@[simp] theorem State.modCtl_portsDown (s : State) (b r q : Nat) (f : Ctl → Ctl) : (s.modCtl b r q f).portsDown = s.portsDown := rfl
@[simp] theorem State.modCtl_exports (s : State) (b r q : Nat) (f : Ctl → Ctl) : (s.modCtl b r q f).exports = s.exports := rfl
@[simp] theorem State.modCtl_meas (s : State) (b r q : Nat) (f : Ctl → Ctl) : (s.modCtl b r q f).meas = s.meas := rfl
@[simp] theorem State.modCtl_spdm (s : State) (b r q : Nat) (f : Ctl → Ctl) : (s.modCtl b r q f).spdm = s.spdm := rfl
@[simp] theorem State.modCtl_messages (s : State) (b r q : Nat) (f : Ctl → Ctl) : (s.modCtl b r q f).messages = s.messages := rfl
@[simp] theorem State.modCtl_events (s : State) (b r q : Nat) (f : Ctl → Ctl) : (s.modCtl b r q f).events = s.events := rfl
@[simp] theorem State.modCtl_sessions (s : State) (b r q : Nat) (f : Ctl → Ctl) : (s.modCtl b r q f).sessions = s.sessions := rfl
@[simp] theorem State.modCtl_marks (s : State) (b r q : Nat) (f : Ctl → Ctl) : (s.modCtl b r q f).marks = s.marks := rfl
@[simp] theorem State.modCtl_corrected (s : State) (b r q : Nat) (f : Ctl → Ctl) : (s.modCtl b r q f).corrected = s.corrected := rfl
@[simp] theorem State.modCtl_migRefused (s : State) (b r q : Nat) (f : Ctl → Ctl) : (s.modCtl b r q f).migRefused = s.migRefused := rfl
@[simp] theorem State.modCtl_hostData (s : State) (b r q : Nat) (f : Ctl → Ctl) : (s.modCtl b r q f).hostData = s.hostData := rfl
@[simp] theorem State.modCtl_hostUr (s : State) (b r q : Nat) (f : Ctl → Ctl) : (s.modCtl b r q f).hostUr = s.hostUr := rfl
@[simp] theorem State.modCtl_hostGone (s : State) (b r q : Nat) (f : Ctl → Ctl) : (s.modCtl b r q f).hostGone = s.hostGone := rfl
@[simp] theorem State.modCtl_lastLive (s : State) (b r q : Nat) (f : Ctl → Ctl) : (s.modCtl b r q f).lastLive = s.lastLive := rfl
@[simp] theorem State.modCtl_peerDeny (s : State) (b r q : Nat) (f : Ctl → Ctl) : (s.modCtl b r q f).peerDeny = s.peerDeny := rfl
@[simp] theorem State.modCtl_clk17 (s : State) (b r q : Nat) (f : Ctl → Ctl) : (s.modCtl b r q f).clk17 = s.clk17 := rfl
@[simp] theorem State.modCtl_cycle (s : State) (b r q : Nat) (f : Ctl → Ctl) : (s.modCtl b r q f).cycle = s.cycle := rfl
@[simp] theorem State.modCtl_cur (s : State) (b r q : Nat) (f : Ctl → Ctl) : (s.modCtl b r q f).cur = s.cur := rfl
@[simp] theorem State.modCtl_agenda (s : State) (b r q : Nat) (f : Ctl → Ctl) : (s.modCtl b r q f).agenda = s.agenda := rfl
@[simp] theorem State.modCtl_fresh (s : State) (b r q : Nat) (f : Ctl → Ctl) : (s.modCtl b r q f).fresh = s.fresh := rfl

@[simp] theorem State.modPair_mem (s : State) (b r q : Nat) (f : Pair → Pair) : (s.modPair b r q f).mem = s.mem := rfl
@[simp] theorem State.modPair_poison (s : State) (b r q : Nat) (f : Pair → Pair) : (s.modPair b r q f).poison = s.poison := rfl
@[simp] theorem State.modPair_regPoison (s : State) (b r q : Nat) (f : Pair → Pair) : (s.modPair b r q f).regPoison = s.regPoison := rfl
@[simp] theorem State.modPair_ctxs (s : State) (b r q : Nat) (f : Pair → Pair) : (s.modPair b r q f).ctxs = s.ctxs := rfl
@[simp] theorem State.modPair_queues (s : State) (b r q : Nat) (f : Pair → Pair) : (s.modPair b r q f).queues = s.queues := rfl
@[simp] theorem State.modPair_grids (s : State) (b r q : Nat) (f : Pair → Pair) : (s.modPair b r q f).grids = s.grids := rfl
@[simp] theorem State.modPair_ops (s : State) (b r q : Nat) (f : Pair → Pair) : (s.modPair b r q f).ops = s.ops := rfl
@[simp] theorem State.modPair_nextId (s : State) (b r q : Nat) (f : Pair → Pair) : (s.modPair b r q f).nextId = s.nextId := rfl
@[simp] theorem State.modPair_seq (s : State) (b r q : Nat) (f : Pair → Pair) : (s.modPair b r q f).seq = s.seq := rfl
@[simp] theorem State.modPair_cores (s : State) (b r q : Nat) (f : Pair → Pair) : (s.modPair b r q f).cores = s.cores := rfl
@[simp] theorem State.modPair_quads (s : State) (b r q : Nat) (f : Pair → Pair) : (s.modPair b r q f).quads = s.quads := rfl
@[simp] theorem State.modPair_clusters (s : State) (b r q : Nat) (f : Pair → Pair) : (s.modPair b r q f).clusters = s.clusters := rfl
@[simp] theorem State.modPair_dies (s : State) (b r q : Nat) (f : Pair → Pair) : (s.modPair b r q f).dies = s.dies := rfl
@[simp] theorem State.modPair_disps (s : State) (b r q : Nat) (f : Pair → Pair) : (s.modPair b r q f).disps = s.disps := rfl
@[simp] theorem State.modPair_fns (s : State) (b r q : Nat) (f : Pair → Pair) : (s.modPair b r q f).fns = s.fns := rfl
@[simp] theorem State.modPair_sketches (s : State) (b r q : Nat) (f : Pair → Pair) : (s.modPair b r q f).sketches = s.sketches := rfl
@[simp] theorem State.modPair_versions (s : State) (b r q : Nat) (f : Pair → Pair) : (s.modPair b r q f).versions = s.versions := rfl
@[simp] theorem State.modPair_wq (s : State) (b r q : Nat) (f : Pair → Pair) : (s.modPair b r q f).wq = s.wq := rfl
@[simp] theorem State.modPair_cbCount (s : State) (b r q : Nat) (f : Pair → Pair) : (s.modPair b r q f).cbCount = s.cbCount := rfl
@[simp] theorem State.modPair_frames (s : State) (b r q : Nat) (f : Pair → Pair) : (s.modPair b r q f).frames = s.frames := rfl
@[simp] theorem State.modPair_freeFrames (s : State) (b r q : Nat) (f : Pair → Pair) : (s.modPair b r q f).freeFrames = s.freeFrames := rfl
@[simp] theorem State.modPair_pageReqs (s : State) (b r q : Nat) (f : Pair → Pair) : (s.modPair b r q f).pageReqs = s.pageReqs := rfl
@[simp] theorem State.modPair_sets (s : State) (b r q : Nat) (f : Pair → Pair) : (s.modPair b r q f).sets = s.sets := rfl
@[simp] theorem State.modPair_ptpool (s : State) (b r q : Nat) (f : Pair → Pair) : (s.modPair b r q f).ptpool = s.ptpool := rfl
@[simp] theorem State.modPair_portsDown (s : State) (b r q : Nat) (f : Pair → Pair) : (s.modPair b r q f).portsDown = s.portsDown := rfl
@[simp] theorem State.modPair_exports (s : State) (b r q : Nat) (f : Pair → Pair) : (s.modPair b r q f).exports = s.exports := rfl
@[simp] theorem State.modPair_meas (s : State) (b r q : Nat) (f : Pair → Pair) : (s.modPair b r q f).meas = s.meas := rfl
@[simp] theorem State.modPair_spdm (s : State) (b r q : Nat) (f : Pair → Pair) : (s.modPair b r q f).spdm = s.spdm := rfl
@[simp] theorem State.modPair_messages (s : State) (b r q : Nat) (f : Pair → Pair) : (s.modPair b r q f).messages = s.messages := rfl
@[simp] theorem State.modPair_events (s : State) (b r q : Nat) (f : Pair → Pair) : (s.modPair b r q f).events = s.events := rfl
@[simp] theorem State.modPair_sessions (s : State) (b r q : Nat) (f : Pair → Pair) : (s.modPair b r q f).sessions = s.sessions := rfl
@[simp] theorem State.modPair_marks (s : State) (b r q : Nat) (f : Pair → Pair) : (s.modPair b r q f).marks = s.marks := rfl
@[simp] theorem State.modPair_corrected (s : State) (b r q : Nat) (f : Pair → Pair) : (s.modPair b r q f).corrected = s.corrected := rfl
@[simp] theorem State.modPair_migRefused (s : State) (b r q : Nat) (f : Pair → Pair) : (s.modPair b r q f).migRefused = s.migRefused := rfl
@[simp] theorem State.modPair_hostData (s : State) (b r q : Nat) (f : Pair → Pair) : (s.modPair b r q f).hostData = s.hostData := rfl
@[simp] theorem State.modPair_hostUr (s : State) (b r q : Nat) (f : Pair → Pair) : (s.modPair b r q f).hostUr = s.hostUr := rfl
@[simp] theorem State.modPair_hostGone (s : State) (b r q : Nat) (f : Pair → Pair) : (s.modPair b r q f).hostGone = s.hostGone := rfl
@[simp] theorem State.modPair_lastLive (s : State) (b r q : Nat) (f : Pair → Pair) : (s.modPair b r q f).lastLive = s.lastLive := rfl
@[simp] theorem State.modPair_peerDeny (s : State) (b r q : Nat) (f : Pair → Pair) : (s.modPair b r q f).peerDeny = s.peerDeny := rfl
@[simp] theorem State.modPair_clk17 (s : State) (b r q : Nat) (f : Pair → Pair) : (s.modPair b r q f).clk17 = s.clk17 := rfl
@[simp] theorem State.modPair_cycle (s : State) (b r q : Nat) (f : Pair → Pair) : (s.modPair b r q f).cycle = s.cycle := rfl
@[simp] theorem State.modPair_cur (s : State) (b r q : Nat) (f : Pair → Pair) : (s.modPair b r q f).cur = s.cur := rfl
@[simp] theorem State.modPair_agenda (s : State) (b r q : Nat) (f : Pair → Pair) : (s.modPair b r q f).agenda = s.agenda := rfl
@[simp] theorem State.modPair_fresh (s : State) (b r q : Nat) (f : Pair → Pair) : (s.modPair b r q f).fresh = s.fresh := rfl

@[simp] theorem State.modUni_mem (s : State) (w : Who) (f : Uni → Uni) : (s.modUni w f).mem = s.mem := by
  unfold State.modUni; split <;> rfl
@[simp] theorem State.modUni_poison (s : State) (w : Who) (f : Uni → Uni) : (s.modUni w f).poison = s.poison := by
  unfold State.modUni; split <;> rfl
@[simp] theorem State.modUni_regPoison (s : State) (w : Who) (f : Uni → Uni) : (s.modUni w f).regPoison = s.regPoison := by
  unfold State.modUni; split <;> rfl
@[simp] theorem State.modUni_ctxs (s : State) (w : Who) (f : Uni → Uni) : (s.modUni w f).ctxs = s.ctxs := by
  unfold State.modUni; split <;> rfl
@[simp] theorem State.modUni_queues (s : State) (w : Who) (f : Uni → Uni) : (s.modUni w f).queues = s.queues := by
  unfold State.modUni; split <;> rfl
@[simp] theorem State.modUni_grids (s : State) (w : Who) (f : Uni → Uni) : (s.modUni w f).grids = s.grids := by
  unfold State.modUni; split <;> rfl
@[simp] theorem State.modUni_ops (s : State) (w : Who) (f : Uni → Uni) : (s.modUni w f).ops = s.ops := by
  unfold State.modUni; split <;> rfl
@[simp] theorem State.modUni_nextId (s : State) (w : Who) (f : Uni → Uni) : (s.modUni w f).nextId = s.nextId := by
  unfold State.modUni; split <;> rfl
@[simp] theorem State.modUni_seq (s : State) (w : Who) (f : Uni → Uni) : (s.modUni w f).seq = s.seq := by
  unfold State.modUni; split <;> rfl
@[simp] theorem State.modUni_cores (s : State) (w : Who) (f : Uni → Uni) : (s.modUni w f).cores = s.cores := by
  unfold State.modUni; split <;> rfl
@[simp] theorem State.modUni_quads (s : State) (w : Who) (f : Uni → Uni) : (s.modUni w f).quads = s.quads := by
  unfold State.modUni; split <;> rfl
@[simp] theorem State.modUni_clusters (s : State) (w : Who) (f : Uni → Uni) : (s.modUni w f).clusters = s.clusters := by
  unfold State.modUni; split <;> rfl
@[simp] theorem State.modUni_dies (s : State) (w : Who) (f : Uni → Uni) : (s.modUni w f).dies = s.dies := by
  unfold State.modUni; split <;> rfl
@[simp] theorem State.modUni_disps (s : State) (w : Who) (f : Uni → Uni) : (s.modUni w f).disps = s.disps := by
  unfold State.modUni; split <;> rfl
@[simp] theorem State.modUni_fns (s : State) (w : Who) (f : Uni → Uni) : (s.modUni w f).fns = s.fns := by
  unfold State.modUni; split <;> rfl
@[simp] theorem State.modUni_sketches (s : State) (w : Who) (f : Uni → Uni) : (s.modUni w f).sketches = s.sketches := by
  unfold State.modUni; split <;> rfl
@[simp] theorem State.modUni_versions (s : State) (w : Who) (f : Uni → Uni) : (s.modUni w f).versions = s.versions := by
  unfold State.modUni; split <;> rfl
@[simp] theorem State.modUni_wq (s : State) (w : Who) (f : Uni → Uni) : (s.modUni w f).wq = s.wq := by
  unfold State.modUni; split <;> rfl
@[simp] theorem State.modUni_cbCount (s : State) (w : Who) (f : Uni → Uni) : (s.modUni w f).cbCount = s.cbCount := by
  unfold State.modUni; split <;> rfl
@[simp] theorem State.modUni_frames (s : State) (w : Who) (f : Uni → Uni) : (s.modUni w f).frames = s.frames := by
  unfold State.modUni; split <;> rfl
@[simp] theorem State.modUni_freeFrames (s : State) (w : Who) (f : Uni → Uni) : (s.modUni w f).freeFrames = s.freeFrames := by
  unfold State.modUni; split <;> rfl
@[simp] theorem State.modUni_pageReqs (s : State) (w : Who) (f : Uni → Uni) : (s.modUni w f).pageReqs = s.pageReqs := by
  unfold State.modUni; split <;> rfl
@[simp] theorem State.modUni_sets (s : State) (w : Who) (f : Uni → Uni) : (s.modUni w f).sets = s.sets := by
  unfold State.modUni; split <;> rfl
@[simp] theorem State.modUni_ptpool (s : State) (w : Who) (f : Uni → Uni) : (s.modUni w f).ptpool = s.ptpool := by
  unfold State.modUni; split <;> rfl
@[simp] theorem State.modUni_portsDown (s : State) (w : Who) (f : Uni → Uni) : (s.modUni w f).portsDown = s.portsDown := by
  unfold State.modUni; split <;> rfl
@[simp] theorem State.modUni_exports (s : State) (w : Who) (f : Uni → Uni) : (s.modUni w f).exports = s.exports := by
  unfold State.modUni; split <;> rfl
@[simp] theorem State.modUni_meas (s : State) (w : Who) (f : Uni → Uni) : (s.modUni w f).meas = s.meas := by
  unfold State.modUni; split <;> rfl
@[simp] theorem State.modUni_spdm (s : State) (w : Who) (f : Uni → Uni) : (s.modUni w f).spdm = s.spdm := by
  unfold State.modUni; split <;> rfl
@[simp] theorem State.modUni_messages (s : State) (w : Who) (f : Uni → Uni) : (s.modUni w f).messages = s.messages := by
  unfold State.modUni; split <;> rfl
@[simp] theorem State.modUni_events (s : State) (w : Who) (f : Uni → Uni) : (s.modUni w f).events = s.events := by
  unfold State.modUni; split <;> rfl
@[simp] theorem State.modUni_sessions (s : State) (w : Who) (f : Uni → Uni) : (s.modUni w f).sessions = s.sessions := by
  unfold State.modUni; split <;> rfl
@[simp] theorem State.modUni_marks (s : State) (w : Who) (f : Uni → Uni) : (s.modUni w f).marks = s.marks := by
  unfold State.modUni; split <;> rfl
@[simp] theorem State.modUni_corrected (s : State) (w : Who) (f : Uni → Uni) : (s.modUni w f).corrected = s.corrected := by
  unfold State.modUni; split <;> rfl
@[simp] theorem State.modUni_migRefused (s : State) (w : Who) (f : Uni → Uni) : (s.modUni w f).migRefused = s.migRefused := by
  unfold State.modUni; split <;> rfl
@[simp] theorem State.modUni_hostData (s : State) (w : Who) (f : Uni → Uni) : (s.modUni w f).hostData = s.hostData := by
  unfold State.modUni; split <;> rfl
@[simp] theorem State.modUni_hostUr (s : State) (w : Who) (f : Uni → Uni) : (s.modUni w f).hostUr = s.hostUr := by
  unfold State.modUni; split <;> rfl
@[simp] theorem State.modUni_hostGone (s : State) (w : Who) (f : Uni → Uni) : (s.modUni w f).hostGone = s.hostGone := by
  unfold State.modUni; split <;> rfl
@[simp] theorem State.modUni_lastLive (s : State) (w : Who) (f : Uni → Uni) : (s.modUni w f).lastLive = s.lastLive := by
  unfold State.modUni; split <;> rfl
@[simp] theorem State.modUni_peerDeny (s : State) (w : Who) (f : Uni → Uni) : (s.modUni w f).peerDeny = s.peerDeny := by
  unfold State.modUni; split <;> rfl
@[simp] theorem State.modUni_clk17 (s : State) (w : Who) (f : Uni → Uni) : (s.modUni w f).clk17 = s.clk17 := by
  unfold State.modUni; split <;> rfl
@[simp] theorem State.modUni_cycle (s : State) (w : Who) (f : Uni → Uni) : (s.modUni w f).cycle = s.cycle := by
  unfold State.modUni; split <;> rfl
@[simp] theorem State.modUni_cur (s : State) (w : Who) (f : Uni → Uni) : (s.modUni w f).cur = s.cur := by
  unfold State.modUni; split <;> rfl
@[simp] theorem State.modUni_agenda (s : State) (w : Who) (f : Uni → Uni) : (s.modUni w f).agenda = s.agenda := by
  unfold State.modUni; split <;> rfl
@[simp] theorem State.modUni_fresh (s : State) (w : Who) (f : Uni → Uni) : (s.modUni w f).fresh = s.fresh := by
  unfold State.modUni; split <;> rfl

@[simp] theorem State.setPc_mem (s : State) (w : Who) (pc : Nat) : (s.setPc w pc).mem = s.mem := by
  unfold State.setPc; split <;> rfl
@[simp] theorem State.setPc_poison (s : State) (w : Who) (pc : Nat) : (s.setPc w pc).poison = s.poison := by
  unfold State.setPc; split <;> rfl
@[simp] theorem State.setPc_regPoison (s : State) (w : Who) (pc : Nat) : (s.setPc w pc).regPoison = s.regPoison := by
  unfold State.setPc; split <;> rfl
@[simp] theorem State.setPc_ctxs (s : State) (w : Who) (pc : Nat) : (s.setPc w pc).ctxs = s.ctxs := by
  unfold State.setPc; split <;> rfl
@[simp] theorem State.setPc_queues (s : State) (w : Who) (pc : Nat) : (s.setPc w pc).queues = s.queues := by
  unfold State.setPc; split <;> rfl
@[simp] theorem State.setPc_grids (s : State) (w : Who) (pc : Nat) : (s.setPc w pc).grids = s.grids := by
  unfold State.setPc; split <;> rfl
@[simp] theorem State.setPc_ops (s : State) (w : Who) (pc : Nat) : (s.setPc w pc).ops = s.ops := by
  unfold State.setPc; split <;> rfl
@[simp] theorem State.setPc_nextId (s : State) (w : Who) (pc : Nat) : (s.setPc w pc).nextId = s.nextId := by
  unfold State.setPc; split <;> rfl
@[simp] theorem State.setPc_seq (s : State) (w : Who) (pc : Nat) : (s.setPc w pc).seq = s.seq := by
  unfold State.setPc; split <;> rfl
@[simp] theorem State.setPc_cores (s : State) (w : Who) (pc : Nat) : (s.setPc w pc).cores = s.cores := by
  unfold State.setPc; split <;> rfl
@[simp] theorem State.setPc_quads (s : State) (w : Who) (pc : Nat) : (s.setPc w pc).quads = s.quads := by
  unfold State.setPc; split <;> rfl
@[simp] theorem State.setPc_clusters (s : State) (w : Who) (pc : Nat) : (s.setPc w pc).clusters = s.clusters := by
  unfold State.setPc; split <;> rfl
@[simp] theorem State.setPc_dies (s : State) (w : Who) (pc : Nat) : (s.setPc w pc).dies = s.dies := by
  unfold State.setPc; split <;> rfl
@[simp] theorem State.setPc_disps (s : State) (w : Who) (pc : Nat) : (s.setPc w pc).disps = s.disps := by
  unfold State.setPc; split <;> rfl
@[simp] theorem State.setPc_fns (s : State) (w : Who) (pc : Nat) : (s.setPc w pc).fns = s.fns := by
  unfold State.setPc; split <;> rfl
@[simp] theorem State.setPc_sketches (s : State) (w : Who) (pc : Nat) : (s.setPc w pc).sketches = s.sketches := by
  unfold State.setPc; split <;> rfl
@[simp] theorem State.setPc_versions (s : State) (w : Who) (pc : Nat) : (s.setPc w pc).versions = s.versions := by
  unfold State.setPc; split <;> rfl
@[simp] theorem State.setPc_wq (s : State) (w : Who) (pc : Nat) : (s.setPc w pc).wq = s.wq := by
  unfold State.setPc; split <;> rfl
@[simp] theorem State.setPc_cbCount (s : State) (w : Who) (pc : Nat) : (s.setPc w pc).cbCount = s.cbCount := by
  unfold State.setPc; split <;> rfl
@[simp] theorem State.setPc_frames (s : State) (w : Who) (pc : Nat) : (s.setPc w pc).frames = s.frames := by
  unfold State.setPc; split <;> rfl
@[simp] theorem State.setPc_freeFrames (s : State) (w : Who) (pc : Nat) : (s.setPc w pc).freeFrames = s.freeFrames := by
  unfold State.setPc; split <;> rfl
@[simp] theorem State.setPc_pageReqs (s : State) (w : Who) (pc : Nat) : (s.setPc w pc).pageReqs = s.pageReqs := by
  unfold State.setPc; split <;> rfl
@[simp] theorem State.setPc_sets (s : State) (w : Who) (pc : Nat) : (s.setPc w pc).sets = s.sets := by
  unfold State.setPc; split <;> rfl
@[simp] theorem State.setPc_ptpool (s : State) (w : Who) (pc : Nat) : (s.setPc w pc).ptpool = s.ptpool := by
  unfold State.setPc; split <;> rfl
@[simp] theorem State.setPc_portsDown (s : State) (w : Who) (pc : Nat) : (s.setPc w pc).portsDown = s.portsDown := by
  unfold State.setPc; split <;> rfl
@[simp] theorem State.setPc_exports (s : State) (w : Who) (pc : Nat) : (s.setPc w pc).exports = s.exports := by
  unfold State.setPc; split <;> rfl
@[simp] theorem State.setPc_meas (s : State) (w : Who) (pc : Nat) : (s.setPc w pc).meas = s.meas := by
  unfold State.setPc; split <;> rfl
@[simp] theorem State.setPc_spdm (s : State) (w : Who) (pc : Nat) : (s.setPc w pc).spdm = s.spdm := by
  unfold State.setPc; split <;> rfl
@[simp] theorem State.setPc_messages (s : State) (w : Who) (pc : Nat) : (s.setPc w pc).messages = s.messages := by
  unfold State.setPc; split <;> rfl
@[simp] theorem State.setPc_events (s : State) (w : Who) (pc : Nat) : (s.setPc w pc).events = s.events := by
  unfold State.setPc; split <;> rfl
@[simp] theorem State.setPc_sessions (s : State) (w : Who) (pc : Nat) : (s.setPc w pc).sessions = s.sessions := by
  unfold State.setPc; split <;> rfl
@[simp] theorem State.setPc_marks (s : State) (w : Who) (pc : Nat) : (s.setPc w pc).marks = s.marks := by
  unfold State.setPc; split <;> rfl
@[simp] theorem State.setPc_corrected (s : State) (w : Who) (pc : Nat) : (s.setPc w pc).corrected = s.corrected := by
  unfold State.setPc; split <;> rfl
@[simp] theorem State.setPc_migRefused (s : State) (w : Who) (pc : Nat) : (s.setPc w pc).migRefused = s.migRefused := by
  unfold State.setPc; split <;> rfl
@[simp] theorem State.setPc_hostData (s : State) (w : Who) (pc : Nat) : (s.setPc w pc).hostData = s.hostData := by
  unfold State.setPc; split <;> rfl
@[simp] theorem State.setPc_hostUr (s : State) (w : Who) (pc : Nat) : (s.setPc w pc).hostUr = s.hostUr := by
  unfold State.setPc; split <;> rfl
@[simp] theorem State.setPc_hostGone (s : State) (w : Who) (pc : Nat) : (s.setPc w pc).hostGone = s.hostGone := by
  unfold State.setPc; split <;> rfl
@[simp] theorem State.setPc_lastLive (s : State) (w : Who) (pc : Nat) : (s.setPc w pc).lastLive = s.lastLive := by
  unfold State.setPc; split <;> rfl
@[simp] theorem State.setPc_peerDeny (s : State) (w : Who) (pc : Nat) : (s.setPc w pc).peerDeny = s.peerDeny := by
  unfold State.setPc; split <;> rfl
@[simp] theorem State.setPc_clk17 (s : State) (w : Who) (pc : Nat) : (s.setPc w pc).clk17 = s.clk17 := by
  unfold State.setPc; split <;> rfl
@[simp] theorem State.setPc_cycle (s : State) (w : Who) (pc : Nat) : (s.setPc w pc).cycle = s.cycle := by
  unfold State.setPc; split <;> rfl
@[simp] theorem State.setPc_cur (s : State) (w : Who) (pc : Nat) : (s.setPc w pc).cur = s.cur := by
  unfold State.setPc; split <;> rfl
@[simp] theorem State.setPc_agenda (s : State) (w : Who) (pc : Nat) : (s.setPc w pc).agenda = s.agenda := by
  unfold State.setPc; split <;> rfl
@[simp] theorem State.setPc_fresh (s : State) (w : Who) (pc : Nat) : (s.setPc w pc).fresh = s.fresh := by
  unfold State.setPc; split <;> rfl

@[simp] theorem State.setWait_mem (s : State) (w : Who) (x : Wait) : (s.setWait w x).mem = s.mem := by
  unfold State.setWait; split <;> rfl
@[simp] theorem State.setWait_poison (s : State) (w : Who) (x : Wait) : (s.setWait w x).poison = s.poison := by
  unfold State.setWait; split <;> rfl
@[simp] theorem State.setWait_regPoison (s : State) (w : Who) (x : Wait) : (s.setWait w x).regPoison = s.regPoison := by
  unfold State.setWait; split <;> rfl
@[simp] theorem State.setWait_ctxs (s : State) (w : Who) (x : Wait) : (s.setWait w x).ctxs = s.ctxs := by
  unfold State.setWait; split <;> rfl
@[simp] theorem State.setWait_queues (s : State) (w : Who) (x : Wait) : (s.setWait w x).queues = s.queues := by
  unfold State.setWait; split <;> rfl
@[simp] theorem State.setWait_grids (s : State) (w : Who) (x : Wait) : (s.setWait w x).grids = s.grids := by
  unfold State.setWait; split <;> rfl
@[simp] theorem State.setWait_ops (s : State) (w : Who) (x : Wait) : (s.setWait w x).ops = s.ops := by
  unfold State.setWait; split <;> rfl
@[simp] theorem State.setWait_nextId (s : State) (w : Who) (x : Wait) : (s.setWait w x).nextId = s.nextId := by
  unfold State.setWait; split <;> rfl
@[simp] theorem State.setWait_seq (s : State) (w : Who) (x : Wait) : (s.setWait w x).seq = s.seq := by
  unfold State.setWait; split <;> rfl
@[simp] theorem State.setWait_cores (s : State) (w : Who) (x : Wait) : (s.setWait w x).cores = s.cores := by
  unfold State.setWait; split <;> rfl
@[simp] theorem State.setWait_quads (s : State) (w : Who) (x : Wait) : (s.setWait w x).quads = s.quads := by
  unfold State.setWait; split <;> rfl
@[simp] theorem State.setWait_clusters (s : State) (w : Who) (x : Wait) : (s.setWait w x).clusters = s.clusters := by
  unfold State.setWait; split <;> rfl
@[simp] theorem State.setWait_dies (s : State) (w : Who) (x : Wait) : (s.setWait w x).dies = s.dies := by
  unfold State.setWait; split <;> rfl
@[simp] theorem State.setWait_disps (s : State) (w : Who) (x : Wait) : (s.setWait w x).disps = s.disps := by
  unfold State.setWait; split <;> rfl
@[simp] theorem State.setWait_fns (s : State) (w : Who) (x : Wait) : (s.setWait w x).fns = s.fns := by
  unfold State.setWait; split <;> rfl
@[simp] theorem State.setWait_sketches (s : State) (w : Who) (x : Wait) : (s.setWait w x).sketches = s.sketches := by
  unfold State.setWait; split <;> rfl
@[simp] theorem State.setWait_versions (s : State) (w : Who) (x : Wait) : (s.setWait w x).versions = s.versions := by
  unfold State.setWait; split <;> rfl
@[simp] theorem State.setWait_wq (s : State) (w : Who) (x : Wait) : (s.setWait w x).wq = s.wq := by
  unfold State.setWait; split <;> rfl
@[simp] theorem State.setWait_cbCount (s : State) (w : Who) (x : Wait) : (s.setWait w x).cbCount = s.cbCount := by
  unfold State.setWait; split <;> rfl
@[simp] theorem State.setWait_frames (s : State) (w : Who) (x : Wait) : (s.setWait w x).frames = s.frames := by
  unfold State.setWait; split <;> rfl
@[simp] theorem State.setWait_freeFrames (s : State) (w : Who) (x : Wait) : (s.setWait w x).freeFrames = s.freeFrames := by
  unfold State.setWait; split <;> rfl
@[simp] theorem State.setWait_pageReqs (s : State) (w : Who) (x : Wait) : (s.setWait w x).pageReqs = s.pageReqs := by
  unfold State.setWait; split <;> rfl
@[simp] theorem State.setWait_sets (s : State) (w : Who) (x : Wait) : (s.setWait w x).sets = s.sets := by
  unfold State.setWait; split <;> rfl
@[simp] theorem State.setWait_ptpool (s : State) (w : Who) (x : Wait) : (s.setWait w x).ptpool = s.ptpool := by
  unfold State.setWait; split <;> rfl
@[simp] theorem State.setWait_portsDown (s : State) (w : Who) (x : Wait) : (s.setWait w x).portsDown = s.portsDown := by
  unfold State.setWait; split <;> rfl
@[simp] theorem State.setWait_exports (s : State) (w : Who) (x : Wait) : (s.setWait w x).exports = s.exports := by
  unfold State.setWait; split <;> rfl
@[simp] theorem State.setWait_meas (s : State) (w : Who) (x : Wait) : (s.setWait w x).meas = s.meas := by
  unfold State.setWait; split <;> rfl
@[simp] theorem State.setWait_spdm (s : State) (w : Who) (x : Wait) : (s.setWait w x).spdm = s.spdm := by
  unfold State.setWait; split <;> rfl
@[simp] theorem State.setWait_messages (s : State) (w : Who) (x : Wait) : (s.setWait w x).messages = s.messages := by
  unfold State.setWait; split <;> rfl
@[simp] theorem State.setWait_events (s : State) (w : Who) (x : Wait) : (s.setWait w x).events = s.events := by
  unfold State.setWait; split <;> rfl
@[simp] theorem State.setWait_sessions (s : State) (w : Who) (x : Wait) : (s.setWait w x).sessions = s.sessions := by
  unfold State.setWait; split <;> rfl
@[simp] theorem State.setWait_marks (s : State) (w : Who) (x : Wait) : (s.setWait w x).marks = s.marks := by
  unfold State.setWait; split <;> rfl
@[simp] theorem State.setWait_corrected (s : State) (w : Who) (x : Wait) : (s.setWait w x).corrected = s.corrected := by
  unfold State.setWait; split <;> rfl
@[simp] theorem State.setWait_migRefused (s : State) (w : Who) (x : Wait) : (s.setWait w x).migRefused = s.migRefused := by
  unfold State.setWait; split <;> rfl
@[simp] theorem State.setWait_hostData (s : State) (w : Who) (x : Wait) : (s.setWait w x).hostData = s.hostData := by
  unfold State.setWait; split <;> rfl
@[simp] theorem State.setWait_hostUr (s : State) (w : Who) (x : Wait) : (s.setWait w x).hostUr = s.hostUr := by
  unfold State.setWait; split <;> rfl
@[simp] theorem State.setWait_hostGone (s : State) (w : Who) (x : Wait) : (s.setWait w x).hostGone = s.hostGone := by
  unfold State.setWait; split <;> rfl
@[simp] theorem State.setWait_lastLive (s : State) (w : Who) (x : Wait) : (s.setWait w x).lastLive = s.lastLive := by
  unfold State.setWait; split <;> rfl
@[simp] theorem State.setWait_peerDeny (s : State) (w : Who) (x : Wait) : (s.setWait w x).peerDeny = s.peerDeny := by
  unfold State.setWait; split <;> rfl
@[simp] theorem State.setWait_clk17 (s : State) (w : Who) (x : Wait) : (s.setWait w x).clk17 = s.clk17 := by
  unfold State.setWait; split <;> rfl
@[simp] theorem State.setWait_cycle (s : State) (w : Who) (x : Wait) : (s.setWait w x).cycle = s.cycle := by
  unfold State.setWait; split <;> rfl
@[simp] theorem State.setWait_cur (s : State) (w : Who) (x : Wait) : (s.setWait w x).cur = s.cur := by
  unfold State.setWait; split <;> rfl
@[simp] theorem State.setWait_agenda (s : State) (w : Who) (x : Wait) : (s.setWait w x).agenda = s.agenda := by
  unfold State.setWait; split <;> rfl
@[simp] theorem State.setWait_fresh (s : State) (w : Who) (x : Wait) : (s.setWait w x).fresh = s.fresh := by
  unfold State.setWait; split <;> rfl

end Sys2Proof.Machine
end

