-- ==== Sys2Proof/Laws/Lookup.lean ====
section
/-!
SUPPORT. What a block, group, control thread or thread is after an update of one, and the issuer's own facts.
-/
namespace Sys2Proof.Machine

/-- The first element that meets p, after the elements that meet it were changed by an f that keeps p. -/
theorem find?_modIf {α : Type} (l : List α) (p q : α → Bool) (f : α → α) (hp : ∀ x, q x = true → p (f x) = p x) :
    (modIf l q f).find? p = (l.find? p).map fun x => if q x then f x else x := by
  induction l with
  | nil => rfl
  | cons x r ih =>
    simp only [modIf, List.map_cons, List.find?_cons] at *
    have hx : p (if q x = true then f x else x) = p x := by
      by_cases hq : q x = true
      · rw [if_pos hq, hp x hq]
      · rw [if_neg hq]
    rw [hx]
    cases p x
    · exact ih
    · rfl

theorem block?_id {s : State} {b : Nat} {x : Block} (h : s.block? b = some x) : x.id = b := by
  have := List.find?_some h; simpa using this
theorem grp?_num {x : Block} {g : Nat} {y : Group} (h : x.group? g = some y) : y.num = g := by
  have := List.find?_some h; simpa using this
theorem ctl?_rank {x : Block} {r q : Nat} {c : Ctl} (h : x.ctl? r q = some c) : c.rank = r ∧ c.quad = q := by
  have := List.find?_some h; simpa using this

theorem block?_modBlock (s : State) (b : Nat) (f : Block → Block) (hf : ∀ x, (f x).id = x.id) (b' : Nat) :
    (s.modBlock b f).block? b' = if b' = b then (s.block? b).map f else s.block? b' := by
  unfold State.block? State.modBlock
  rw [find?_modIf _ _ _ _ (fun x _ => by simp [hf])]
  by_cases hb : b' = b
  · subst hb
    simp only [if_true]
    cases hx : s.blocks.find? (·.id == b') with
    | none => rfl
    | some x =>
      have : x.id = b' := by simpa using List.find?_some hx
      simp [this]
  · simp only [hb, if_false]
    cases hx : s.blocks.find? (·.id == b') with
    | none => rfl
    | some x =>
      have : x.id = b' := by simpa using List.find?_some hx
      simp [this, hb]

theorem grp?_modGroup (x : Block) (g : Nat) (f : Group → Group) (hf : ∀ y, (f y).num = y.num) (g' : Nat) :
    (x.modGroup g f).group? g' = if g' = g then (x.group? g).map f else x.group? g' := by
  unfold Block.group? Block.modGroup
  rw [find?_modIf _ _ _ _ (fun y _ => by simp [hf])]
  by_cases hb : g' = g
  · subst hb
    simp only [if_true]
    cases hx : x.groups.find? (·.num == g') with
    | none => rfl
    | some y =>
      have : y.num = g' := by simpa using List.find?_some hx
      simp [this]
  · simp only [hb, if_false]
    cases hx : x.groups.find? (·.num == g') with
    | none => rfl
    | some y =>
      have : y.num = g' := by simpa using List.find?_some hx
      simp [this, hb]

theorem group?_modGroup (s : State) (b g : Nat) (f : Group → Group) (hf : ∀ y, (f y).num = y.num) (b' g' : Nat) :
    (s.modGroup b g f).group? b' g' =
      if b' = b ∧ g' = g then (s.group? b g).map f else s.group? b' g' := by
  unfold State.group? State.modGroup
  rw [block?_modBlock _ _ _ (by intro; rfl)]
  by_cases hb : b' = b
  · subst hb
    simp only [if_true, true_and]
    cases s.block? b' with
    | none => simp
    | some x =>
      simp only [Option.map_some, Option.bind_some]
      rw [grp?_modGroup _ _ _ hf]
  · simp [hb]

theorem onlyGroup_refl (s : State) (b g : Nat) : OnlyGroup s s b g := ⟨rfl, fun _ => rfl, fun _ _ => rfl, rfl, fun _ _ => rfl⟩

theorem OnlyGroup.trans {s t u : State} {b g : Nat} (h : OnlyGroup s t b g) (k : OnlyGroup t u b g) :
    OnlyGroup s u b g where
  fields := by rw [k.fields, h.fields]
  mem a := (k.mem a).trans (h.mem a)
  blocks b' hb := (k.blocks b' hb).trans (h.blocks b' hb)
  shell := k.shell.trans h.shell
  groups g' hg := (k.groups g' hg).trans (h.groups g' hg)

theorem onlyGroup_modGroup (s : State) (b g : Nat) (f : Group → Group) (hf : ∀ y, (f y).num = y.num) :
    OnlyGroup s (s.modGroup b g f) b g where
  fields := rfl
  mem _ := rfl
  blocks b' hb := by
    rw [State.modGroup, block?_modBlock _ _ _ (by intro; rfl), if_neg hb]
  shell := by
    rw [State.modGroup, block?_modBlock _ _ _ (by intro; rfl), if_pos rfl]
    cases s.block? b <;> rfl
  groups g' hg := by
    rw [group?_modGroup _ _ _ _ hf, if_neg (fun h => hg h.2)]

theorem modGroup_modGroup (s : State) (b g : Nat) (f h : Group → Group) (hf : ∀ y, (f y).num = y.num) :
    (s.modGroup b g f).modGroup b g h = s.modGroup b g (fun y => h (f y)) := by
  unfold State.modGroup State.modBlock
  simp only [modIf, List.map_map, Block.modGroup]
  congr 1
  apply List.map_congr_left
  intro x _
  simp only [Function.comp]
  by_cases hx : (x.id == b) = true
  · simp only [hx, if_true]
    congr 1
    simp only [List.map_map]
    apply List.map_congr_left
    intro y _
    simp only [Function.comp]
    by_cases hy : (y.num == g) = true
    · simp [hy, hf]
    · simp [hy]
  · simp [hx]

-- The issuer.

/-- What an issuing fragment is (R145). -/
theorem who_frag {s : State} {w : Who} {g : Group} (h : s.who = some w) (hg : w.grp = some g) :
    s.block? w.blk.id = some w.blk ∧ s.group? w.blk.id g.num = some g ∧ s.grid? w.blk.grid = some w.grid ∧
      w.ctl = none ∧ (∃ m, s.cur = .frag w.blk.id g.num m ∧ w.lanes = lanesOf m) ∧
      w.uni = g.uni ∧ ∃ l ls t, w.lanes = l :: ls ∧ g.thread? l = some t ∧ w.pc = t.pc := by
  unfold State.who at h
  split at h
  · cases h
  · rename_i b g' m hcur
    cases hb : s.block? b with
    | none => simp [hb] at h
    | some blk =>
      cases hgr : s.grid? blk.grid with
      | none => simp [hb, hgr] at h
      | some gr =>
        cases hgp : blk.group? g' with
        | none => simp [hb, hgr, hgp] at h
        | some grp =>
          simp only [hb, hgr, hgp, Option.bind_some] at h
          cases hl : lanesOf m with
          | nil => simp [hl] at h
          | cons l ls =>
            simp only [hl, Option.map_eq_some_iff] at h
            obtain ⟨t, ht, rfl⟩ := h
            cases hg
            have e1 := block?_id hb
            have e2 := grp?_num hgp
            subst e1 e2
            exact ⟨hb, by simp [State.group?, hb, hgp], hgr, rfl, ⟨m, hcur, hl.symm⟩, rfl, l, ls, t, rfl, ht, rfl⟩
  · rename_i b r q hcur
    cases hb : s.block? b with
    | none => simp [hb] at h
    | some blk =>
      cases hgr : s.grid? blk.grid with
      | none => simp [hb, hgr] at h
      | some gr =>
        simp only [hb, hgr, Option.bind_some, Option.map_eq_some_iff] at h
        obtain ⟨c, _, rfl⟩ := h
        cases hg

/-- What an issuing control thread is (R150). -/
theorem who_ctl {s : State} {w : Who} (h : s.who = some w) (hg : w.grp = none) :
    ∃ c, w.ctl = some c ∧ s.block? w.blk.id = some w.blk ∧ s.ctl? w.blk.id c.rank c.quad = some c ∧
      s.grid? w.blk.grid = some w.grid ∧ w.rank = c.rank ∧ w.quad = c.quad ∧ w.lanes = [] ∧ w.pc = c.pc ∧ w.uni = c.uni := by
  unfold State.who at h
  split at h
  · cases h
  · rename_i b g' m hcur
    cases hb : s.block? b with
    | none => simp [hb] at h
    | some blk =>
      cases hgr : s.grid? blk.grid with
      | none => simp [hb, hgr] at h
      | some gr =>
        cases hgp : blk.group? g' with
        | none => simp [hb, hgr, hgp] at h
        | some grp =>
          simp only [hb, hgr, hgp, Option.bind_some] at h
          cases hl : lanesOf m with
          | nil => simp [hl] at h
          | cons l ls =>
            simp only [hl, Option.map_eq_some_iff] at h
            obtain ⟨t, ht, rfl⟩ := h
            cases hg
  · rename_i b r q hcur
    cases hb : s.block? b with
    | none => simp [hb] at h
    | some blk =>
      cases hgr : s.grid? blk.grid with
      | none => simp [hb, hgr] at h
      | some gr =>
        simp only [hb, hgr, Option.bind_some, Option.map_eq_some_iff] at h
        obtain ⟨c, hc, rfl⟩ := h
        have e1 := block?_id hb
        have e2 := ctl?_rank hc
        refine ⟨c, rfl, by rw [e1]; exact hb, ?_, hgr, e2.1.symm, e2.2.symm, rfl, rfl, rfl⟩
        simp [State.ctl?, e1, hb, e2.1, e2.2, hc]

theorem lanesOf_lt {m : BitVec 32} {l : Nat} (h : l ∈ lanesOf m) : l < 32 := by
  simpa using (List.mem_filter.mp h).1
theorem lanesOf_nodup (m : BitVec 32) : (lanesOf m).Nodup := List.Pairwise.filter _ List.nodup_range

-- Control threads.

theorem ctl?_modCtl (s : State) (b r q : Nat) (f : Ctl → Ctl) (hf : ∀ c, (f c).rank = c.rank ∧ (f c).quad = c.quad)
    (b' r' q' : Nat) :
    (s.modCtl b r q f).ctl? b' r' q' =
      if b' = b ∧ r' = r ∧ q' = q then (s.ctl? b r q).map f else s.ctl? b' r' q' := by
  unfold State.ctl? State.modCtl
  rw [block?_modBlock _ _ _ (by intro; rfl)]
  by_cases hb : b' = b
  · subst hb
    simp only [if_true, true_and]
    cases s.block? b' with
    | none => simp
    | some x =>
      simp only [Option.map_some, Option.bind_some]
      unfold Block.ctl?
      rw [find?_modIf _ _ _ _ (fun c _ => by simp [hf])]
      by_cases hk : r' = r ∧ q' = q
      · obtain ⟨rfl, rfl⟩ := hk
        simp only [and_self, if_true]
        cases hx : x.ctls.find? (fun c => c.rank == r' && c.quad == q') with
        | none => rfl
        | some c =>
          have := List.find?_some hx
          simp only [Bool.and_eq_true, beq_iff_eq] at this
          simp [this.1, this.2]
      · rw [if_neg hk]
        cases hx : x.ctls.find? (fun c => c.rank == r' && c.quad == q') with
        | none => rfl
        | some c =>
          have := List.find?_some hx
          simp only [Bool.and_eq_true, beq_iff_eq] at this
          simp only [Option.map_some, this.1, this.2]
          rw [if_neg (by simpa using hk)]
  · simp [hb]

theorem onlyCtl_modCtl (s : State) (b r q : Nat) (f : Ctl → Ctl) (hf : ∀ c, (f c).rank = c.rank ∧ (f c).quad = c.quad) :
    OnlyCtl s (s.modCtl b r q f) b r q where
  fields := rfl
  mem _ := rfl
  blocks b' hb := by rw [State.modCtl, block?_modBlock _ _ _ (by intro; rfl), if_neg hb]
  shell := by
    rw [State.modCtl, block?_modBlock _ _ _ (by intro; rfl), if_pos rfl]
    cases s.block? b <;> rfl
  ctls r' q' hk := by
    rw [ctl?_modCtl _ _ _ _ _ hf, if_neg]
    rintro ⟨_, rfl, rfl⟩
    exact hk rfl

theorem OnlyCtl.trans {s t u : State} {b r q : Nat} (h : OnlyCtl s t b r q) (k : OnlyCtl t u b r q) :
    OnlyCtl s u b r q where
  fields := by rw [k.fields, h.fields]
  mem a := (k.mem a).trans (h.mem a)
  blocks b' hb := (k.blocks b' hb).trans (h.blocks b' hb)
  shell := k.shell.trans h.shell
  ctls r' q' hg := (k.ctls r' q' hg).trans (h.ctls r' q' hg)

-- Threads.

theorem mapLanes_get? (ls : List Nat) (f : Nat → Thread → Thread) : ∀ (i : Nat) (ts : List Thread) (l : Nat),
    (mapLanes ls f i ts)[l]? = (ts[l]?).map fun t => if ls.contains (i + l) then f (i + l) t else t := by
  intro i ts
  induction ts generalizing i with
  | nil => intro l; simp [mapLanes]
  | cons t r ih =>
    intro l
    cases l with
    | zero => simp [mapLanes]
    | succ l => simp only [mapLanes, List.getElem?_cons_succ, ih]; rw [show i + 1 + l = i + (l + 1) by omega]

/-- The thread at a lane after the lanes named were changed. -/
theorem thread?_modLanes (g : Group) (ls : List Nat) (f : Nat → Thread → Thread) (l : Nat) :
    (g.modLanes ls f).thread? l = (g.thread? l).map fun t => if ls.contains l then f l t else t := by
  simp [Group.thread?, Group.modLanes, mapLanes_get?]

theorem mapLanes_congr {ls ls' : List Nat} {f f' : Nat → Thread → Thread} : ∀ (i : Nat) (ts : List Thread),
    (∀ l t, ts[l]? = some t → (if ls.contains (i + l) then f (i + l) t else t) =
      if ls'.contains (i + l) then f' (i + l) t else t) → mapLanes ls f i ts = mapLanes ls' f' i ts := by
  intro i ts h
  apply List.ext_getElem?
  intro l
  rw [mapLanes_get?, mapLanes_get?]
  cases ht : ts[l]? with
  | none => rfl
  | some t => simp only [Option.map_some]; rw [h l t ht]

theorem modLanes_congr (g : Group) {ls ls' : List Nat} {f f' : Nat → Thread → Thread}
    (h : ∀ l t, g.thread? l = some t → (if ls.contains l then f l t else t) = if ls'.contains l then f' l t else t) :
    g.modLanes ls f = g.modLanes ls' f' := by
  unfold Group.modLanes
  congr 1
  apply mapLanes_congr
  intro l t ht
  simpa using h l t ht

theorem modLanes_modLanes (g : Group) (ls ls' : List Nat) (f f' : Nat → Thread → Thread) :
    (g.modLanes ls f).modLanes ls' f' = g.modLanes (ls ++ ls') fun l t =>
      let t1 := if ls.contains l then f l t else t
      if ls'.contains l then f' l t1 else t1 := by
  have : ∀ a b : Group, a.threads = b.threads → { a with threads := [] } = { b with threads := [] } → a = b := by
    intro a b h1 h2; cases a; cases b; simp_all
  apply this
  · apply List.ext_getElem?
    intro l
    simp only [Group.modLanes, mapLanes_get?, Nat.zero_add, Option.map_map]
    cases g.threads[l]? with
    | none => rfl
    | some t =>
      by_cases h1 : ls.contains l = true <;> by_cases h2 : ls'.contains l = true <;>
        simp_all
  · rfl

end Sys2Proof.Machine
end

