-- ==== Sys2Proof/Laws/Lane.lean ====
section
/-!
SUPPORT. Everything the issue of a computing per-lane instruction can do outside a chain, said once.
-/
namespace Sys2Proof.Machine

theorem applyV_append (l : Nat) (a b : List VWrite) (v : List Word) :
    applyV l (a ++ b) v = applyV l b (applyV l a v) := by
  induction a generalizing v with
  | nil => rfl
  | cons x xs ih => exact ih _

theorem applyV_vwrites (l m : Nat) (ws : List Word) : ∀ (d : Nat) (v : List Word),
    applyV l (vwrites m d ws) v = if m = l then setRegs v d ws else v := by
  induction ws with
  | nil => intro d v; simp [vwrites, applyV, setRegs]
  | cons x xs ih =>
    intro d v
    by_cases h : m = l
    · subst h; simp [vwrites, applyV, ih, setRegs]
    · simp [vwrites, applyV, ih, h]

theorem applyV_none (l : Nat) (a : List VWrite) (v : List Word) (h : ∀ x ∈ a, x.lane ≠ l) : applyV l a v = v := by
  induction a generalizing v with
  | nil => rfl
  | cons x xs ih =>
    have hx : (x.lane == l) = false := by simpa using h x (List.mem_cons_self ..)
    simp only [applyV, hx]
    exact ih _ fun y hy => h y (List.mem_cons_of_mem _ hy)

theorem mem_vwrites_lane {m d : Nat} {ws : List Word} {x : VWrite} (h : x ∈ vwrites m d ws) : x.lane = m := by
  induction ws generalizing d with
  | nil => cases h
  | cons y ys ih =>
    cases h with
    | head => rfl
    | tail _ h => exact ih h

/-- Looking a lane up among lanes. -/
theorem find_self (ls : List Nat) (l : Nat) : ls.find? (· == l) = if l ∈ ls then some l else none := by
  induction ls with
  | nil => rfl
  | cons m ms ih =>
    by_cases h : m = l
    · simp [h]
    · simp [List.find?_cons_of_neg, h, ih, Ne.symm h]

/-- The writes of lanes that each occur once: a lane sees its own. -/
theorem applyV_flatMap {α : Type} (rs : List (Nat × α)) (f : Nat × α → List Word) (d l : Nat) (v : List Word)
    (hn : (rs.map (·.1)).Nodup) :
    applyV l (rs.flatMap fun r => vwrites r.1 d (f r)) v =
      match rs.find? (·.1 == l) with
      | some r => setRegs v d (f r)
      | none => v := by
  induction rs generalizing v with
  | nil => rfl
  | cons r rs ih =>
    simp only [List.map_cons, List.nodup_cons] at hn
    rw [List.flatMap_cons, applyV_append, applyV_vwrites, List.find?_cons]
    by_cases h : r.1 = l
    · have : (r.1 == l) = true := by simpa using h
      rw [if_pos h, this]
      apply applyV_none
      intro x hx
      obtain ⟨y, hy, hxy⟩ := List.mem_flatMap.mp hx
      rw [mem_vwrites_lane hxy, ← h]
      exact fun e => hn.1 (e ▸ List.mem_map.mpr ⟨y, hy, rfl⟩)
    · have : (r.1 == l) = false := by simpa using h
      rw [if_neg h, this]
      exact ih v hn.2

theorem applyP_none (l : Nat) (a : List PWrite) (p : BitVec 8) (h : ∀ x ∈ a, x.lane ≠ l) : applyP l a p = p := by
  induction a generalizing p with
  | nil => rfl
  | cons x xs ih =>
    have hx : (x.lane == l) = false := by simpa using h x (List.mem_cons_self ..)
    simp only [applyP, hx]
    exact ih _ fun y hy => h y (List.mem_cons_of_mem _ hy)

theorem applyP_filterMap {α : Type} (rs : List (Nat × α)) (f : Nat × α → Option Bool) (d l : Nat) (p : BitVec 8)
    (hn : (rs.map (·.1)).Nodup) :
    applyP l (rs.filterMap fun r => (f r).map fun b => (⟨r.1, d, b⟩ : PWrite)) p =
      match rs.find? (·.1 == l) with
      | some r => match f r with
        | some b => setPred p d b
        | none => p
      | none => p := by
  induction rs generalizing p with
  | nil => rfl
  | cons r rs ih =>
    simp only [List.map_cons, List.nodup_cons] at hn
    rw [List.find?_cons]
    have hrest : ∀ x ∈ rs.filterMap (fun r => (f r).map fun b => (⟨r.1, d, b⟩ : PWrite)), x.lane ≠ r.1 := by
      intro x hx
      obtain ⟨y, hy, hxy⟩ := List.mem_filterMap.mp hx
      obtain ⟨b, _, rfl⟩ := Option.map_eq_some_iff.mp hxy
      exact fun e => hn.1 (by simp only at e; rw [← e]; exact List.mem_map.mpr ⟨y, hy, rfl⟩)
    by_cases h : r.1 = l
    · have h' : (r.1 == l) = true := by simpa using h
      rw [h']
      cases hf : f r with
      | none =>
        rw [List.filterMap_cons_none (by simp [hf]), applyP_none _ _ _ (by rw [← h]; exact hrest)]
        simp [hf]
      | some b =>
        rw [List.filterMap_cons_some (by simp [hf]; rfl)]
        simp only [applyP, h', if_true]
        rw [applyP_none _ _ _ (by rw [← h]; exact hrest)]
        simp [hf, setPred]
    · have h' : (r.1 == l) = false := by simpa using h
      rw [h']
      cases hf : f r with
      | none =>
        rw [List.filterMap_cons_none (by simp [hf])]
        exact ih p hn.2
      | some b =>
        rw [List.filterMap_cons_some (by simp [hf]; rfl)]
        simp only [applyP, h']
        exact ih p hn.2

/-- The threads of an issuing fragment: each lane once, each the group's own. -/
theorem threads_find {w : Who} {g : Group} (hg : w.grp = some g) (l : Nat) :
    w.threads.find? (·.1 == l) =
      if w.lanes.contains l then (g.thread? l).map fun t => (l, t) else none := by
  unfold Who.threads
  rw [hg]
  simp only
  induction w.lanes with
  | nil => rfl
  | cons m ms ih =>
    cases hm : g.thread? m with
    | none =>
      rw [List.filterMap_cons_none (by simp [hm]), ih]
      by_cases h : m = l
      · subst h; simp [hm]
      · have : (l == m) = false := by simpa using fun e => h e.symm
        rw [List.contains_cons, this, Bool.false_or]
    | some t =>
      rw [List.filterMap_cons_some (by simp [hm]; rfl), List.find?_cons]
      by_cases h : m = l
      · subst h; simp [hm]
      · simp only [beq_false_of_ne h, ih, List.contains_cons, beq_false_of_ne (Ne.symm h), Bool.false_or]

theorem threads_nodup {w : Who} {g : Group} (hg : w.grp = some g) (hl : w.lanes.Nodup) :
    (w.threads.map (·.1)).Nodup := by
  unfold Who.threads
  rw [hg]
  simp only
  have hsub : ((w.lanes.filterMap fun l => (g.thread? l).map fun t => (l, t)).map (·.1)).Sublist w.lanes := by
    clear hl
    induction w.lanes with
    | nil => simp
    | cons m ms ih =>
      cases hm : g.thread? m with
      | none =>
        rw [List.filterMap_cons_none (by simp [hm])]
        exact List.Sublist.cons _ ih
      | some t =>
        rw [List.filterMap_cons_some (by simp [hm]; rfl)]
        exact List.Sublist.cons_cons _ ih
  exact hsub.nodup hl

theorem Issues.lanes_nodup {s : State} {w : Who} {g : Group} (h : Issues s w g) : w.lanes.Nodup := by
  obtain ⟨_, _, _, _, ⟨m, _, hm⟩, _⟩ := who_frag h.who h.grp
  rw [hm]; exact lanesOf_nodup m

theorem Issues.lanes_lt {s : State} {w : Who} {g : Group} (h : Issues s w g) {l : Nat} (hl : l ∈ w.lanes) : l < 32 := by
  obtain ⟨_, _, _, _, ⟨m, _, hm⟩, _⟩ := who_frag h.who h.grp
  rw [hm] at hl; exact lanesOf_lt hl

theorem Issues.who_chain {s : State} {w : Who} {g : Group} (h : Issues s w g) : w.chain = none := by
  simp [Who.chain, h.grp, h.chain]

theorem Issues.uni_eq {s : State} {w : Who} {g : Group} (h : Issues s w g) : w.uni = g.uni :=
  (who_frag h.who h.grp).2.2.2.2.2.1

/-- Register writes with no poisoned register are a change of one group. -/
theorem applyWrites_clean (s : State) (b g : Nat) (vw : List VWrite) (pw : List PWrite) (h : s.regPoison = []) :
    s.applyWrites b g vw pw = s.modGroup b g fun gr =>
      gr.modLanes (List.range 32) fun i t => { t with v := applyV i vw t.v, p := applyP i pw t.p } := by
  unfold State.applyWrites State.modGroup State.modBlock
  have : cleanRegs b g vw pw s.regPoison = s.regPoison := by rw [h]; rfl
  rw [this]

theorem setPc_frag (s : State) (w : Who) (g : Group) (pc : Nat) (h : w.grp = some g) :
    s.setPc w pc = s.modGroup w.blk.id g.num (·.modLanes w.lanes fun _ t => { t with pc := pc % 2 ^ 56 }) := by
  simp [State.setPc, h, State.modLanes]

/-- The thread of a lane after a computing instruction outside a chain (R185, R186, R198). -/
def LaneSpec.after (x : LaneSpec) (w : Who) (l : Nat) (th : Thread) : Thread :=
  if !x.w && (!x.guarded || th.guard x.g) then
    { th with
      pc := w.next, v := setRegs th.v x.d (x.eval w l th).words,
      p := match (x.eval w l th).pred with
        | some b => setPred th.p x.pd b
        | none => th.p }
  else { th with pc := w.next }

/-- The group after a computing instruction outside a chain. -/
theorem LaneSpec.laneEnd_clean (x : LaneSpec) {s : State} {w : Who} {g : Group} (h : Issues s w g)
    (ht : trapLanes w.uni (x.effects w).flags w.lanes = []) :
    ∃ t, s.laneEnd w g (x.effects w) (w.pc + 4) = t ∧ OnlyGroup s t w.blk.id g.num ∧
      t.group? w.blk.id g.num =
        some { g.modLanes w.lanes (x.after w) with uni := g.uni.merge (flagsOf (x.effects w).flags) } := by
  refine ⟨_, rfl, ?_⟩
  have hgrp := (who_frag h.who h.grp).2.1
  unfold State.laneEnd
  simp only [h.who_chain, Option.map_none, Option.getD_none, List.nil_append, ht, State.flagTraps, List.map_nil,
    State.takeTraps]
  rw [applyWrites_clean _ _ _ _ _ h.clean, setPc_frag _ _ _ _ h.grp, modGroup_modGroup _ _ _ _ _ (by intro; rfl),
    modGroup_modGroup _ _ _ _ _ (by intro; rfl)]
  refine ⟨onlyGroup_modGroup _ _ _ _ (by intro; rfl), ?_⟩
  rw [group?_modGroup _ _ _ _ (by intro; rfl), if_pos ⟨rfl, rfl⟩, hgrp, Option.map_some]
  congr 1
  have hthr : ∀ (l : Nat) (th : Thread), g.threads[l]? = some th →
      (if (w.lanes.contains l) = true then
        { (if (List.range 32).contains l = true then
            ({ th with v := applyV l (x.effects w).vw th.v, p := applyP l (x.effects w).pw th.p } : Thread) else th) with
          pc := w.next }
       else if (List.range 32).contains l = true then
            ({ th with v := applyV l (x.effects w).vw th.v, p := applyP l (x.effects w).pw th.p } : Thread) else th) =
      if (w.lanes.contains l) = true then x.after w l th else th := by
    intro l th hl
    have hfind := threads_find h.grp l
    have hnd := threads_nodup h.grp h.lanes_nodup
    have hv : applyV l (x.effects w).vw th.v =
        if w.lanes.contains l = true ∧ (!x.w && (!x.guarded || th.guard x.g)) = true then
          setRegs th.v x.d (x.eval w l th).words else th.v := by
      unfold LaneSpec.effects
      cases hxw : x.w with
      | true => simp [applyV]
      | false =>
        simp only [Bool.false_eq_true, if_false]
        have := applyV_flatMap (w.threads.map fun (l, t) =>
          if !x.guarded || t.guard x.g then (l, true, x.eval w l t)
          else (l, false, { latch := x.keptLatch t : LaneOut })) (fun r => r.2.2.words) x.d l th.v
          (by
            rw [List.map_map]
            have : ((fun r : Nat × Bool × LaneOut => r.1) ∘ fun (p : Nat × Thread) =>
              if !x.guarded || p.2.guard x.g then (p.1, true, x.eval w p.1 p.2)
              else (p.1, false, { latch := x.keptLatch p.2 : LaneOut })) = fun p => p.1 := by
              funext p; simp only [Function.comp]; split <;> rfl
            rw [this]; exact hnd)
        refine this.trans ?_
        rw [List.find?_map]
        have hcomp : ((fun r : Nat × Bool × LaneOut => r.1 == l) ∘ fun (p : Nat × Thread) =>
              if !x.guarded || p.2.guard x.g then (p.1, true, x.eval w p.1 p.2)
              else (p.1, false, { latch := x.keptLatch p.2 : LaneOut })) = fun p => p.1 == l := by
          funext p; simp only [Function.comp]; split <;> rfl
        rw [hcomp, hfind]
        cases hc : w.lanes.contains l with
        | false => simp
        | true =>
          simp only [if_true, Group.thread?, hl, Option.map_some, true_and]
          by_cases hon : (!x.guarded || th.guard x.g) = true
          · simp [hon]
          · simp [hon, setRegs]
    have hp : applyP l (x.effects w).pw th.p =
        if w.lanes.contains l = true ∧ (!x.w && (!x.guarded || th.guard x.g)) = true then
          (match (x.eval w l th).pred with
            | some b => setPred th.p x.pd b
            | none => th.p) else th.p := by
      unfold LaneSpec.effects
      cases hxw : x.w with
      | true => simp [applyP]
      | false =>
        simp only [Bool.false_eq_true, if_false]
        have := applyP_filterMap (w.threads.map fun (l, t) =>
          if !x.guarded || t.guard x.g then (l, true, x.eval w l t)
          else (l, false, { latch := x.keptLatch t : LaneOut })) (fun r => r.2.2.pred) x.pd l th.p
          (by
            rw [List.map_map]
            have : ((fun r : Nat × Bool × LaneOut => r.1) ∘ fun (p : Nat × Thread) =>
              if !x.guarded || p.2.guard x.g then (p.1, true, x.eval w p.1 p.2)
              else (p.1, false, { latch := x.keptLatch p.2 : LaneOut })) = fun p => p.1 := by
              funext p; simp only [Function.comp]; split <;> rfl
            rw [this]; exact hnd)
        refine this.trans ?_
        rw [List.find?_map]
        have hcomp : ((fun r : Nat × Bool × LaneOut => r.1 == l) ∘ fun (p : Nat × Thread) =>
              if !x.guarded || p.2.guard x.g then (p.1, true, x.eval w p.1 p.2)
              else (p.1, false, { latch := x.keptLatch p.2 : LaneOut })) = fun p => p.1 == l := by
          funext p; simp only [Function.comp]; split <;> rfl
        rw [hcomp, hfind]
        cases hc : w.lanes.contains l with
        | false => simp
        | true =>
          simp only [if_true, Group.thread?, hl, Option.map_some, true_and]
          by_cases hon : (!x.guarded || th.guard x.g) = true
          · simp [hon]
          · simp [hon]
    rw [hv, hp]
    cases hc : w.lanes.contains l with
    | false => simp
    | true =>
      have hlt : (List.range 32).contains l = true := by
        simpa using h.lanes_lt (by simpa using hc)
      simp only [if_true, hlt, true_and, LaneSpec.after]
      by_cases hon : (!x.w && (!x.guarded || th.guard x.g)) = true
      · simp only [hon, if_true]
      · simp only [hon]; rfl
  have hth : (Group.modLanes { (g.modLanes (List.range 32) fun i t =>
        ({ t with v := applyV i (x.effects w).vw t.v, p := applyP i (x.effects w).pw t.p } : Thread)) with
        chain := none, uni := g.uni.merge (flagsOf (x.effects w).flags) } w.lanes
        fun _ t => { t with pc := (w.pc + 4) % 2 ^ 56 }).threads = (g.modLanes w.lanes (x.after w)).threads := by
    apply List.ext_getElem?
    intro l
    simp only [Group.modLanes, mapLanes_get?, Nat.zero_add, Option.map_map]
    cases hl : g.threads[l]? with
    | none => rfl
    | some th =>
      simp only [Option.map_some, Function.comp]
      congr 1
      exact hthr l th hl
  have hchain := h.chain
  cases g
  simp only at hchain
  subst hchain
  simp only [Group.modLanes] at hth ⊢
  rw [hth]

/-- The meaning of a computing per-lane instruction outside a chain, its operands in range. -/
theorem LaneSpec.run_clean (x : LaneSpec) {s : State} {w : Who} {g : Group} (h : Issues s w g) (hh : x.h = false)
    (hsrc : ∀ p ∈ x.srcs, srcOk w.grid.desc p.1 p.2 = true ∧ (p.1 < 0x40 ∨ 0x44 ≤ p.1))
    (hd : x.dwords = 0 ∨ vOk w.grid.desc x.d x.dwords = true)
    (ht : trapLanes w.uni (x.effects w).flags w.lanes = []) :
    ∃ t, x.run s = .next t ∧ OnlyGroup s t w.blk.id g.num ∧
      t.group? w.blk.id g.num =
        some { g.modLanes w.lanes (x.after w) with uni := g.uni.merge (flagsOf (x.effects w).flags) } := by
  obtain ⟨t, ht1, ht2⟩ := x.laneEnd_clean h ht
  refine ⟨t, ?_, ht2⟩
  have hok : (x.srcs.all (fun (a, n) => srcOk w.grid.desc a n) &&
      (x.dwords == 0 || vOk w.grid.desc x.d x.dwords)) = true := by
    rw [Bool.and_eq_true, List.all_eq_true]
    refine ⟨fun p hp => (hsrc p hp).1, ?_⟩
    rcases hd with hd | hd <;> simp [hd]
  have hst : (x.srcs.map (·.1)).any (staleSrc none) = false := by
    rw [List.any_eq_false]
    intro a ha
    obtain ⟨p, hp, rfl⟩ := List.mem_map.mp ha
    have := (hsrc p hp).2
    simp only [staleSrc]
    simp
    omega
  unfold LaneSpec.run perLane LaneSpec.issue
  simp only [h.who, h.grp, h.who_chain, issueFault, hh, hok, hst]
  simp [LaneSpec.poisoned, h.clean, ht1]

theorem foldl_or_filterMap (f : Nat × Thread → Word) (l : List (Nat × Thread)) (a : Word) :
    (l.filterMap fun p => if f p == 0 then none else some (p.1, f p)).foldl (fun a x => a ||| x.2) a =
      l.foldl (fun a p => a ||| f p) a := by
  induction l generalizing a with
  | nil => rfl
  | cons p ps ih =>
    by_cases h : f p = 0
    · rw [List.filterMap_cons_none (by simp [h]), ih, List.foldl_cons, h]; simp
    · rw [List.filterMap_cons_some (b := (p.1, f p)) (by rw [if_neg (by simpa using h)]), List.foldl_cons, ih, List.foldl_cons]

/-- The lanes a computing instruction acts on. -/
def LaneSpec.active (x : LaneSpec) (w : Who) : List (Nat × Thread) :=
  w.threads.filter fun p => !x.guarded || p.2.guard x.g

theorem LaneSpec.flags_eq (x : LaneSpec) (w : Who) : (x.effects w).flags =
    (x.active w).filterMap fun p => if (x.eval w p.1 p.2).flags == 0 then none else some (p.1, (x.eval w p.1 p.2).flags) := by
  unfold LaneSpec.effects LaneSpec.active
  simp only
  induction w.threads with
  | nil => rfl
  | cons p ps ih =>
    obtain ⟨l, th⟩ := p
    by_cases hon : (!x.guarded || th.guard x.g) = true
    · rw [List.map_cons, List.filter_cons_of_pos (by simpa using hon), List.filterMap_cons, List.filterMap_cons, ih]
      simp only [hon, if_true]
    · rw [List.map_cons, List.filter_cons_of_neg (by simpa using hon), List.filterMap_cons, ih]
      simp only [hon]; rfl

theorem LaneSpec.flagsOf_eq (x : LaneSpec) (w : Who) :
    flagsOf (x.effects w).flags = orFlags (x.active w) fun l th => (x.eval w l th).flags := by
  rw [x.flags_eq]
  exact foldl_or_filterMap (fun p => (x.eval w p.1 p.2).flags) _ _

theorem LaneSpec.noTrap (x : LaneSpec) (w : Who)
    (h : ∀ p ∈ x.active w, (x.eval w p.1 p.2).flags &&& w.uni.te = 0) :
    trapLanes w.uni (x.effects w).flags w.lanes = [] := by
  rw [x.flags_eq]
  unfold trapLanes
  rw [List.filter_eq_nil_iff]
  intro l _
  rw [Bool.not_eq_true, List.any_eq_false]
  intro y hy
  obtain ⟨p, hp, hpy⟩ := List.mem_filterMap.mp hy
  have := h p hp
  split at hpy
  · cases hpy
  · cases hpy; simp [this]

/-- A computing per-lane instruction outside a chain that traps no lane. -/
theorem LaneSpec.laneEffect (x : LaneSpec) {i : Instr} {s : State} {w : Who} {g : Group} (h : Issues s w g)
    (he : exec i s = x.run s) (hh : x.h = false)
    (hsrc : ∀ p ∈ x.srcs, srcOk w.grid.desc p.1 p.2 = true ∧ (p.1 < 0x40 ∨ 0x44 ≤ p.1))
    (hd : x.dwords = 0 ∨ vOk w.grid.desc x.d x.dwords = true)
    (ht : ∀ p ∈ x.active w, (x.eval w p.1 p.2).flags &&& w.uni.te = 0) :
    LaneEffect i s w g
      (fun l th =>
        if !x.w && (!x.guarded || th.guard x.g) then
          { th with
            v := setRegs th.v x.d (x.eval w l th).words,
            p := match (x.eval w l th).pred with
              | some b => setPred th.p x.pd b
              | none => th.p }
        else th)
      (orFlags (x.active w) fun l th => (x.eval w l th).flags) := by
  obtain ⟨t, ht1, ht2, ht3⟩ := x.run_clean h hh hsrc hd (x.noTrap w ht)
  refine ⟨t, he.trans ht1, ht2, ?_⟩
  rw [ht3, x.flagsOf_eq]
  have : (fun l th => ({ (if !x.w && (!x.guarded || th.guard x.g) then
          ({ th with
            v := setRegs th.v x.d (x.eval w l th).words,
            p := match (x.eval w l th).pred with
              | some b => setPred th.p x.pd b
              | none => th.p } : Thread)
        else th) with pc := w.next } : Thread)) = x.after w := by
    funext l th
    unfold LaneSpec.after
    split <;> rfl
  rw [this]

/-- Such an instruction that raises no flag. -/
theorem LaneSpec.laneEffect_quiet (x : LaneSpec) {i : Instr} {s : State} {w : Who} {g : Group} (h : Issues s w g)
    (he : exec i s = x.run s) (hh : x.h = false)
    (hsrc : ∀ p ∈ x.srcs, srcOk w.grid.desc p.1 p.2 = true ∧ (p.1 < 0x40 ∨ 0x44 ≤ p.1))
    (hd : x.dwords = 0 ∨ vOk w.grid.desc x.d x.dwords = true) (hq : ∀ l th, (x.eval w l th).flags = 0) :
    LaneEffect i s w g
      (fun l th =>
        if !x.w && (!x.guarded || th.guard x.g) then
          { th with
            v := setRegs th.v x.d (x.eval w l th).words,
            p := match (x.eval w l th).pred with
              | some b => setPred th.p x.pd b
              | none => th.p }
        else th) 0 := by
  have := x.laneEffect h he hh hsrc hd (fun p _ => by simp [hq])
  have e : orFlags (x.active w) (fun l th => (x.eval w l th).flags) = 0 := by
    unfold orFlags
    induction x.active w with
    | nil => rfl
    | cons p ps ih => simpa [hq] using ih
  rw [e] at this
  exact this

/-- Flags no lane raised trap no lane. -/
theorem trapLanes_nil (u : Uni) (ls : List Nat) : trapLanes u [] ls = [] := by
  simp [trapLanes]

theorem merge_zero (u : Uni) : u.merge 0 = u := by simp [Uni.merge]


/-- The end of an instruction that moves each lane for itself, outside a chain: links written, program counters moved. -/
theorem laneEndAt_clean {s : State} {w : Who} {g : Group} (h : Issues s w g) (ls : List Nat) (hls : ls.Nodup)
    (hsub : ∀ l ∈ ls, l ∈ w.lanes) (d : Nat) (ws : List Word) (next : Nat → Nat) :
    OnlyGroup s (s.laneEndAt w g { noEff with vw := ls.flatMap fun l => vwrites l d ws } next) w.blk.id g.num ∧
      (s.laneEndAt w g { noEff with vw := ls.flatMap fun l => vwrites l d ws } next).group? w.blk.id g.num =
        some (g.modLanes w.lanes fun l th =>
          { th with v := if l ∈ ls then setRegs th.v d ws else th.v, pc := next l % 2 ^ 56 }) := by
  have hgrp := (who_frag h.who h.grp).2.1
  unfold State.laneEndAt
  simp only [h.who_chain, Option.map_none, Option.getD_none, List.nil_append, trapLanes_nil, List.map_nil,
    State.takeTraps]
  rw [applyWrites_clean _ _ _ _ _ h.clean, modGroup_modGroup _ _ _ _ _ (by intro; rfl)]
  refine ⟨onlyGroup_modGroup _ _ _ _ (by intro; rfl), ?_⟩
  rw [group?_modGroup _ _ _ _ (by intro; rfl), if_pos ⟨rfl, rfl⟩, hgrp, Option.map_some]
  congr 1
  have hv : ∀ (l : Nat) (v : List Word), applyV l (ls.flatMap fun l => vwrites l d ws) v =
      if l ∈ ls then setRegs v d ws else v := by
    intro l v
    have := applyV_flatMap (ls.map fun l => (l, ())) (fun _ => ws) d l v (by simpa [List.map_map, Function.comp_def] using hls)
    rw [List.flatMap_map] at this
    refine this.trans ?_
    rw [List.find?_map]
    rw [show ((fun x : Nat × Unit => x.1 == l) ∘ fun l => (l, ())) = (· == l) from rfl, find_self]
    by_cases hl : l ∈ ls <;> simp [hl]
  have hth : (Group.modLanes { (g.modLanes (List.range 32) fun i t =>
        ({ t with v := applyV i (ls.flatMap fun l => vwrites l d ws) t.v, p := applyP i [] t.p } : Thread)) with
        chain := none, uni := g.uni.merge (flagsOf []) } w.lanes
        fun l t => { t with pc := next l % 2 ^ 56 }).threads =
      (g.modLanes w.lanes fun l th =>
          { th with v := if l ∈ ls then setRegs th.v d ws else th.v, pc := next l % 2 ^ 56 }).threads := by
    apply List.ext_getElem?
    intro l
    simp only [Group.modLanes, mapLanes_get?, Nat.zero_add, Option.map_map]
    cases hl : g.threads[l]? with
    | none => rfl
    | some th =>
      simp only [Option.map_some, Function.comp]
      congr 1
      have hp : applyP l [] th.p = th.p := rfl
      rw [hv, hp]
      by_cases hw : l ∈ w.lanes
      · have h1 : (List.range 32).contains l = true := by simpa using h.lanes_lt hw
        have h2 : w.lanes.contains l = true := by simpa using hw
        simp only [h1, h2, if_true]
      · have hn : l ∉ ls := fun e => hw (hsub l e)
        have h2 : w.lanes.contains l = false := by simpa using hw
        cases (List.range 32).contains l <;> simp [hw, hn]
  have hchain := h.chain
  have hm : ∀ u : Uni, u.merge (flagsOf []) = u := merge_zero
  cases g
  simp only at hchain
  subst hchain
  simp only [Group.modLanes, hm] at hth ⊢
  rw [hth]

end Sys2Proof.Machine
end

