-- ==== Sys2Proof/Laws/Memory.lean ====
section
/-!
SUPPORT. The one memory: reading after writing, and the canonical form every write keeps.
-/
namespace Sys2Proof.Machine

theorem memWfFrom_mono {lo lo' : Nat} (h : lo' ≤ lo) {m : List Host.Cell} (hm : memWfFrom lo m = true) :
    memWfFrom lo' m = true := by
  cases m with
  | nil => rfl
  | cons c r =>
    obtain ⟨a, b⟩ := c
    simp only [memWfFrom, Bool.and_eq_true, decide_eq_true_eq] at hm ⊢
    exact ⟨⟨by omega, hm.1.2⟩, hm.2⟩

/-- Below its bound a canonical memory reads zero. -/
theorem memGet_below {lo : Nat} {m : List Host.Cell} (hm : memWfFrom lo m = true) {k : Nat} (h : k < lo) :
    memGet m k = 0 := by
  cases m with
  | nil => rfl
  | cons c r =>
    obtain ⟨a, b⟩ := c
    simp only [memWfFrom, Bool.and_eq_true, decide_eq_true_eq] at hm
    have h1 : (a == k) = false := by simp; omega
    have h2 : k < a := by omega
    simp [memGet, h1, h2]

/-- A write keeps the canonical form above any bound it respects. -/
theorem memSet_wfFrom {m : List Host.Cell} : ∀ {lo k : Nat} {v : Byte}, memWfFrom lo m = true → lo ≤ k →
    memWfFrom lo (memSet m k v) = true := by
  induction m with
  | nil =>
    intro lo k v _ hk
    unfold memSet
    split
    · rfl
    · simp_all [memWfFrom]
  | cons c r ih =>
    intro lo k v hm hk
    obtain ⟨a, b⟩ := c
    simp only [memWfFrom, Bool.and_eq_true, decide_eq_true_eq] at hm
    unfold memSet
    split
    · rename_i hak
      have hak : a = k := by simpa using hak
      split
      · exact memWfFrom_mono (by omega) hm.2
      · simp_all [memWfFrom]
    · rename_i hak
      have hak : a ≠ k := by simpa using hak
      split
      · split
        · simp_all [memWfFrom]
        · simp_all [memWfFrom] <;> omega
      · have := @ih (a + 1) k v hm.2 (by omega)
        simp_all [memWfFrom]

theorem memSet_wf {m : List Host.Cell} (k : Nat) (v : Byte) (h : Memory.wf m = true) :
    Memory.wf (memSet m k v) = true := memSet_wfFrom h (Nat.zero_le k)

theorem memWrite_wf {bs : List Byte} : ∀ {m : List Host.Cell} (k : Nat), Memory.wf m = true →
    Memory.wf (memWrite m k bs) = true := by
  induction bs with
  | nil => intro m k h; exact h
  | cons b bs ih => intro m k h; exact ih (k + 1) (memSet_wf k b h)

theorem writeMem_wf {s : State} (k : Nat) (bs : List Byte) (h : Memory.wf s.mem = true) :
    Memory.wf (s.writeMem k bs).mem = true := memWrite_wf k h

theorem reset_mem_wf : Memory.wf State.reset.mem = true := rfl

theorem memGet_memSet_from {m : List Host.Cell} : ∀ {lo : Nat} (_ : memWfFrom lo m = true) (k : Nat) (v : Byte) (j : Nat),
    memGet (memSet m k v) j = if j = k then v else memGet m j := by
  induction m with
  | nil =>
    intro lo _ k v j
    unfold memSet
    by_cases hv : v = 0
    · subst hv; simp [memGet]
    · simp only [beq_iff_eq, hv, if_false, memGet]
      by_cases hj : j = k
      · simp [hj]
      · have : ¬ k = j := fun e => hj e.symm
        simp [hj, this]
  | cons c r ih =>
    intro lo hm k v j
    obtain ⟨a, b⟩ := c
    simp only [memWfFrom, Bool.and_eq_true, decide_eq_true_eq] at hm
    have hlow := fun (h : j < a + 1) => memGet_below hm.2 h
    have hih := ih hm.2 k v j
    unfold memSet
    by_cases hak : a = k
    · subst hak
      by_cases hv : v = 0
      · subst hv
        by_cases hj : j = a
        · subst hj; simp [hlow (by omega)]
        · have hja : ¬ a = j := fun e => hj e.symm
          simp only [beq_self_eq_true, if_true, if_neg hj, memGet, beq_iff_eq, hja, if_false]
          split
          · exact hlow (by omega)
          · rfl
      · simp only [beq_self_eq_true, if_true, beq_iff_eq, hv, if_false, memGet]
        by_cases hj : j = a
        · simp [hj]
        · have hja : ¬ a = j := fun e => hj e.symm
          simp [hj, hja]
    · simp only [beq_iff_eq, hak, if_false]
      by_cases hka : k < a
      · simp only [hka, if_true]
        by_cases hv : v = 0
        · subst hv
          simp only [if_true, memGet, beq_iff_eq]
          by_cases hj : j = k
          · subst hj; simp [hak, hka]
          · simp [hj]
        · simp only [hv, if_false, memGet, beq_iff_eq]
          by_cases hj : j = k
          · simp [hj]
          · have hjk : ¬ k = j := fun e => hj e.symm
            simp only [hj, hjk, if_false]
            by_cases h1 : j < k
            · have h2 : ¬ a = j := by omega
              have h3 : j < a := by omega
              simp [h1, h2, h3]
            · simp [h1]
      · simp only [hka, if_false, memGet, beq_iff_eq, hih]
        by_cases hj : j = k
        · subst hj; simp [hak, hka]
        · simp [hj]

/-- In a canonical memory a byte written is read back, and every other byte is as it was. -/
theorem memGet_memSet {m : List Host.Cell} (h : Memory.wf m = true) (k : Nat) (v : Byte) (j : Nat) :
    memGet (memSet m k v) j = if j = k then v else memGet m j := memGet_memSet_from h k v j

/-- A byte outside the bytes written is as it was. -/
theorem memGet_memWrite_outside {bs : List Byte} : ∀ {m : List Host.Cell} (_ : Memory.wf m = true) (k j : Nat),
    (j < k ∨ k + bs.length ≤ j) → memGet (memWrite m k bs) j = memGet m j := by
  induction bs with
  | nil => intro m _ k j _; rfl
  | cons b bs ih =>
    intro m h k j hj
    simp only [List.length_cons] at hj
    rw [memWrite, ih (memSet_wf k b h) (k + 1) j (by omega), memGet_memSet h, if_neg (by omega)]

/-- Each of the bytes written is read back. -/
theorem memGet_memWrite_inside {bs : List Byte} : ∀ {m : List Host.Cell} (_ : Memory.wf m = true) (k i : Nat)
    (hi : i < bs.length), memGet (memWrite m k bs) (k + i) = bs[i] := by
  induction bs with
  | nil => intro m _ k i hi; exact absurd hi (Nat.not_lt_zero i)
  | cons b bs ih =>
    intro m h k i hi
    rw [memWrite]
    cases i with
    | zero => rw [memGet_memWrite_outside (memSet_wf k b h) _ _ (by omega), memGet_memSet h]; simp
    | succ i =>
      have := ih (memSet_wf k b h) (k + 1) i (by simpa using hi)
      rw [show k + (i + 1) = k + 1 + i by omega, this]; simp

/-- What was written is what is read. -/
theorem memRead_memWrite {bs : List Byte} : ∀ {m : List Host.Cell} (_ : Memory.wf m = true) (k : Nat),
    memRead (memWrite m k bs) k bs.length = bs := by
  induction bs with
  | nil => intro m _ k; rfl
  | cons b bs ih =>
    intro m h k
    simp only [memWrite, List.length_cons, memRead]
    rw [ih (memSet_wf k b h), memGet_memWrite_outside (memSet_wf k b h) _ _ (by omega), memGet_memSet h]
    simp

end Sys2Proof.Machine
end

