-- ==== Sys2Proof/Laws/Uni.lean ====
section
/-!
SUPPORT. Everything a uniform word can do outside a chain, for a fragment and for a control thread, said once.
-/
namespace Sys2Proof.Machine

theorem sPoisoned_clean {s : State} (h : s.regPoison = []) (w : Who) (r n : Nat) : s.sPoisoned w r n = false := by
  unfold State.sPoisoned; rw [h]; rfl
theorem cPoisoned_clean {s : State} (h : s.regPoison = []) (w : Who) (i : Nat) : s.cPoisoned w i = false := by
  unfold State.cPoisoned; rw [h]; simp
theorem vPoisoned_clean {s : State} (h : s.regPoison = []) (t : ThreadRef) (r n : Nat) : s.vPoisoned t r n = false := by
  unfold State.vPoisoned; rw [h]; rfl
theorem pPoisoned_clean {s : State} (h : s.regPoison = []) (t : ThreadRef) (i : Nat) : s.pPoisoned t i = false := by
  unfold State.pPoisoned; rw [h]; simp

theorem cleanUni_clean {s : State} (h : s.regPoison = []) (w : Who) (r n : Nat) : s.cleanUni w r n = s := by
  unfold State.cleanUni
  have : ∀ p : PoisonReg → Bool, s.regPoison.filter p = s.regPoison := by intro p; rw [h]; rfl
  rw [this]
theorem cleanCond_clean {s : State} (h : s.regPoison = []) (w : Who) (i : Nat) : s.cleanCond w i = s := by
  unfold State.cleanCond
  have : ∀ p : PoisonReg → Bool, s.regPoison.filter p = s.regPoison := by intro p; rw [h]; rfl
  rw [this]

theorem setPc_ctl (s : State) (w : Who) (c : Ctl) (pc : Nat) (h : w.grp = none) (hc : w.ctl = some c) :
    s.setPc w pc = s.modCtl w.blk.id c.rank c.quad fun x => { x with pc := pc % 2 ^ 56 } := by
  simp [State.setPc, h, hc]
theorem modUni_frag (s : State) (w : Who) (g : Group) (f : Uni → Uni) (h : w.grp = some g) :
    s.modUni w f = s.modGroup w.blk.id g.num fun x => { x with uni := f x.uni } := by
  simp [State.modUni, h]
theorem modUni_ctl (s : State) (w : Who) (c : Ctl) (f : Uni → Uni) (h : w.grp = none) (hc : w.ctl = some c) :
    s.modUni w f = s.modCtl w.blk.id c.rank c.quad fun x => { x with uni := f x.uni } := by
  simp [State.modUni, h, hc]

/-- The issuer's uniform state changed and its program counter moved: nothing else is. -/
theorem onlyIssuer_modUni_setPc {s : State} {w : Who} (h : s.who = some w) (f : Uni → Uni) (pc : Nat) :
    OnlyIssuer s ((s.modUni w f).setPc w pc) w (f w.uni) (pc % 2 ^ 56) := by
  cases hg : w.grp with
  | some g =>
    obtain ⟨_, hgr, _, _, _, hu, _⟩ := who_frag h hg
    simp only [OnlyIssuer, hg]
    rw [setPc_frag _ _ _ _ hg, modUni_frag _ _ _ _ hg, modGroup_modGroup _ _ _ _ _ (by intro; rfl)]
    refine ⟨onlyGroup_modGroup _ _ _ _ (by intro; rfl), ?_⟩
    rw [group?_modGroup _ _ _ _ (by intro; rfl), if_pos ⟨rfl, rfl⟩, hgr, hu]
    rfl
  | none =>
    obtain ⟨c, hc, _, hct, _, _, _, _, _, hu⟩ := who_ctl h hg
    simp only [OnlyIssuer, hg, hc]
    rw [setPc_ctl _ _ _ _ hg hc, modUni_ctl _ _ _ _ hg hc]
    refine ⟨(onlyCtl_modCtl _ _ _ _ _ (by intro; exact ⟨rfl, rfl⟩)).trans
      (onlyCtl_modCtl _ _ _ _ _ (by intro; exact ⟨rfl, rfl⟩)), ?_⟩
    rw [ctl?_modCtl _ _ _ _ _ (by intro; exact ⟨rfl, rfl⟩), if_pos ⟨rfl, rfl, rfl⟩,
      ctl?_modCtl _ _ _ _ _ (by intro; exact ⟨rfl, rfl⟩), if_pos ⟨rfl, rfl, rfl⟩, hct, hu]
    rfl

theorem modCtl_modCtl (s : State) (b r q : Nat) (f h : Ctl → Ctl) (hf : ∀ c, (f c).rank = c.rank ∧ (f c).quad = c.quad) :
    (s.modCtl b r q f).modCtl b r q h = s.modCtl b r q (fun c => h (f c)) := by
  unfold State.modCtl State.modBlock
  simp only [modIf, List.map_map]
  congr 1
  apply List.map_congr_left
  intro x _
  simp only [Function.comp]
  by_cases hx : (x.id == b) = true
  · simp only [hx, if_true]
    congr 1
    simp only [List.map_map]
    apply List.map_congr_left
    intro y _
    simp only [Function.comp]
    by_cases hy : (y.rank == r && y.quad == q) = true
    · simp [hy, hf]
    · simp [hy]
  · simp [hx]

/-- Changes of the uniform state on both sides of a program counter move are one change before it. -/
theorem modUni_setPc_modUni {s : State} {w : Who} (h : s.who = some w) (f k : Uni → Uni) (pc : Nat) :
    ((s.modUni w f).setPc w pc).modUni w k = (s.modUni w fun u => k (f u)).setPc w pc := by
  cases hg : w.grp with
  | some g =>
    simp only [setPc_frag _ _ _ _ hg, modUni_frag _ _ _ _ hg]
    rw [modGroup_modGroup _ _ _ _ _ (by intro; rfl), modGroup_modGroup _ _ _ _ _ (by intro; rfl),
      modGroup_modGroup _ _ _ _ _ (by intro; rfl)]
    rfl
  | none =>
    obtain ⟨c, hc, _⟩ := who_ctl h hg
    simp only [setPc_ctl _ _ _ _ hg hc, modUni_ctl _ _ _ _ hg hc]
    rw [modCtl_modCtl _ _ _ _ _ _ (by intro; exact ⟨rfl, rfl⟩), modCtl_modCtl _ _ _ _ _ _ (by intro; exact ⟨rfl, rfl⟩),
      modCtl_modCtl _ _ _ _ _ _ (by intro; exact ⟨rfl, rfl⟩)]

/-- Uniform registers written, flags that trap nobody merged (R219, R220). -/
theorem uniWrite_clean {s : State} {w : Who} (h : IssuesUni s w) (d : Nat) (ws : List Word) (f : Word)
    (hf : f &&& w.uni.te = 0) :
    OnlyIssuer s (s.uniWrite w d ws f) w ((w.uni.sset d ws).merge f) w.next := by
  unfold State.uniWrite State.uniFlags
  rw [cleanUni_clean h.clean, hf]
  simp only [beq_self_eq_true, if_true]
  rw [modUni_setPc_modUni h.who]
  exact onlyIssuer_modUni_setPc h.who (fun u => (u.sset d ws).merge f) (w.pc + 4)

/-- A condition written, flags that trap nobody merged. -/
theorem condWrite_clean {s : State} {w : Who} (h : IssuesUni s w) (d : Nat) (b : Bool) (f : Word)
    (hf : f &&& w.uni.te = 0) :
    OnlyIssuer s (s.condWrite w d b f) w ((w.uni.cset d b).merge f) w.next := by
  unfold State.condWrite State.uniFlags
  rw [cleanCond_clean h.clean, hf]
  simp only [beq_self_eq_true, if_true]
  rw [modUni_setPc_modUni h.who]
  exact onlyIssuer_modUni_setPc h.who (fun u => (u.cset d b).merge f) (w.pc + 4)

/-- Only the program counter moves. -/
theorem setPc_clean {s : State} {w : Who} (h : s.who = some w) (pc : Nat) :
    OnlyIssuer s (s.setPc w pc) w w.uni (pc % 2 ^ 56) := by
  have := onlyIssuer_modUni_setPc h (fun u => u) pc
  have e : s.modUni w (fun u => u) = s := by
    have hmap : ∀ {α : Type} (l : List α) (p : α → Bool), modIf l p (fun x => x) = l := by
      intro α l p; unfold modIf; simp
    unfold State.modUni
    split
    · simp [State.modGroup, State.modBlock, Block.modGroup, hmap]
    · simp [State.modCtl, State.modBlock, hmap]
    · rfl
  rw [e] at this
  exact this

/-- A uniform word whose condition holds does what its meaning says. -/
theorem uniform_on {s : State} {w : Who} (h : IssuesUni s w) (c : BitVec 3) (ok : Who → Bool) (reads : List (Nat × Nat))
    (k : Who → State) (ho : ok w = true) (hc : w.uni.cget c.toNat = true) : uniform s c ok reads k = .next (k w) := by
  unfold uniform
  simp [h.who, h.chain, ho, hc, cPoisoned_clean h.clean, sPoisoned_clean h.clean]

/-- A uniform word whose condition is false only moves on (R185). -/
theorem uniform_off {s : State} {w : Who} (h : IssuesUni s w) (c : BitVec 3) (ok : Who → Bool) (reads : List (Nat × Nat))
    (k : Who → State) (ho : ok w = true) (hc : w.uni.cget c.toNat = false) :
    uniform s c ok reads k = .next (s.setPc w (w.pc + 4)) := by
  unfold uniform
  simp [h.who, h.chain, ho, hc, cPoisoned_clean h.clean]

theorem cget_zero (u : Uni) : u.cget 0 = true := by simp [Uni.cget]

end Sys2Proof.Machine
end

