-- ==== Sys2Proof/Tests/Slice0.lean ====
section
/-!
SUPPORT. Tests. Words of the spec's encodings and the instructions they stand for, ill-formed terms that the checks of
WellFormed refuse, worked examples of the spec, and for each statement of Obligations a state and operands that meet its
hypotheses (the theorems `witness_…`, named as the statements are).
-/
open Sys2Proof Sys2Proof.Machine
namespace Sys2Proof.Tests

-- One test after the other: tests that all wait for the kernel at once would each hold a thread of their own.
set_option Elab.async false

-- The states the tests run in.

/-- A uniform state whose s8:s9 points into AB, s12 to s31 hold small numbers and c1 is true. -/
def uniOf (u : Uni) : Uni :=
  { u with s := (List.range 64).map fun r => if r = 8 then 0x100 else if r = 9 then 0x10000000 else BitVec.ofNat 32 (r % 8),
           c := 2 }

/-- A thread whose v10:v11 points into AB, its other registers small numbers, p1 true where `on`. -/
def thOf (on : Bool) (l : Nat) (t : Thread) : Thread :=
  { t with v := (List.range 64).map fun r => if r = 10 then BitVec.ofNat 32 (64 * l) else if r = 11 then 0x10000000
                  else BitVec.ofNat 32 (r + l),
           p := if on then 2 else 0 }

/-- The smallest resident block with registers set, a fragment of lanes 0 and 2 at 0x40 (the others stand at 0x80), p1 true
in lane 0. -/
def lane : State :=
  let s := ((State.reset.bootOver false).modLanes 0 0 (List.range 32) fun l t =>
    { thOf (l == 0) l t with pc := if l = 0 ∨ l = 2 then 0x40 else 0x80 }).modGroup 0 0 fun g => { g with uni := uniOf g.uni }
  { s with cur := .frag 0 0 5 }

/-- The same with a control thread that issues. -/
def ctrl : State :=
  { (State.reset.bootOver true).modCtl 0 0 0 fun c => { c with uni := uniOf c.uni } with cur := .ctl 0 0 0 }

theorem lane_who : lane.who.isSome = true := by decide +kernel
theorem ctrl_who : ctrl.who.isSome = true := by decide +kernel
def laneW : Who := lane.who.get lane_who
def ctrlW : Who := ctrl.who.get ctrl_who
theorem lane_grp : laneW.grp.isSome = true := by decide +kernel
theorem ctrl_ctl : ctrlW.ctl.isSome = true := by decide +kernel
def laneG : Group := laneW.grp.get lane_grp
def ctrlC : Ctl := ctrlW.ctl.get ctrl_ctl

theorem laneIssues : Issues lane laneW laneG :=
  ⟨(Option.some_get _).symm, (Option.some_get _).symm, by decide +kernel, by decide +kernel⟩
theorem laneUni : IssuesUni lane laneW := ⟨(Option.some_get _).symm, by decide +kernel, by decide +kernel⟩
theorem ctrlUni : IssuesUni ctrl ctrlW := ⟨(Option.some_get _).symm, by decide +kernel, by decide +kernel⟩
theorem ctrl_isCtl : ctrlW.grp = none ∧ ctrlW.ctl = some ctrlC := ⟨by decide +kernel, (Option.some_get _).symm⟩

-- Finding a witness by evaluation.

theorem opt_of {α : Type} {o : Option α} {P : α → Prop} [DecidablePred P] (h : o.any (decide <| P ·) = true) :
    ∃ x, o = some x ∧ P x := by
  rcases o with _ | y
  · cases h
  · exact ⟨y, rfl, decide_eq_true_eq.mp h⟩

theorem issues_of {s : State} {P : Who → Group → Prop} [∀ w g, Decidable (P w g)]
    (h : (match s.who with
      | some w => (match w.grp with
        | some g => decide (g.chain = none ∧ s.regPoison = [] ∧ P w g)
        | none => false)
      | none => false) = true) : ∃ w g, Issues s w g ∧ P w g := by
  split at h
  · rename_i w hw
    split at h
    · rename_i g hg
      have k := of_decide_eq_true h
      exact ⟨w, g, ⟨hw, hg, k.1, k.2.1⟩, k.2.2⟩
    · simp at h
  · simp at h

theorem uni_of {s : State} {P : Who → Prop} [∀ w, Decidable (P w)]
    (h : (match s.who with
      | some w => decide (w.chain = none ∧ s.regPoison = [] ∧ P w)
      | none => false) = true) : ∃ w, IssuesUni s w ∧ P w := by
  split at h
  · rename_i w hw
    have k := of_decide_eq_true h
    exact ⟨w, ⟨hw, k.1, k.2.1⟩, k.2.2⟩
  · simp at h

/-- A control thread that issues, with its pair. -/
theorem ctl_of {s : State} {P : Who → Ctl → Pair → Prop} [∀ w c p, Decidable (P w c p)]
    (h : (match s.who with
      | some w => (match w.ctl, s.pair? w.blk.id w.rank w.quad with
        | some c, some p => decide (w.chain = none ∧ s.regPoison = [] ∧ w.grp = none ∧ P w c p)
        | _, _ => false)
      | none => false) = true) :
    ∃ w c p, IssuesUni s w ∧ w.grp = none ∧ w.ctl = some c ∧ s.pair? w.blk.id w.rank w.quad = some p ∧ P w c p := by
  split at h
  · rename_i w hw
    split at h
    · rename_i c p hc hp
      have k := of_decide_eq_true h
      exact ⟨w, c, p, ⟨hw, k.1, k.2.1⟩, k.2.2.1, hc, hp, k.2.2.2⟩
    · simp at h
  · simp at h

-- Witnesses: per-lane arithmetic (the statements of one fragment outside a chain).

/-- Operands of LR instructions that may be read and written here. -/
def lr : LR := ⟨1, false, 20, 2, 0x47, false⟩
def lrp : LR := ⟨1, false, 20, 2, 0x4C, false⟩
def un : Un := ⟨1, false, 20, 2, false⟩

theorem lr_names : laneW.mayRead lr.a 1 ∧ laneW.mayRead lr.b 1 ∧ laneW.mayName lr.d 1 := by
  unfold Who.mayRead Who.mayName; decide +kernel
theorem lrp_names : laneW.mayRead lrp.a 2 ∧ laneW.mayRead lrp.b 2 ∧ laneW.mayName lrp.d 2 := by
  unfold Who.mayRead Who.mayName; decide +kernel
theorem un_names : laneW.mayRead un.a 2 ∧ laneW.mayRead un.a 1 ∧ laneW.mayName un.d 1 ∧ laneW.mayName un.d 2 := by
  unfold Who.mayRead Who.mayName; decide +kernel

theorem witness_IntegerResults : Issues lane laneW laneG ∧ lr.h = false ∧
    laneW.mayRead lr.a 1 ∧ laneW.mayRead lr.b 1 ∧ laneW.mayName lr.d 1 := ⟨laneIssues, rfl, lr_names⟩

theorem witness_PairResults : Issues lane laneW laneG ∧ lrp.h = false ∧
    laneW.mayRead lrp.a 2 ∧ laneW.mayRead lrp.b 2 ∧ laneW.mayName lrp.d 2 := ⟨laneIssues, rfl, lrp_names⟩

theorem witness_SelectAndImmediates : Issues lane laneW laneG ∧ lr.h = false ∧
    (laneW.mayRead lr.a 1 ∧ laneW.mayRead lr.b 1 ∧ laneW.mayName lr.d 1) ∧ laneW.mayName (20 : BitVec 6) 1 ∧
    laneW.mayRead (2 : BitVec 7) 1 :=
  ⟨laneIssues, rfl, lr_names, by unfold Who.mayName; decide +kernel, by unfold Who.mayRead; decide +kernel⟩

theorem witness_PredicateAndUnaryResults : let x : Cmp := ⟨1, false, 3, 7, 2, 0x47, false⟩
    let y : Plop := ⟨1, false, 2, 1, 0, 1, false⟩
    Issues lane laneW laneG ∧ (x.p ≠ 0 ∧ x.h = false ∧ laneW.mayRead x.a 1 ∧ laneW.mayRead x.b 1) ∧ (y.p ≠ 0 ∧ y.h = false) ∧
    un.h = false ∧ laneW.mayRead un.a 1 ∧ laneW.mayName un.d 1 :=
  ⟨laneIssues, by unfold Who.mayRead; decide +kernel, by decide, rfl, un_names.2.1, un_names.2.2.1⟩

/-- FADD's flags in the lanes that are on, under TE zero; DADD's and DTSUM's beside them. -/
theorem witness_FloatResults : Issues lane laneW laneG ∧ lr.h = false ∧
    (laneW.mayRead lr.a 1 ∧ laneW.mayRead lr.b 1 ∧ laneW.mayName lr.d 1) ∧
    (∀ q ∈ laneW.on lr.g, (fmtF32.add (FCtl.ofGctl laneW.uni.gctl) (readSrc32 laneW q.1 q.2 lr.a.toNat).toNat
      (readSrc32 laneW q.1 q.2 lr.b.toNat).toNat).flags &&& laneW.uni.te = 0) ∧
    (laneW.mayRead lrp.a 2 ∧ laneW.mayRead lrp.b 2 ∧ laneW.mayName lrp.d 2) ∧
    (∀ q ∈ laneW.on lrp.g, (fmtF64.add (FCtl.ofGctl laneW.uni.gctl) (readSrc64 laneW q.1 q.2 lrp.a.toNat).toNat
      (readSrc64 laneW q.1 q.2 lrp.b.toNat).toNat).flags &&& laneW.uni.te = 0) ∧ laneW.mayName (20 : BitVec 6) 4 ∧
    (∀ q ∈ laneW.on lrp.g, (dtsum (readSrc64 laneW q.1 q.2 lrp.a.toNat).toNat
      (readSrc64 laneW q.1 q.2 lrp.b.toNat).toNat).2.2 &&& laneW.uni.te = 0) :=
  ⟨laneIssues, rfl, lr_names, by decide +kernel, lrp_names, by decide +kernel, by unfold Who.mayName; decide +kernel,
    by decide +kernel⟩

theorem witness_FloatCompareResults : let x : Cmp := ⟨1, false, 3, 7, 2, 0x4C, false⟩
    Issues lane laneW laneG ∧ x.h = false ∧ x.p ≠ 0 ∧ (laneW.mayRead x.a 1 ∧ laneW.mayRead x.b 1) ∧
    (∀ q ∈ laneW.on x.g, (fmtF32.compare (FCtl.ofGctl laneW.uni.gctl) x.k.toNat (readSrc32 laneW q.1 q.2 x.a.toNat).toNat
      (readSrc32 laneW q.1 q.2 x.b.toNat).toNat).2 &&& laneW.uni.te = 0) ∧ (laneW.mayRead x.a 2 ∧ laneW.mayRead x.b 2) ∧
    (∀ q ∈ laneW.on x.g, (fmtF64.compare (FCtl.ofGctl laneW.uni.gctl) x.k.toNat (readSrc64 laneW q.1 q.2 x.a.toNat).toNat
      (readSrc64 laneW q.1 q.2 x.b.toNat).toNat).2 &&& laneW.uni.te = 0) ∧
    (fmtF32.value 0x7FC00000).isNan ∧ (fmtF64.value 0x7FF0000000000001).isNan :=
  ⟨laneIssues, rfl, by decide, by unfold Who.mayRead; decide +kernel, by decide +kernel, by unfold Who.mayRead; decide +kernel,
    by decide +kernel, by decide +kernel, by decide +kernel⟩

theorem witness_FloatUnaryResults : Issues lane laneW laneG ∧ un.h = false ∧ (laneW.mayRead un.a 1 ∧ laneW.mayName un.d 1) ∧
    (∀ q ∈ laneW.on un.g, (fmtF32.sqrt (FCtl.ofGctl laneW.uni.gctl) (readSrc32 laneW q.1 q.2 un.a.toNat).toNat).flags &&&
      laneW.uni.te = 0) ∧ (laneW.mayRead un.a 2 ∧ laneW.mayName un.d 2) ∧
    (∀ q ∈ laneW.on un.g, (fmtF64.rcp (FCtl.ofGctl laneW.uni.gctl) (readSrc64 laneW q.1 q.2 un.a.toNat).toNat).flags &&&
      laneW.uni.te = 0) :=
  ⟨laneIssues, rfl, ⟨un_names.2.1, un_names.2.2.1⟩, by decide +kernel, ⟨un_names.1, un_names.2.2.2⟩, by decide +kernel⟩

theorem witness_ConversionResults : let y : CvtF := ⟨1, false, 20, 2, 9, false⟩
    let z : CvtR := ⟨1, 20, 2, 3⟩
    Issues lane laneW laneG ∧ un.h = false ∧ (laneW.mayRead un.a 2 ∧ laneW.mayName un.d 2) ∧
    (∀ q ∈ laneW.on un.g, (fmtF64.toInt (FCtl.ofGctl laneW.uni.gctl) 64 true (readSrc laneW q.1 q.2 un.a.toNat 2)).flags &&&
      laneW.uni.te = 0) ∧
    (y.h = false ∧ laneW.mayRead y.a 1 ∧ laneW.mayName y.d 1) ∧
    (∀ q ∈ laneW.on y.g, (toFormat y.f.toNat (FCtl.ofGctl laneW.uni.gctl) (readSrc32 laneW q.1 q.2 y.a.toNat).toNat).flags &&&
      laneW.uni.te = 0) ∧
    (∀ q ∈ laneW.on y.g, (fromFormat y.f.toNat (FCtl.ofGctl laneW.uni.gctl) (readSrc32 laneW q.1 q.2 y.a.toNat).toNat).flags &&&
      laneW.uni.te = 0) ∧
    (laneW.mayRead z.a 1 ∧ laneW.mayRead z.b 1 ∧ laneW.mayName z.d 1) ∧
    (∀ q ∈ laneW.on z.g,
      let v := fmtF32.input (FCtl.ofGctl laneW.uni.gctl).ftz (readSrc32 laneW q.1 q.2 z.a.toNat).toNat
      ((convertTo 0x09 (.sr ((readSrc32 laneW q.1 q.2 z.b.toNat).toNat % 2 ^ 16)) v).laneFlags v.isSNan) &&& laneW.uni.te = 0) :=
  ⟨laneIssues, rfl, ⟨un_names.1, un_names.2.2.2⟩, by decide +kernel, ⟨rfl, by unfold Who.mayRead Who.mayName; decide +kernel⟩,
    by decide +kernel, by decide +kernel, by unfold Who.mayRead Who.mayName; decide +kernel, by decide +kernel⟩

theorem witness_FloatSpecialValues : (fmtF32.value 0x7F800001).isNan ∧ (fmtF64.value 0x7FF8000000000000).isNan ∧
    (∃ m e, fmtF64.input true 0xBFF0000000000000 = .fin true m e ∧ m ≠ 0) ∧
    (∃ m e, fmtF32.input false 0x00000001 = .fin false m e ∧ m ≠ 0) ∧ fmtE4M3 ∈ floatFormats ∧ 0x38 < 2 ^ fmtE4M3.width ∧
    ∃ neg m e, fmtE4M3.value 0x38 = .fin neg m e :=
  ⟨by decide +kernel, by decide +kernel, ⟨_, _, rfl, by decide⟩, ⟨_, _, rfl, by decide⟩, by decide, by decide, _, _, _, rfl⟩

-- Witnesses: chains, flag traps, team operations.

/-- The state after the head of a chain, whose latch b0 the next member reads. -/
def chained : State :=
  match exec (.fadd ⟨0, true, 0, 2, 3, true⟩) lane with
  | .next t => t
  | _ => lane
theorem chained_who : chained.who.isSome = true := by decide +kernel
def chainedW : Who := chained.who.get chained_who
theorem chained_grp : chainedW.grp.isSome = true := by decide +kernel
def chainedG : Group := chainedW.grp.get chained_grp
theorem chained_chain : chainedG.chain.isSome = true := by decide +kernel
def chainedC : Chain := chainedG.chain.get chained_chain
theorem chained_at : chained.who = some chainedW ∧ chainedW.grp = some chainedG ∧ chainedG.chain = some chainedC :=
  ⟨(Option.some_get _).symm, (Option.some_get _).symm, (Option.some_get _).symm⟩

/-- IADD as a chain's head or end, FCMP of latch b0 as a later member. -/
def addMember (h : Bool) : Member :=
  let x : LR := { lr with h := h }
  wordMember .iadd x (fun w l th => readSrc32 w l th x.a.toNat + readSrc32 w l th x.b.toNat) fun _ _ _ => 0
def cmpMember (h : Bool) : Member :=
  let x : Cmp := ⟨1, false, 3, 7, 0x40, 3, h⟩
  let f := fun (w : Who) l th =>
    fmtF32.compare (FCtl.ofGctl w.uni.gctl) x.k.toNat (readSrc32 w l th x.a.toNat).toNat (readSrc32 w l th x.b.toNat).toNat
  compareMember .fcmp x (fun w l th => (f w l th).1) fun w l th => (f w l th).2
theorem addMember_is (h : Bool) : isMember (addMember h) := .inl ⟨_, List.mem_cons_self .., _, rfl⟩
theorem cmpMember_is (h : Bool) : isMember (cmpMember h) := .inr (.inr (.inr (.inr (.inr ⟨_, rfl⟩))))
theorem addMember_ok (h : Bool) : (addMember h).ok laneW := by
  unfold addMember wordMember Who.reads Who.mayName
  cases h <;> exact ⟨⟨by decide +kernel, by decide +kernel⟩, ⟨by decide +kernel, by decide +kernel⟩, by decide +kernel⟩
theorem cmpMember_ok (h : Bool) : (cmpMember h).ok chainedW := by
  unfold cmpMember compareMember Who.reads
  cases h <;> exact ⟨by decide, ⟨by decide +kernel, by decide +kernel⟩, ⟨by decide +kernel, by decide +kernel⟩⟩

theorem latches_of {o : Option Chain} (h : o.all (fun c => c.latches.length == 4) = true) :
    ∀ c, o = some c → c.latches.length = 4 := by
  rintro c rfl
  simpa using h

/-- A head, a middle member, and a latch that is stale at the head (b0) and inside a chain (b3). -/
theorem witness_ChainHead : let x : LR := ⟨0, false, 20, 0x40, 3, false⟩
    let y : LR := ⟨0, false, 20, 3, 0x43, false⟩
    (isMember (addMember true) ∧ (addMember true).ok laneW ∧ (addMember true).h = true ∧ lane.who = some laneW ∧
      laneW.grp = some laneG ∧ laneW.chain = laneG.chain ∧ lane.regPoison = [] ∧
      (∀ c, laneW.chain = some c → c.latches.length = 4) ∧ chainPos laneW.chain < 7) ∧
    (isMember (cmpMember true) ∧ (cmpMember true).ok chainedW ∧ (cmpMember true).h = true ∧ chained.who = some chainedW ∧
      chainedW.grp = some chainedG ∧ chainedW.chain = chainedG.chain ∧ chained.regPoison = [] ∧
      (∀ c, chainedW.chain = some c → c.latches.length = 4) ∧ chainPos chainedW.chain = 1) ∧
    (srcOk laneW.grid.desc x.a.toNat 1 = true ∧ srcOk laneW.grid.desc x.b.toNat 1 = true ∧ laneW.mayName x.d 1 ∧
      staleSrc laneW.chain x.a.toNat = true) ∧
    (srcOk chainedW.grid.desc y.a.toNat 1 = true ∧ srcOk chainedW.grid.desc y.b.toNat 1 = true ∧ chainedW.mayName y.d 1 ∧
      staleSrc chainedW.chain y.b.toNat = true ∧ ∀ l ∈ chainedW.lanes, ((chainedG.thread? l).map (·.st)) = some .running) :=
  ⟨⟨addMember_is _, addMember_ok _, rfl, laneIssues.who, laneIssues.grp, by decide +kernel, by decide +kernel,
      latches_of (by decide +kernel), by decide +kernel⟩,
    ⟨cmpMember_is _, cmpMember_ok _, rfl, chained_at.1, chained_at.2.1, by decide +kernel, by decide +kernel,
      latches_of (by decide +kernel), by decide +kernel⟩,
    by unfold Who.mayName; decide +kernel, by unfold Who.mayName; decide +kernel⟩

theorem witness_ChainEnd : let m := cmpMember false
    isMember m ∧ m.ok chainedW ∧ m.h = false ∧ chained.who = some chainedW ∧ chainedW.grp = some chainedG ∧
    chainedG.chain = some chainedC ∧ chainedC.lanes = maskOf chainedW.lanes ∧ chained.regPoison = [] ∧
    (∀ y ∈ chainedC.vw, y.lane ∈ chainedW.lanes) ∧ (∀ y ∈ chainedC.pw, y.lane ∈ chainedW.lanes) ∧
    (∀ y ∈ chainedC.flags, y.2 &&& chainedW.uni.te = 0) ∧
    ∀ q ∈ chainedW.on m.g, m.flags chainedW q.1 q.2 &&& chainedW.uni.te = 0 :=
  ⟨cmpMember_is _, cmpMember_ok _, rfl, chained_at.1, chained_at.2.1, chained_at.2.2, by decide +kernel⟩

theorem witness_FlagTraps : Issues lane laneW laneG ∧ lr.h = false ∧ lr.w = false ∧ laneW.grid.desc.vers = false ∧
    (laneW.mayRead lr.a 1 ∧ laneW.mayRead lr.b 1 ∧ laneW.mayName lr.d 1) ∧ ∀ q ∈ laneW.threads, q.2.st = .running :=
  ⟨laneIssues, rfl, rfl, by decide +kernel, lr_names, by decide +kernel⟩

/-- The state after every lane of the team of lanes 0 and 1 has come to one TRED.ADD. -/
def teamed : State :=
  lane.modLanes 0 0 [0, 1] fun l t =>
    { t with pc := 0x40, wait := .team ⟨.tredAdd ⟨0, false, 20, 2, 1, false⟩, true, BitVec.ofNat 64 (5 + l), 0, 0⟩ }
theorem teamed_some : ((teamed.block? 0).bind (·.group? 0)).isSome = true ∧ (teamed.block? 0).isSome = true := by decide +kernel
def teamedB : Block := (teamed.block? 0).get teamed_some.2
theorem teamedB_group : (teamedB.group? 0).isSome = true := by decide +kernel
def teamedG : Group := (teamedB.group? 0).get teamedB_group

theorem witness_TeamOperations : let x : Tred := ⟨0, false, 20, 2, 1, false⟩
    let y : Tshfl := ⟨0, 20, 2, 3, 1⟩
    let z : Ballot := ⟨0, false, 20, 1, 1, false⟩
    Issues lane laneW laneG ∧ (x.h = false ∧ laneW.mayRead x.a 2 ∧ laneW.mayName x.d 2 ∧ laneW.mayRead x.a 1 ∧ laneW.mayName x.d 1) ∧
    (laneW.mayRead y.a 1 ∧ laneW.mayName y.b 1 ∧ laneW.mayName y.d 1) ∧ (z.h = false ∧ laneW.mayName z.d 1) ∧
    teamed.regPoison = [] ∧ teamed.block? 0 = some teamedB ∧ teamedB.group? 0 = some teamedG ∧
    (∃ u o, teamedG.thread? 0 = some u ∧ u.teamWait = some o) ∧ teamedG.teamReady 0 = some [0, 1] ∧
    (∀ l ∈ [0, 1], (((teamedG.thread? l).bind (·.teamWait)).map (·.gctl)) = some 0) ∧
    ∀ l ∈ [0, 1], (teamResult (.tredAdd x) (FCtl.ofGctl 0) (teamedG.teamRow 0 2 [0, 1]) (l % 2)).2 &&&
      teamedG.uni.te = 0 :=
  ⟨laneIssues, ⟨rfl, by unfold Who.mayRead Who.mayName; decide +kernel⟩, by unfold Who.mayRead Who.mayName; decide +kernel,
    ⟨rfl, by unfold Who.mayName; decide +kernel⟩, by decide +kernel, (Option.some_get _).symm, (Option.some_get _).symm,
    ⟨_, _, rfl, rfl⟩, by decide +kernel, by decide +kernel⟩

theorem witness_TeamValues : let row : TeamRow := [some (5, 1), none]
    row.length ≤ 32 ∧ (∃ k, row.length = 2 ^ k) ∧ 0 < row.length ∧ row.getD 0 none = some (5, 1) ∧
    ∀ v ∈ row, ∀ y, v = some y → y.1.toNat < 2 ^ 32 :=
  ⟨by decide, ⟨1, rfl⟩, by decide, rfl, by
    intro v hv y hy
    simp at hv
    rcases hv with rfl | rfl <;> simp at hy
    subst hy
    decide⟩

-- Witnesses: branches, special registers, the uniform set.

theorem witness_CallsAndJumps : let x : LC := ⟨1, 20, -3⟩
    let y : Jmp := ⟨1, 10⟩
    let z : Jmp := ⟨1, 2⟩
    Issues lane laneW laneG ∧ laneW.mayName x.d 2 ∧ (laneW.mayRead y.a 2 ∧
      (∀ q ∈ laneW.on y.g, (readSrc64 laneW q.1 q.2 y.a.toNat).toNat % 4 = 0) ∧ laneW.pc % 4 = 0) ∧
    laneW.mayRead z.a 2 ∧ (∃ q ∈ laneW.on z.g, (readSrc64 laneW q.1 q.2 z.a.toNat).toNat % 4 ≠ 0) ∧
    ∀ q ∈ laneW.threads, q.2.st = .running :=
  ⟨laneIssues, by unfold Who.mayName; decide +kernel, ⟨by unfold Who.mayRead; decide +kernel, by decide +kernel,
    by decide +kernel⟩, by unfold Who.mayRead; decide +kernel, by decide +kernel, by decide +kernel⟩

theorem witness_SpecialReads : Issues lane laneW laneG ∧ laneW.mayName (20 : BitVec 6) 1 ∧ IssuesUni ctrl ctrlW ∧
    sOk ctrlW 20 1 1 = true ∧ sOk ctrlW 20 2 2 = true ∧ (sharedRegs[0]?.map (·.1) = some 0x001 ∧ sharedRegs[16]?.map (·.1) = some 0x045) ∧
    (threadRegs[0]?.map (·.1) = some 0x000 ∧ threadRegs[5]?.map (·.1) = some 0x033) ∧
    (sharedPairs.map (·.1) = [0x020, 0x024] ∧ threadPairs.map (·.1) = [0x031, 0x032]) ∧ laneW.mayName (20 : BitVec 6) 2 ∧
    IssuesUni lane laneW ∧ (sOk laneW 20 1 1 = true ∧ sOk laneW 20 2 2 = true) ∧ laneW.ctl = none ∧ ctrlW.ctl = some ctrlC ∧
    laneW.threads.map (·.1) = [0, 2] ∧ (ctrlW.blk.pair? ctrlW.rank ctrlW.quad).isSome = true :=
  ⟨laneIssues, by unfold Who.mayName; decide +kernel, ctrlUni, by decide +kernel, by decide +kernel, ⟨rfl, rfl⟩, ⟨rfl, rfl⟩,
    ⟨rfl, rfl⟩, by unfold Who.mayName; decide +kernel, laneUni, by decide +kernel, by decide +kernel, ctrl_isCtl.2,
    by decide +kernel, by decide +kernel⟩

theorem witness_SpecialWrites : IssuesUni ctrl ctrlW ∧ sOk ctrlW 20 1 1 = true ∧ (ctrlW.grp = none ∧ ctrlW.ctl = some ctrlC) ∧
    ctrlC.st = .running ∧ specialReg 0x10 = true :=
  ⟨ctrlUni, by decide +kernel, ctrl_isCtl, by decide +kernel, by decide +kernel⟩

theorem witness_ScalarResults : let x : UR := ⟨20, 8, 12, 1⟩
    let y : Sv2s := ⟨true, 20, 2, 31, 1⟩
    IssuesUni lane laneW ∧ IssuesUni ctrl ctrlW ∧ (sOk ctrlW x.d.toNat 1 1 = true ∧ sOk ctrlW x.a.toNat 1 1 = true ∧
      sOk ctrlW x.b.toNat 1 1 = true) ∧ (sOk ctrlW x.d.toNat 2 2 = true ∧ sOk ctrlW x.a.toNat 2 2 = true ∧
      sOk ctrlW x.b.toNat 2 2 = true) ∧ laneW.grp = some laneG ∧ laneW.uni.cget y.c.toNat = true ∧
    (laneG.thread? y.l.toNat).isSome = true ∧ y.p = true ∧ sOk laneW y.d.toNat 2 2 = true ∧ laneW.mayName y.a 2 ∧
    laneW.mayName y.a 1 ∧ sOk laneW y.d.toNat 1 1 = true ∧
    (laneG.thread? 31).map (fun th => (th.owes y.a.toNat 1 || laneG.chainWrites 31 y.a.toNat 1,
      th.owes y.a.toNat 2 || laneG.chainWrites 31 y.a.toNat 2)) = some (false, false) ∧
    (teamedG.thread? 0).map (fun th => th.owes 20 1) = some true ∧ { chainedG with chain := some { chainedC with vw := [⟨0, 20, 5⟩] } }.chainWrites 0 20 1 = true :=
  ⟨laneUni, ctrlUni, by decide +kernel, by decide +kernel, laneIssues.grp, by decide +kernel, by decide +kernel, rfl,
    by decide +kernel, by unfold Who.mayName; decide +kernel, by unfold Who.mayName; decide +kernel, by decide +kernel⟩

theorem witness_ScalarImmediates : let x : UI := ⟨20, 8, -1⟩
    let y : SShI := ⟨20, 8, 3, 31⟩
    IssuesUni ctrl ctrlW ∧ (sOk ctrlW x.d.toNat 1 1 = true ∧ sOk ctrlW x.a.toNat 1 1 = true) ∧
    sOk ctrlW y.d.toNat 1 1 = true ∧ sOk ctrlW y.a.toNat 1 1 = true :=
  ⟨ctrlUni, by decide +kernel, by decide +kernel, by decide +kernel⟩

theorem witness_ScalarConditionsAndFloat : let x : SCmp := ⟨true, 7, 7, 8, 12, 1⟩
    let y : SCop := ⟨3, 7, 0, 1, 1⟩
    let z : UR := ⟨20, 8, 12, 1⟩
    let v : SFCmp := ⟨3, 7, 8, 12, 1⟩
    let c := FCtl.ofGctl ctrlW.uni.gctl
    IssuesUni ctrl ctrlW ∧ (x.d ≠ 0 ∧ sOk ctrlW x.a.toNat 1 1 = true ∧ sOk ctrlW x.b.toNat 1 1 = true ∧
      sOk ctrlW x.a.toNat 2 2 = true ∧ sOk ctrlW x.b.toNat 2 2 = true ∧ ctrlW.uni.cget x.c.toNat = true) ∧ y.d ≠ 0 ∧
    (ctrlW.uni.cget z.c.toNat = true ∧ sOk ctrlW z.d.toNat 1 1 = true ∧ sOk ctrlW z.a.toNat 1 1 = true ∧
      sOk ctrlW z.b.toNat 1 1 = true ∧
      (fmtF32.add c (ctrlW.uni.sget z.a.toNat).toNat (ctrlW.uni.sget z.b.toNat).toNat).flags &&& ctrlW.uni.te = 0) ∧
    (sOk ctrlW z.d.toNat 2 2 = true ∧ sOk ctrlW z.a.toNat 2 2 = true ∧ sOk ctrlW z.b.toNat 2 2 = true ∧
      (fmtF64.mul c (ctrlW.uni.spair z.a.toNat).toNat (ctrlW.uni.spair z.b.toNat).toNat).flags &&& ctrlW.uni.te = 0) ∧
    (v.d ≠ 0 ∧ (fmtF32.compare c v.k.toNat (ctrlW.uni.sget v.a.toNat).toNat (ctrlW.uni.sget v.b.toNat).toNat).2 &&&
      ctrlW.uni.te = 0 ∧
      (fmtF64.compare c v.k.toNat (ctrlW.uni.spair v.a.toNat).toNat (ctrlW.uni.spair v.b.toNat).toNat).2 &&&
      ctrlW.uni.te = 0) :=
  ⟨ctrlUni, by decide +kernel, by decide, by decide +kernel, by decide +kernel, by decide +kernel⟩

theorem witness_Branches : let x : LB := ⟨1, true, -1⟩
    let y : UB := ⟨1, false, -1⟩
    let z : Ua := ⟨8, 1⟩
    Issues lane laneW laneG ∧ ¬(x.p = 0 ∧ x.i = true) ∧ (∀ l ∈ laneW.lanes, (laneG.thread? l).isSome) ∧
    IssuesUni ctrl ctrlW ∧ ¬(y.c = 0 ∧ y.i = true) ∧ sOk ctrlW 20 2 2 = true ∧
    sOk ctrlW z.a.toNat 2 2 = true ∧ (ctrlW.uni.spair z.a.toNat).toNat % 4 = 0 :=
  ⟨laneIssues, by decide, by decide +kernel, ctrlUni, by decide, by decide +kernel, by decide +kernel, by decide +kernel⟩

-- Witnesses: loads, stores and atomics.

/-- Decides that a pointer into a buffer passes its checks. -/
theorem bufferOk_of {s : State} {w : Who} {e : Eng} {op : Acc} {n : Nat} {p : DWord}
    (h : decide (s.checkAccess w.site e op p n = none ∧ (ptrSpace p = 1 ∨ ptrSpace p = 2 ∨ ptrSpace p = 4 ∨ ptrSpace p = 5)) = true) :
    s.bufferOk w e op n p := by
  have k := of_decide_eq_true h
  exact k

/-- The lanes that are on, with their threads, whose accesses pass the checks. -/
def mem : LM := ⟨1, 20, 10, 0, 1⟩
theorem lane_on : laneW.on 1 = (laneW.on 1).take 1 ∧ (laneW.on 1).length = 1 := by decide +kernel
theorem lane_on_some : (laneW.on 1)[0]?.isSome = true := by decide +kernel
def laneQ : Nat × Thread := (laneW.on 1)[0]?.get lane_on_some
theorem lane_on_eq : laneW.on 1 = [laneQ] := by decide +kernel

theorem witness_BufferLoads : Issues lane laneW laneG ∧ (lane.wq = {} ∧ lane.poison = [] ∧ laneW.blk.regions = []) ∧
    laneW.mayRead mem.a 2 ∧ laneW.mayName mem.d 4 ∧
    ∀ q ∈ laneW.on mem.g, lane.bufferOk laneW .lsu .read 16 (lanePtr laneW mem 16 q.1 q.2) ∧ q.2.inTask laneW.grid.desc = false :=
  ⟨laneIssues, by decide +kernel, by unfold Who.mayRead; decide +kernel,
    by unfold Who.mayName; decide +kernel, by
      rw [show mem.g = 1 from rfl, lane_on_eq]
      exact List.forall_mem_singleton.2 ⟨bufferOk_of (by decide +kernel), by decide +kernel⟩⟩

theorem witness_BufferStores : let x : Mcst := ⟨1, 20, 10⟩
    Issues lane laneW laneG ∧ (lane.wq = {} ∧ lane.poison = [] ∧ laneW.blk.regions = [] ∧ Memory.wf lane.mem = true) ∧
    laneW.mayRead mem.a 2 ∧ laneW.mayName mem.d 4 ∧
    (∀ q ∈ laneW.on mem.g, lane.bufferOk laneW .lsu .write 16 (lanePtr laneW mem 16 q.1 q.2) ∧ q.2.inTask laneW.grid.desc = false) ∧
    (laneW.mayRead x.a 2 ∧ laneW.mayName x.d 4) ∧
    ∀ q ∈ laneW.on x.g, lane.bufferOk laneW .lsu .write 16 (readSrc64 laneW q.1 q.2 x.a.toNat) ∧ q.2.inTask laneW.grid.desc = false :=
  ⟨laneIssues, by decide +kernel, by unfold Who.mayRead; decide +kernel, by unfold Who.mayName; decide +kernel, by
      rw [show mem.g = 1 from rfl, lane_on_eq]
      exact List.forall_mem_singleton.2 ⟨bufferOk_of (by decide +kernel), by decide +kernel⟩,
    by unfold Who.mayRead Who.mayName; decide +kernel, by
      rw [lane_on_eq]
      exact List.forall_mem_singleton.2 ⟨bufferOk_of (by decide +kernel), by decide +kernel⟩⟩

/-- What a look-up that answers p gives, found by evaluation. -/
theorem ok_of {α β ε : Type} [DecidableEq β] {s : α} {p : β} {r : α × Except ε β} (h : r.1 = s)
    (k : (match r.2 with
      | .ok q => decide (q = p)
      | .error _ => false) = true) : r = (s, .ok p) := by
  obtain ⟨a, b⟩ := r
  cases b with
  | ok q => simp_all
  | error e => simp at k

/-- A lane that points at VA 0x200 of the launch's page, its translation held. -/
def globBase : State := lane.modLanes 0 0 [0] fun _ t => { t with v := (t.v.set 10 0x200).set 11 0 }
theorem globBase_who : globBase.who.isSome = true := by decide +kernel
def glob : State := (globBase.globPlace (globBase.who.get globBase_who).site 0x204 false).1
theorem glob_who : glob.who.isSome = true := by decide +kernel
def globW : Who := glob.who.get glob_who
theorem glob_grp : globW.grp.isSome = true := by decide +kernel
def globG : Group := globW.grp.get glob_grp
theorem globIssues : Issues glob globW globG :=
  ⟨(Option.some_get _).symm, (Option.some_get _).symm, by decide +kernel, by decide +kernel⟩
theorem glob_on_some : (globW.on 1)[0]?.isSome = true := by decide +kernel
def globQ : Nat × Thread := (globW.on 1)[0]?.get glob_on_some

/-- A state whose lane 0 has the given pointer in v10:v11, in a grid and a block that `d` and `b` change, the translation of a VA
held. -/
def pointing (hi lo : Word) (va : Nat) (d : GridDesc → GridDesc) (b : Block → Block) : State :=
  let s : State := lane.modLanes 0 0 [0] fun _ t => { t with v := (t.v.set 10 lo).set 11 hi, item := some 3 }
  let s : State := { s with grids := s.grids.map fun g => { g with desc := d g.desc }, blocks := s.blocks.map b }
  match s.who with
  | some w => (s.globPlace w.site va false).1
  | none => s
/-- Whether an address stands at an HBM place, its translation held. -/
def standsAt (s : State) (x : Site) (va : Nat) (priv : Bool) (k : Nat) : Bool :=
  match s.globPlace x va priv with
  | (t, .ok p) => decide (t = s) && p == .glob k [] 0 priv
  | _ => false
/-- What statements about one lane's access with `mem` ask beside its pointer. -/
def oneLane (s : State) (w : Who) : Bool :=
  decide (s.wq = {} ∧ s.poison = [] ∧ (s.coreHw w.core).wps = [] ∧ vOk w.grid.desc 20 4 = true ∧ Memory.wf s.mem = true ∧
    (w.on mem.g).map (·.1) = [0] ∧ (s.coreHw w.core).l1 = [] ∧ 0 < s.l1Ways w.core (s.ctxFn w.ctx) ∧
    srcOk w.grid.desc 10 2 = true ∧ s.pend w.blk.id w.rank = [] ∧ w.rank < w.blk.doms.length ∧ w.blk.regions = [])
/-- What they ask of the pointer of the lane that is on. -/
def onLane (w : Who) (n : Nat) (f : Nat → Thread → DWord → Bool) : Bool :=
  (w.on mem.g).all fun q => f q.1 q.2 (lanePtr w mem n q.1 q.2)
def privS : State := pointing 0x60000000 0x200 0x204 id fun b => { b with priv := some 0 }

theorem witness_GlobalAccess : let p := lanePtr globW mem 4 globQ.1 globQ.2
    Issues glob globW globG ∧ (glob.wq = {} ∧ glob.poison = [] ∧ (glob.coreHw globW.core).wps = [] ∧
    (∀ l ∈ (glob.coreHw globW.core).l1, l.line ≠ 0x20204 / 128 ∧ (l.keep = true → l.dom = none)) ∧
    ((glob.coreHw globW.core).l1.filter (L1Line.inSet (glob.ctxFn globW.ctx) (0x20204 / 128))).length <
      glob.l1Ways globW.core (glob.ctxFn globW.ctx) ∧
    (∀ p ∈ glob.pend globW.blk.id globW.rank, p.bad = false) ∧ globW.rank < globW.blk.doms.length) ∧
    globW.mayRead mem.a 2 ∧ (globW.on mem.g = [globQ] ∧ globQ.2.inTask globW.grid.desc = false) ∧ globW.mayName mem.d 1 ∧
    (ptrSpace p = 0 ∧ glob.checkAccess globW.site .lsu .read p 4 = none ∧ glob.checkAccess globW.site .lsu .write p 4 = none) ∧
    glob.globPlace globW.site (ptrOff p) false = (glob, .ok (.glob 0x20204 [] 0 false)) ∧
    ∃ w g, Issues privS w g ∧ oneLane privS w = true ∧ onLane w 4 (fun l th p => ptrSpace p == 6 && !th.inTask w.grid.desc &&
      (privS.checkAccess w.site .lsu .write p 4).isNone && (privS.checkAccess w.site .lsu .read p 4).isNone &&
      standsAt privS w.site (w.blk.priv.getD 0 + (g.num * 32 + l) * 2 ^ 16 + ptrOff p % 2 ^ 16) true 0x20204) = true :=
  ⟨globIssues, by decide +kernel, by unfold Who.mayRead; decide +kernel, by decide +kernel,
    by unfold Who.mayName; decide +kernel, by decide +kernel, ok_of (by decide +kernel) (by decide +kernel),
    issues_of (by decide +kernel)⟩

/-- CB containers of bank 0; zeros beyond the argument block and in no bank; a byte of the bank and one of the block; a task's
store with and without a version way left. -/
def cellS : State := pointing 0x30000000 0x100 0 id fun b => { b with cb := [(0, 0)] }
def constS (off : Word) (bank : Bool) : State :=
  pointing 0x70000000 off (if bank then 0x211 else 0x305)
    (fun d => { d with constPtr := if bank then 0x200 else 0, argPtr := 0x300, argLen := 16 }) id
def taskS (ways : Word) : State :=
  let s := pointing 0 0x200 0x204 (fun d => { d with vers := true }) id
  { s with dies := [(0, { vsctl := ways })] }

theorem witness_CellAndTaskStores :
    (∃ w g, Issues cellS w g ∧ oneLane cellS w = true ∧ onLane w 16 (fun _ th p => ptrSpace p == 3 && !th.inTask w.grid.desc &&
      (cellS.checkAccess w.site .lsu .write p 16).isNone && (cellS.checkAccess w.site .lsu .read p 16).isNone) = true) ∧
    (∃ w g, Issues (constS 0x100C false) w g ∧ oneLane (constS 0x100C false) w = true ∧
      onLane w 4 (fun _ th p => ptrSpace p == 7 && !th.inTask w.grid.desc && decide (ptrOff p + 4 ≤ 0x10000) &&
        ((constS 0x100C false).checkAccess w.site .lsu .read p 4).isNone && w.grid.desc.constPtr == 0) = true) ∧
    (∃ w g, Issues (constS 0x1000C true) w g ∧ oneLane (constS 0x1000C true) w = true ∧
      onLane w 4 (fun _ _ p => decide (0x10000 + w.grid.desc.argLen ≤ ptrOff p) &&
        ((constS 0x1000C true).checkAccess w.site .lsu .read p 4).isNone) = true) ∧
    (∃ w g, Issues (constS 0x10 true) w g ∧ oneLane (constS 0x10 true) w = true ∧
      onLane w 1 (fun _ _ p => ptrSpace p == 7 && ((constS 0x10 true).checkAccess w.site .lsu .read p 1).isNone &&
        decide (ptrOff p < 0x10000) && w.grid.desc.constPtr != 0 &&
        standsAt (constS 0x10 true) w.site (w.grid.desc.constPtr % 2 ^ 56 + ptrOff p) false 0x20211) = true) ∧
    (∃ w g, Issues (constS 0x10004 false) w g ∧ oneLane (constS 0x10004 false) w = true ∧
      onLane w 1 (fun _ _ p => ptrSpace p == 7 && ((constS 0x10004 false).checkAccess w.site .lsu .read p 1).isNone &&
        decide (0x10000 ≤ ptrOff p) && decide (ptrOff p - 0x10000 < w.grid.desc.argLen) &&
        standsAt (constS 0x10004 false) w.site (w.grid.desc.argPtr % 2 ^ 56 + (ptrOff p - 0x10000)) false 0x20305) = true) ∧
    [(4, true), (0, false)].all (fun e =>
      match (taskS e.1).who.bind fun w => w.grp.map fun g => (w, g) with
      | some (w, g) => decide (g.chain = none ∧ (taskS e.1).regPoison = []) && oneLane (taskS e.1) w &&
        onLane w 4 fun l th p => ptrSpace p == 0 && th.inTask w.grid.desc &&
          ((taskS e.1).checkAccess w.site .lsu .write p 4).isNone && !(taskS e.1).versLost ⟨w.blk.id, g.num, l⟩ &&
          standsAt (taskS e.1) w.site (ptrOff p) false 0x20204 && (taskS e.1).versRoom ⟨w.blk.id, g.num, l⟩ 0x20204 == e.2
      | none => false) = true :=
  ⟨issues_of (by decide +kernel), issues_of (by decide +kernel), issues_of (by decide +kernel), issues_of (by decide +kernel),
    issues_of (by decide +kernel), by decide +kernel⟩

/-- Each outcome of the checks of a GLOBAL pointer, at the ends of the page; and a store of lanes that all break the alignment. -/
theorem witness_AccessFaults : let c := fun (p : DWord) => globBase.checkAccess (globBase.who.get globBase_who).site .lsu .write p 4
    let x : LM := ⟨1, 20, 2, 0, 0⟩
    (c 0 = none ∧ c 0xFFC = none) ∧ (c 0x1000 = some .leaseViolation ∧ c 0x2 = some .alignment ∧ c 0x1002 = some .alignment) ∧
    c 0x0100000000000000 = some .spaceFault ∧
    Issues lane laneW laneG ∧ (laneW.mayRead x.a 2 ∧ laneW.mayName x.d 1) ∧
    ∀ q ∈ laneW.on x.g, lane.checkAccess laneW.site .lsu .write (lanePtr laneW x 4 q.1 q.2) 4 = some .alignment ∧
      q.2.st = .running :=
  ⟨by decide +kernel, by decide +kernel, by decide +kernel, laneIssues, by unfold Who.mayRead Who.mayName; decide +kernel,
    by decide +kernel⟩

/-- CAS on 32 bits and on 64 in AB. -/
theorem witness_LaneAtomics : let x : Atm := ⟨1, 20, 10, 24, 7⟩
    let y : Atm := ⟨1, 20, 10, 25, 7⟩
    let p := readSrc64 laneW laneQ.1 laneQ.2 x.a.toNat
    Issues lane laneW laneG ∧ (lane.wq = {} ∧ lane.poison = [] ∧ laneW.blk.regions = [] ∧ Memory.wf lane.mem = true ∧
    lane.pend laneW.blk.id laneW.rank = []) ∧ laneW.mayRead x.a 2 ∧ laneW.on x.g = [laneQ] ∧
    laneQ.2.inTask laneW.grid.desc = false ∧ (laneW.mayName x.d 1 ∧ laneW.mayName y.d 2) ∧
    (vOk laneW.grid.desc (x.b.toNat / 2 * 2) 2 = true ∧ vOk laneW.grid.desc (y.b.toNat / 2 * 2) 4 = true) ∧
    lane.bufferOk laneW .lsu .atomic 4 p ∧ lane.bufferOk laneW .lsu .atomic 8 p :=
  ⟨laneIssues, by decide +kernel, by unfold Who.mayRead; decide +kernel, lane_on_eq, by decide +kernel, by unfold Who.mayName; decide +kernel, by decide +kernel, bufferOk_of (by decide +kernel),
    bufferOk_of (by decide +kernel)⟩

theorem witness_UniformAccess : let x : UI := ⟨20, 8, 1⟩
    let y : SAtm := ⟨7, 20, 8, 12, 1⟩
    let z : SAtm := ⟨7, 20, 8, 13, 1⟩
    let p := fun (n : Nat) => ptrAdd (ctrlW.uni.spair x.a.toNat) (x.i.toInt * n)
    IssuesUni ctrl ctrlW ∧ (ctrl.wq = {} ∧ ctrl.poison = [] ∧ ctrlW.blk.regions = [] ∧ Memory.wf ctrl.mem = true ∧
    ctrl.pend ctrlW.blk.id ctrlW.rank = [] ∧ (sOk ctrlW x.a.toNat 2 2 = true ∧ sOk ctrlW x.d.toNat 2 2 = true ∧
      sOk ctrlW x.d.toNat 1 1 = true)) ∧ ctrl.bufferOk ctrlW .ctl .read 8 (p 8) ∧ ctrl.bufferOk ctrlW .ctl .write 4 (p 4) ∧
    (ctrlW.uni.cget y.c.toNat = true ∧ y.b.getLsbD 0 = false ∧ sOk ctrlW y.b.toNat 2 2 = true) ∧
    ctrl.bufferOk ctrlW .ctl .atomic 4 (ctrlW.uni.spair y.a.toNat) ∧
    (z.b.getLsbD 0 = true ∧ sOk ctrlW (z.b.toNat / 2 * 2) 4 4 = true ∧ sOk ctrlW z.d.toNat 2 2 = true) ∧
    ctrl.bufferOk ctrlW .ctl .atomic 8 (ctrlW.uni.spair z.a.toNat) :=
  ⟨ctrlUni, by decide +kernel, bufferOk_of (by decide +kernel), bufferOk_of (by decide +kernel), by decide +kernel,
    bufferOk_of (by decide +kernel), by decide +kernel, bufferOk_of (by decide +kernel)⟩

-- Witnesses: convergence, barriers, refill, waits.

/-- `lane` with one liveness record, a soft pre-emption pending and two lines in the core's L1. -/
def syncS : State :=
  { lane with
    grids := lane.grids.map fun g => { g with desc := { g.desc with recs := 1 } },
    blocks := lane.blocks.map fun b => { b with pre := .soft 1000 },
    cores := tabSet lane.cores 0 { l1 := [{ ctx := 1, fn := 0, line := 7, bytes := [] }, { ctx := 1, fn := 0, line := 8, bytes := [], ro := true }] } }
theorem sync_who : syncS.who.isSome = true := by decide +kernel
def syncW : Who := syncS.who.get sync_who
theorem sync_grp : syncW.grp.isSome = true := by decide +kernel
def syncG : Group := syncW.grp.get sync_grp
theorem syncIssues : Issues syncS syncW syncG :=
  ⟨(Option.some_get _).symm, (Option.some_get _).symm, by decide +kernel, by decide +kernel⟩

theorem witness_SyncIssue : Issues syncS syncW syncG ∧ syncS.wq = {} ∧ syncS.recordOk syncW 0 = true :=
  ⟨syncIssues, rfl, by decide +kernel⟩

/-- Group 0 of the boot block with every thread changed. -/
def withThreads (f : Nat → Thread → Thread) : State := lane.modLanes 0 0 (List.range 32) f
/-- What `withThreads` makes of group 0. -/
def groupOf (f : Nat → Thread → Thread) : Group := laneG.modLanes (List.range 32) f

/-- A domain with one pending byte. -/
def pending : State :=
  { withThreads fun _ t => { t with wait := .close } with
    blocks := (withThreads fun _ t => { t with wait := .close }).blocks.map fun b => { b with doms := [[{ key := 0x20300, val := 7, copies := [], at_ := 0 }]] } }

/-- A thread at FENCE.SYS, and a thread at PHASE.CLOSE over a pending byte. -/
theorem fence_waits : let g := groupOf fun l t =>
      { t with wait := if l < 2 then .fence else t.wait, st := if l < 2 then TState.running else .drained }
    ∃ th, g.thread? 1 = some th ∧ th.wait = .fence := ⟨_, rfl, rfl⟩
theorem close_waits : ∃ th, (groupOf fun _ t => { t with wait := .close }).thread? 0 = some th ∧ th.wait = .close :=
  ⟨_, rfl, rfl⟩
theorem pending_block : ∃ blk, pending.block? 0 = some blk ∧ blk.regions = [] := ⟨_, rfl, rfl⟩

theorem witness_Releases : let at_ := fun (w : Wait) (l : Nat) (t : Thread) =>
      { t with wait := if l < 2 then w else t.wait, st := if l < 2 then TState.running else .drained }
    ((withThreads (at_ .join)).group? 0 0 = some (groupOf (at_ .join)) ∧ (groupOf (at_ .join)).joinReady = true) ∧
    ((withThreads (at_ .gbar)).group? 0 0 = some (groupOf (at_ .gbar)) ∧ (groupOf (at_ .gbar)).gbarReady = false) ∧
    ((∀ f, (withThreads f).wq = {}) ∧ pending.wq = {}) ∧
    (∃ f, (withThreads f).group? 0 0 = some (groupOf f) ∧ (groupOf f).gbarReady = true) ∧
    ((withThreads (at_ .fence)).group? 0 0 = some (groupOf (at_ .fence)) ∧
      (∃ th, (groupOf (at_ .fence)).thread? 1 = some th ∧ th.wait = .fence) ∧
      ∀ u ∈ (withThreads (at_ .fence)).blocks, u.regions = [] ∧ u.committing = []) ∧
    (pending.group? 0 0 = some (groupOf fun _ t => { t with wait := .close }) ∧
      (∃ th, (groupOf fun _ t => { t with wait := .close }).thread? 0 = some th ∧ th.wait = .close) ∧
      (∃ blk, pending.block? 0 = some blk ∧ blk.regions = []) ∧ Memory.wf pending.mem = true ∧
      (∀ y ∈ pending.pend 0 0, y.copies = []) ∧ ((pending.pend 0 0).map (·.key)).Nodup) :=
  let gb : ∃ f, (withThreads f).group? 0 0 = some (groupOf f) ∧ (groupOf f).gbarReady = true :=
    ⟨fun _ t => { t with wait := .gbar, pc := 0x40 }, by decide +kernel⟩
  ⟨by decide +kernel, by decide +kernel, ⟨fun _ => rfl, rfl⟩, gb, ⟨by decide +kernel, fence_waits, by decide +kernel⟩,
    by decide +kernel, close_waits, pending_block, by decide +kernel⟩

/-- `lane` where stores are held; with lane 0's 16 bytes at the place its load names waiting; and lane 1 at FENCE.SYS. -/
def heldAt : Nat := lane.bufKey laneW laneG.num laneQ.1 (lanePtr laneW mem 16 laneQ.1 laneQ.2)
def heldStore : HeldStore := { owner := .frag 0 0 1, ctx := 1, fn := 0, cls := 0, cells := [(heldAt, List.replicate 16 7)] }
def heldMcst : HeldStore := { heldStore with copies := [[(heldAt + 2 ^ 30, List.replicate 16 7)]] }
def queueing (l : List HeldStore) : State := { lane with wq := { hold := true, stores := l } }
def fenced : State :=
  { withThreads fun l t => if l = 1 then { t with wait := .fence, pc := 0x40 } else t with wq := { stores := [heldStore] } }
theorem fencedIssues : ∃ w g, Issues fenced w g ∧ (∃ th, g.thread? 1 = some th ∧ th.wait = .fence) ∧
    fenced.group? w.blk.id g.num = some g ∧ fenced.grid? w.blk.grid = some w.grid := by
  obtain ⟨w, g, h, k⟩ := issues_of (s := fenced) (P := fun w g => ((g.thread? 1).map fun u => u.wait) = some .fence ∧
    fenced.group? w.blk.id g.num = some g ∧ fenced.grid? w.blk.grid = some w.grid) (by decide +kernel)
  exact ⟨w, g, h, by simpa using k.1, k.2⟩
theorem queueing_issues (l : List HeldStore) : Issues (queueing l) laneW laneG :=
  ⟨laneIssues.who, laneIssues.grp, laneIssues.chain, laneIssues.clean⟩

theorem witness_StoreOrdering :
    (Issues (queueing []) laneW laneG ∧ (queueing []).wq = { hold := true } ∧ laneW.blk.regions = [] ∧ laneW.mayRead mem.a 2 ∧ laneW.mayName mem.d 4 ∧
      laneW.on mem.g = [laneQ] ∧ laneQ.2.inTask laneW.grid.desc = false ∧
      (queueing []).bufferOk laneW .lsu .write 16 (lanePtr laneW mem 16 laneQ.1 laneQ.2)) ∧
    (Issues (queueing [heldStore]) laneW laneG ∧ (queueing [heldStore]).wq = { hold := true, stores := [heldStore] } ∧ (queueing [heldStore]).poison = [] ∧ Memory.wf (queueing [heldStore]).mem = true ∧
      (queueing [heldStore]).bufferOk laneW .lsu .read 16 (lanePtr laneW mem 16 laneQ.1 laneQ.2) ∧
      (queueing [heldStore]).bufKey laneW laneG.num laneQ.1 (lanePtr laneW mem 16 laneQ.1 laneQ.2) = heldAt ∧
      heldStore.owner = .frag laneW.blk.id laneG.num (maskOf [laneQ.1])) ∧
    (placeCls heldAt ≠ clsP ∧ heldStore.overlaps heldAt 16 = true ∧
      (queueing [heldStore, heldStore]).wq.stores[1]? = some heldStore ∧ (queueing [heldMcst]).wq.stores[0]? = some heldMcst ∧
      heldMcst.begun = false ∧ heldMcst.copies ≠ []) ∧
    ∃ w g, Issues fenced w g ∧ (∃ th, g.thread? 1 = some th ∧ th.wait = .fence) ∧
      fenced.group? w.blk.id g.num = some g ∧ fenced.grid? w.blk.grid = some w.grid :=
  ⟨⟨queueing_issues _, rfl, by decide +kernel, by unfold Who.mayRead; decide +kernel, by unfold Who.mayName; decide +kernel, lane_on_eq,
      by decide +kernel, bufferOk_of (by decide +kernel)⟩,
    ⟨queueing_issues _, rfl, rfl, by decide +kernel, bufferOk_of (by decide +kernel), by decide +kernel, by decide +kernel⟩,
    ⟨by decide +kernel, by decide +kernel, rfl, rfl, rfl, by decide +kernel⟩,
    fencedIssues⟩

/-- Lane 1 waits at barrier 15 with an arrival of an instance that is over. -/
def departing : State :=
  { withThreads fun l t => if l = 1 then { t with wait := .bar 15, arr := t.arr.set 15 (some 0) } else t with
    blocks := (withThreads fun l t => if l = 1 then { t with wait := .bar 15, arr := t.arr.set 15 (some 0) } else t).blocks.map
      fun b => { b with bars := b.bars.set 15 ⟨1, [0], [false]⟩ } }

theorem witness_BlockBarriers : let n := 15
    (lane.wq = {} ∧ departing.wq = {}) ∧
    (∃ bar, laneW.blk.bars[n]? = some bar ∧ laneG.num < bar.masks.length ∧ laneG.num < bar.arrived.length) ∧ Issues lane laneW laneG ∧
    laneW.badArrivals n = [] ∧ laneW.noArrival n = laneW.lanes ∧ (∀ q ∈ laneW.threads, q.2.st = .running) ∧
    (∃ (s : State) (w : Who) (g : Group), Issues s w g ∧ w.noArrival n = [] ∧ s.wq = {}) ∧
    ∃ (b : Block) (g : Group) (th : Thread), departing.block? 0 = some b ∧ b.group? 0 = some g ∧ g.thread? 1 = some th ∧
      th.wait = .bar n ∧ b.departs n th = true := by
  exact ⟨⟨rfl, rfl⟩, ⟨_, rfl, by decide +kernel⟩, laneIssues, by decide +kernel, by decide +kernel, by decide +kernel,
    ⟨withThreads fun _ t => { t with arr := t.arr.set 15 (some 0) }, issues_of (by decide +kernel)⟩,
    ⟨_, _, _, rfl, rfl, rfl, rfl, by decide +kernel⟩⟩

/-- Every thread parked; and a versioned launch whose lane 0 has stored one byte and waits for its commit. -/
def parked : State := withThreads fun _ t => { t with st := .parked, item := none }
def committing : State :=
  { withThreads fun l t => if l = 0 then { t with wait := .commit false, item := some 3 } else t with
    versions := [⟨1, ⟨0, 0, 0⟩, 0, 0x20300 / 128, [(0x20301, 9)], false⟩] }

theorem witness_RefillAndExit : Issues lane laneW laneG ∧ laneW.grid.desc.refillSite = some laneW.pc ∧
    (∃ (s : State) (w : Who) (g : Group), Issues s w g ∧ w.grid.desc.refillSite ≠ some w.pc ∧ ∀ q ∈ w.threads, q.2.st = .running) ∧
    (∃ th, committing.thread? ⟨0, 0, 0⟩ = some th ∧ th.wait = .commit false ∧ committing.versLost ⟨0, 0, 0⟩ = false ∧
      committing.wq = {} ∧ Memory.wf committing.mem = true ∧
      (((committing.versions.filter fun v => v.tag == (⟨0, 0, 0⟩ : ThreadRef)).flatMap fun v => v.bytes).map (·.1)).Nodup) ∧
    ∃ (b : Block) (gr : Grid) (g : Group), parked.block? 0 = some b ∧ parked.grid? b.grid = some gr ∧ b.group? 0 = some g ∧
      b.refillReady g gr.desc.unit 31 ≠ [] ∧ parked.wq.late = [] := by
  exact ⟨laneIssues, by decide +kernel, ⟨{ lane with cur := .frag 0 0 2 }, issues_of (by decide +kernel)⟩,
    ⟨_, rfl, by decide +kernel⟩, ⟨_, _, _, rfl, rfl, rfl, by decide +kernel⟩⟩

/-- `ctrl` with one completion counted on k15, of status `st`. -/
def counted (st : Nat) (x : Wait) : State :=
  (ctrl.modPair 0 0 0 fun p => { p with
    k := p.k.set 15 1, log := [⟨4, 15, 1, 0, 0, st, if st = 2 then 0x0F else 0, 0x77, 0, none, [], [], 0⟩] }).modCtl 0 0 0
    fun c => { c with wait := x }

/-- WAITC on k15 that waits (s13 is 5), one that is satisfied (s17 is 1), one that becomes so, and one that faults. -/
theorem witness_CompletionWaits : (∀ n x, (counted n x).wq = {}) ∧ let sel := fun (q : DoneOp) => q.counter == 15 && counterReached 1 (BitVec.ofNat 32 q.count)
    (∃ w c p, IssuesUni (counted 0 .none) w ∧ w.grp = none ∧ w.ctl = some c ∧ (counted 0 .none).pair? w.blk.id w.rank w.quad = some p ∧
      sOk w 13 1 1 = true ∧ (p.k.getD 15 0 - w.uni.sget 13).toInt < 0) ∧
    (∃ w c p, IssuesUni (counted 0 .none) w ∧ w.grp = none ∧ w.ctl = some c ∧ (counted 0 .none).pair? w.blk.id w.rank w.quad = some p ∧
      sOk w 17 1 1 = true ∧ w.uni.sget 17 = 1 ∧ 0 ≤ (p.k.getD 15 0 - w.uni.sget 17).toInt ∧
      (counted 0 .none).observed w sel ≠ [] ∧ (counted 0 .none).joinRaises w sel = none ∧
      ∀ q ∈ (counted 0 .none).observed w sel, q.foot = []) ∧
    (∃ w, State.who { counted 0 (.waitc 15 1) with cur := .ctl 0 0 0 } = some w ∧ w.wait = .waitc 15 1 ∧
      w.standsAt (.waitc 15 1) = true ∧ (counted 0 (.waitc 15 1)).waitcDone w 15 1 = true ∧
      (counted 0 (.waitc 15 1)).joinRaises w sel = none ∧ ∀ q ∈ (counted 0 (.waitc 15 1)).observed w sel, q.foot = []) ∧
    ∃ w c p, IssuesUni (counted 2 .none) w ∧ w.grp = none ∧ w.ctl = some c ∧ (counted 2 .none).pair? w.blk.id w.rank w.quad = some p ∧
      c.st = .running ∧ sOk w 17 1 1 = true ∧ (counted 2 .none).waitcDone w 15 (w.uni.sget 17) = true ∧
      ((counted 2 .none).joinRaises w fun q => q.counter == 15 && counterReached (w.uni.sget 17) (BitVec.ofNat 32 q.count)).isSome :=
  ⟨fun _ _ => rfl, ctl_of (by decide +kernel), ctl_of (by decide +kernel), opt_of (by decide +kernel), ctl_of (by decide +kernel)⟩

-- Witnesses: traps, the SYS functions, queues, engine commands.

/-- `lane` and `ctrl` inside a handler. -/
def laneTrapped (nest : Bool) : State :=
  lane.modLanes 0 0 (List.range 32) fun _ t =>
    { t with st := .trapped, trap := { tcause := if nest then 0x0A + 2 ^ 18 else 0x09, resume := 0x44 } }
def ctrlTrapped (nest : Bool) : State :=
  ctrl.modCtl 0 0 0 fun c => { c with st := .trapped, trap := { tcause := if nest then 0x0A + 2 ^ 18 else 0x09, resume := 0x44 } }

theorem witness_TrapAndReturn : (Issues lane laneW laneG ∧ laneW.grid.desc.vers = false ∧ ∀ q ∈ laneW.threads, q.2.st = .running) ∧
    (∃ w g, Issues (laneTrapped false) w g ∧ w.uni.cget 1 = true ∧ (∀ q ∈ w.threads, q.2.st = .trapped) ∧
      ∀ q ∈ w.threads, (q.2.trap.nest || q.2.trap.itemEnd) = false) ∧
    (∃ w g, Issues (laneTrapped true) w g ∧ w.uni.cget 1 = true ∧ (∀ q ∈ w.threads, q.2.st = .trapped) ∧
      ∀ q ∈ w.threads, q.2.trap.nest = true) ∧
    (∃ w c p, IssuesUni (ctrlTrapped true) w ∧ w.grp = none ∧ w.ctl = some c ∧
      (ctrlTrapped true).pair? w.blk.id w.rank w.quad = some p ∧ w.uni.cget 1 = true ∧ c.st = .trapped ∧ c.trap.nest = true) ∧
    ∃ w c p, IssuesUni ctrl w ∧ w.grp = none ∧ w.ctl = some c ∧ ctrl.pair? w.blk.id w.rank w.quad = some p ∧
      w.uni.cget 1 = true ∧ c.st = .running :=
  ⟨⟨laneIssues, by decide +kernel, by decide +kernel⟩, issues_of (by decide +kernel), issues_of (by decide +kernel),
    ctl_of (by decide +kernel), ctl_of (by decide +kernel)⟩

/-- A control thread whose deadline has come. -/
def deadline : State := ctrl.modCtl 0 0 0 fun c => { c with uni := { c.uni with gtimer := 100, deadline := 100 } }

theorem witness_SystemFunctions : (∃ w c p, IssuesUni ctrl w ∧ w.grp = none ∧ w.ctl = some c ∧
      ctrl.pair? w.blk.id w.rank w.quad = some p ∧ w.uni.cget 1 = true ∧ sOk w 17 1 1 = true ∧ sOk w 8 2 2 = true) ∧
    ∃ (blk : Block) (gr : Grid) (c : Ctl), deadline.block? 0 = some blk ∧ deadline.grid? blk.grid = some gr ∧
      blk.ctl? 0 0 = some c ∧ c.st = .running ∧ c.uni.deadline ≠ 0 ∧ c.uni.deadline.toNat ≤ c.uni.gtimer.toNat :=
  ⟨ctl_of (by decide +kernel), ⟨_, _, _, rfl, rfl, rfl, rfl, by decide +kernel⟩⟩

/-- The pair's decision queue set. -/
def queued (s : State) (q : List DWord) : State := s.modPair 0 0 0 fun p => { p with dq := q }
/-- A control thread beside lanes that wait in DQ.POP. -/
def popping : State := ctrl.modLanes 0 0 [1, 3] fun _ t => { t with wait := .dqPop 2 20 }

theorem witness_DecisionQueue :
    (∃ w c p, IssuesUni (queued ctrl (List.replicate 63 7)) w ∧ w.grp = none ∧ w.ctl = some c ∧
      (queued ctrl (List.replicate 63 7)).pair? w.blk.id w.rank w.quad = some p ∧ w.uni.cget 1 = true ∧ sOk w 8 2 2 = true ∧
      w.blk.oldestPop w.rank w.quad = none ∧ p.dq.length < 64) ∧
    (∃ w c p, IssuesUni (queued ctrl (List.replicate 64 7)) w ∧ w.grp = none ∧ w.ctl = some c ∧
      (queued ctrl (List.replicate 64 7)).pair? w.blk.id w.rank w.quad = some p ∧ w.blk.oldestPop w.rank w.quad = none ∧
      64 ≤ p.dq.length) ∧
    (∃ w c p, IssuesUni popping w ∧ w.grp = none ∧ w.ctl = some c ∧ popping.pair? w.blk.id w.rank w.quad = some p ∧
      w.blk.oldestPop w.rank w.quad = some (0, [1, 3], 20) ∧ (w.blk.group? 0).isSome) ∧
    (∃ w g, Issues (queued lane [7, 8]) w g ∧ w.uni.cget 1 = true ∧ sOk w 20 2 2 = true ∧
      ((queued lane [7, 8]).pair? w.blk.id w.rank w.quad).map (·.dq) = some [7, 8]) ∧
    ∃ w g, Issues (queued lane []) w g ∧ ((queued lane []).pair? w.blk.id w.rank w.quad).map (·.dq) = some [] :=
  ⟨ctl_of (by decide +kernel), ctl_of (by decide +kernel), ctl_of (by decide +kernel), issues_of (by decide +kernel),
    issues_of (by decide +kernel)⟩

/-- A control thread with one record in its event queue, of a completion of status 0. -/
def evented : State :=
  (counted 0 .none).modPair 0 0 0 fun p => { p with evq := [(4, [1, 2, 3, 4, 5, 6, 7, 8])] }

theorem witness_EventQueue : (evented.wq = {} ∧ ctrl.wq = {}) ∧ (∃ w c p, IssuesUni evented w ∧ w.grp = none ∧ w.ctl = some c ∧
      evented.pair? w.blk.id w.rank w.quad = some p ∧ w.uni.cget 1 = true ∧ sOk w 24 8 8 = true ∧
      p.evq = (4, [1, 2, 3, 4, 5, 6, 7, 8]) :: [] ∧ evented.joinRaises w (fun q => q.id == 4) = none ∧
      ∀ q ∈ evented.observed w (fun q => q.id == 4), q.foot = []) ∧
    ∃ w c p, IssuesUni ctrl w ∧ w.grp = none ∧ w.ctl = some c ∧ ctrl.pair? w.blk.id w.rank w.quad = some p ∧ p.evq = [] :=
  ⟨⟨rfl, rfl⟩, ctl_of (by decide +kernel), ctl_of (by decide +kernel)⟩

/-- A control thread whose s32 to s44 hold a copy of 16 bytes from AB to AB, s56 to s59 a signal's pointer to GLOBAL and value, and
s48 a walk of one copy record with no patch. -/
def copying : State :=
  let regs : List Word := (List.range 64).map fun r =>
    if r = 33 ∨ r = 41 then 0x10000000 else if r = 32 then 0x100 else if r = 40 then 0x400 else if r = 43 then 16
    else if r = 44 then 1 else if r = 48 then 0xB0600000 else if r = 56 then 0x800 else if r = 58 then 3 else 0
  ctrl.modCtl 0 0 0 fun c => { c with uni := { c.uni with s := regs } }
/-- A control thread that stalls on a permit for an ALLOC. -/
def stalledOp : EngOp := ctrlW.op .acc 3 (.alloc 1)
def stalled : State := ctrl.modCtl 0 0 0 fun c => { c with wait := .permit stalledOp }
/-- The operations of a full queue. -/
def fullAcc : List EngOp := (List.range 32).map fun i => { stalledOp with id := i, kind := .alloc 2 }

theorem witness_EngineCommands : (copying.wq = {} ∧ stalled.wq = {}) ∧ let here := fun (w : Who) => BitVec.ofNat 64 w.pc
    (∃ w c p, IssuesUni copying w ∧ w.grp = none ∧ w.ctl = some c ∧ copying.pair? w.blk.id w.rank w.quad = some p ∧
      copying.pend w.blk.id w.rank = [] ∧
      (sOk w 44 1 1 = true ∧ copying.allocFault w.site (w.block 44 1) (here w) = none ∧
        copying.opPermit (w.op .acc 0x1FF (.alloc 1)) = true ∧ copying.stalls w.blk.id w.rank w.quad = []) ∧
      (sOk w 56 4 1 = true ∧ copying.signalFault w.site (w.block 56 4) (here w) = none) ∧
      (sOk w 32 6 1 = true ∧ sOk w 40 5 1 = true ∧
        copying.copyFault w.site (copyDesc 3 (w.block 32 6 ++ w.block 40 5) 0 6) (blkWord (w.block 32 6 ++ w.block 40 5) 3)
          (here w) = none) ∧
      (sOk w 48 9 1 = true ∧ walkOk (w.block 48 9) = true)) ∧
    ({ ctrl with ops := fullAcc }.allocFault ctrlW.site [1] 0 = none ∧
      { ctrl with ops := fullAcc }.permitDue (ctrlW.op .acc 3 (.alloc 1)) ctrl.seq = false) ∧
    (∃ w, State.who { stalled with cur := .ctl 0 0 0 } = some w ∧ w.wait = .permit stalledOp ∧
      w.standsAt (.permit stalledOp) = true ∧ stalled.permitDue stalledOp stalledOp.arrival = true ∧ stalledOp.block = w.blk.id ∧
      stalledOp.rank = w.rank) ∧
    ∃ w c p, IssuesUni ctrl w ∧ w.grp = none ∧ w.ctl = some c ∧ ctrl.pair? w.blk.id w.rank w.quad = some p ∧ c.st = .running ∧
      sOk w 32 6 1 = true ∧ sOk w 45 5 1 = true ∧ w.uni.sget 48 = 0 :=
  ⟨⟨rfl, rfl⟩, ctl_of (by decide +kernel), by decide +kernel, opt_of (by decide +kernel), ctl_of (by decide +kernel)⟩

/-- A pair with a refinement run at its end, RFL.RUN 6 the last pushed; and one with a RUN in flight. -/
def ran (boundary : Bool) : State :=
  ctrl.modPair 0 0 0 fun p => { p with
    lastRun := some 6, run := some { RflRun.start 6 2 with step := 8, exitCode := 1, seen := if boundary then [[1, 2, 3, 4]] else [] } }
def runOp : EngOp := { ctrlW.op .rfl 3 (.rflRun 1) with id := 6 }
def walkOp : EngOp := { ctrlW.op .loop 3 (.walk [0xB0600000] []) with id := 7 }

theorem witness_LoopAndRunControl : (ran true).wq = {} ∧
    (∃ w c p, IssuesUni (ran true) w ∧ w.grp = none ∧ w.ctl = some c ∧ (ran true).pair? w.blk.id w.rank w.quad = some p ∧
      (ran true).walksPushed w.blk.id w.rank w.quad = true ∧ sOk w 20 4 2 = true ∧ p.lastRun = some 6 ∧ (ran true).op? 6 = none ∧
      (p.run.map (·.op) = some 6 ∧ p.run.map (·.seen) = some [[1, 2, 3, 4]]) ∧
      (ran true).joinRaises w (fun q => q.id == 6) = none ∧ ∀ q ∈ (ran true).observed w (fun q => q.id == 6), q.foot = []) ∧
    { ctrl with ops := [walkOp] }.walksPushed 0 0 0 = false ∧ { ran true with ops := [runOp] }.op? 6 = some runOp ∧
    ∃ w c p, IssuesUni ctrl w ∧ w.grp = none ∧ w.ctl = some c ∧ ctrl.pair? w.blk.id w.rank w.quad = some p ∧ p.run = none :=
  ⟨rfl, ctl_of (by decide +kernel), by decide +kernel, by decide +kernel, ctl_of (by decide +kernel)⟩

-- Witnesses: the engines' own events.

/-- An operation of the control thread's pair, tagged k1. -/
def opOf (q : EngQ) (k : OpKind) : EngOp := { ctrlW.op q 0x23 k with id := 5 }
/-- `ctrl` with one operation in flight. -/
def withOp (o : EngOp) : State := { ctrl with ops := [o] }
/-- A copy of 16 bytes from AB to AB. -/
def copy16 : CopyDesc := ⟨3, 0x1000000000000100, 0, 0, 0x1000000000000400, 0, 16, 1⟩
/-- One loaded plane of one column. -/
def plane : Plane := ⟨0, 1, 1, [List.replicate 48 1], [], false, 0⟩

/-- A grouped operation of one entry, its table at AB 0x100, and a tile of one step. -/
def groupedBlk : Block32 := [0x02000000, 0, 0, 0x0B, 0x100, 1, 0x8B, 0, 0]
def tileBlk : Block32 := [0x02000000, 0, 0, 0x04000000, 0, 0, 0x8B, 1, 0x10001, 0, 0, 0, 0]
def groupEntry : List Byte := toBytes 4 0 ++ toBytes 4 0x04000000 ++ List.replicate 24 0
def groupedS : State :=
  let s := withOp { opOf .matrix (.grouped groupedBlk) with started := true }
  match s.opSite (opOf .matrix (.grouped groupedBlk)) with
  | some x => (s.linWrite x .ce 1 0 0x100 groupEntry).1
  | none => s

/-- What each clause asks of its operation: that it is there, live, and at a site. -/
def opThere (s : State) (o : EngOp) (P : Site → Bool) : Bool :=
  decide (s.op? 5 = some o) && s.opLive o && ((s.opSite o).map P).getD false

theorem witness_CopyAndMatrixEvents :
    (let o := { opOf .copy (.copy copy16) with prog := 16 }
     opThere (withOp o) o (fun _ => true) = true ∧ copy16.cnt * copy16.len ≤ o.prog ∧ o.fault = none ∧ o.stop = false ∧ o.nan = none) ∧
    (let o := { opOf .copy (.copy copy16) with fault := some (0x0F, 0x77) }
     opThere (withOp o) o (fun _ => true) = true) ∧
    (let o := { opOf .matrix (.cpmx copy16 groupedBlk) with prog := 16 }
     opThere (withOp o) o (fun _ => true) = true ∧ o.copied = false) ∧
    (let o := opOf .matrix .swap
     opThere (withOp o) o (fun _ => true) = true ∧ (withOp o).mxReady o = true) ∧
    (let o := { opOf .matrix .swap with started := true, prog2 := 1 }
     opThere (withOp o) o (fun _ => true) = true ∧ o.mxDone = true) ∧
    (let o := { opOf .matrix .swap with started := true }
     let s := (withOp o).modQuadHw 0 fun h => { h with active := some plane }
     opThere s o (fun x => s.rawPlanes x == (some plane, none)) = true ∧ o.prog2 = 0 ∧ o.rowOut = []) ∧
    (let o := { opOf .matrix (.grouped groupedBlk) with started := true }
     opThere groupedS o (fun x =>
       match groupedS.linRead x .mxa 1 0 (blkWord groupedBlk 4) 32 with
        | (s1, .ok e) => decide (e = groupEntry) && (s1.entryFault x groupedBlk e (linPtr 1 0 x.rank (blkWord groupedBlk 4)) 0).isNone &&
          (match s1.readPlane x ⟨layOf [0x04000000, 0, 0] 0, 0, 0, 0x0B, 1, 1, 0, blkWord groupedBlk 7, 0⟩ o.partFirst [] wholeStep with
            | (s2, .ok (_, some _)) => decide (s2.op? 5 = some o)
            | _ => false)
        | _ => false) = true ∧ o.mxDone = false ∧ o.prog2 = 0 ∧ o.aux = [] ∧ o.planeIn = [] ∧ o.rowOut = []) ∧
    (let o := { opOf .matrix (.tile tileBlk) with started := true }
     opThere (withOp o) o (fun x =>
       match (withOp o).readPlane x ⟨layOf tileBlk 3, 0, 0, (tileCtl tileBlk).bf, 1, 1, 0, 0, 0⟩ o.partFirst [] wholeStep with
        | (s1, .ok (_, some _)) => decide (s1.op? 5 = some o)
        | _ => false) = true ∧ o.mxDone = false ∧ o.prog = o.prog2 * blkWord tileBlk 7 ∧ o.aux = [] ∧ o.planeIn = [] ∧ o.rowOut = [] ∧ (tileCtl tileBlk).q = 1 ∧
      min 128 ((tileCtl tileBlk).n) = 1) :=
  by decide +kernel

/-- A granule in a state, of a region of AB mapped over VA 0x200. -/
def regionBlk : Block32 := [0, 0x10000000, 128, 0x200, 0, 0]
def granule (st : GrState) : Granule := ⟨st, 5, 1, 4, 1, [9, 8, 7], 4⟩
def granS (st : GrState) : State :=
  { glob with blocks := glob.blocks.map fun b => { b with regions := [{ mapRegion 0 regionBlk with grans := [granule st] }] } }
/-- What each clause about granule 0 of region 0 asks. -/
def granThere (s : State) (P : Block → Grid → Region → Granule → Bool) : Bool :=
  match s.granuleRef 0 0 0 with
  | some (b, gr, reg, y) => P b gr reg y && Memory.wf s.mem && decide (s.wq = {}) && s.poison.isEmpty
  | none => false

theorem witness_AccumulatorRegionGranuleEvents : (∀ o, (withOp o).wq = {}) ∧
    (let o := opOf .acc (.alloc 3)
     opThere (withOp o) o (fun x => (withOp o).grantable o x) = true ∧ o.allocMask = some 3) ∧
    (let o := opOf .acc (.free 1)
     opThere (withOp o) o (fun _ => (withOp o).accReady o) = true ∧ o.prog = 0) ∧
    (let o := opOf .acc (.tryAlloc 1)
     let s := { withOp o with blocks := (withOp o).blocks.map fun b => { b with cb := [(0, 0)] } }
     opThere s o (fun x => s.accReady o && !s.grantable o x) = true) ∧
    (let o := { opOf .acc (.zero 1) with prog := 1 }
     opThere (withOp o) o (fun _ => (withOp o).accReady o) = true ∧ o.accDone = true) ∧
    (let o := opOf .region (.rgnMap regionBlk)
     opThere (withOp o) o (fun x => (withOp o).queueHead o && x.blk.regionFits (blkPtr regionBlk 0) x.rank 128) = true) ∧
    (granThere (granS .filling) (fun b gr reg y =>
      y.st == .filling &&
      (match (granS .filling).granuleGlobal (b.regionSite gr reg) reg 0 with
        | (t, some k) => decide (t = granS .filling) && k == 0x20200
        | _ => false) && (b.groups.all fun g => (g.fillLanes 0 0).isEmpty) &&
      (b.ctls.all fun c => (c.wait.forFill 0 0).isNone) &&
      decide (((granS .filling).granuleKeys b gr reg 0).Pairwise fun p q => p + 16 ≤ q ∨ q + 16 ≤ p)) = true) ∧
    (granThere (granS .dirty) (fun b _ _ y => y.st == .dirty && y.mask != 0 && b.pre != .swapped) = true) ∧
    (granThere (granS .writing) (fun b gr reg y => y.st == .writing &&
      (match (granS .writing).granuleGlobal (b.regionSite gr reg) reg 0 with
        | (t, some k) => decide (t = granS .writing) && k == 0x20200
        | _ => false)) = true) :=
  ⟨fun _ => rfl, by decide +kernel⟩

/-- The block half of a queue of context 1: 16 entries at VA 0, device-written where `dev`, status line at VA 0xC00. -/
def half (dev : Bool) : QcbHalf := ⟨0, if dev then 0x104 else 0x004, 1, 100, 0xFFFF, 7, 0xC00⟩
def ringQ (dev : Bool) : Queue := Queue.fresh 0 0 (half dev)
/-- A copy record's blocks, and a walk over it of two records. -/
def walkBlk : Block32 := [0xB0600000, 1, 0, 0, 0, 0, 0, 0, 0]
def walkSnap (cnt : Word) : Block32 := [0x100, 0x10000000, 0, 0, 0, 0, 0x400, 0x10000000, 0, 16, cnt, 0, 0, 0, 0, 0]

theorem witness_LaunchAndLoopEvents :
    (let o := opOf .launch (.launch 0x400 0 none)
     let s := { withOp o with queues := [ringQ true] }
     opThere s o (fun x =>
       match s.engReadAt x .ce 0x400 64 with
       | (s1, .ok _) => decide (s1.op? 5 = some o) && (match s1.queueNamed x.ctx 0 with
         | some q => decide (s1.queue? q.id = some q) && q.device && decide (q.resv - q.ridx < q.entries) &&
           (match (s1.useReplica q.id x.die).slotPlace q.ctx (q.slotVa q.resv) with
             | .ok _ => true
             | _ => false)
         | none => false)
       | _ => false) = true ∧ o.fault = none) ∧
    (let o := opOf .launch (.launch 0x400 0 (some 0))
     let s := { withOp o with queues := [{ ringQ true with widx := 1, resv := 1 }] }
     opThere s o (fun x => s.slotPassed x.ctx 0 0) = true) ∧
    (let o := opOf .launch (.signal false 0x5000000000000100 3)
     let s := withOp o
     opThere s o (fun x =>
       match s.place x (0, 0) 0x5000000000000100 with
       | (t, .ok (.buf k)) => decide (t = s) && (match s.atomBy x .none (.buf k) 0 8 3 0 with
         | (_, .ok _) => true
         | _ => false)
       | _ => false) = true) ∧
    (let o := { opOf .loop (.walk walkBlk (walkSnap 1)) with aux := [0x40] }
     let s := withOp o
     opThere s o (fun x =>
       match templateOf (blkWord walkBlk 0) with
       | some tp => (s.templateFault x tp (walkBlock walkBlk (walkSnap 1) 0) 0x40).isNone &&
         (s.templateFault x tp (walkBlock walkBlk (walkSnap 0) 0) 0x40).isSome && decide (s.wq = {}) &&
         (s.pend 0 0).isEmpty && s.permitDue (walkRecord o tp walkBlk (walkBlock walkBlk (walkSnap 1) 0)) s.seq
       | none => false) = true ∧ o.pushedAll = false ∧ o.arrival = 0) ∧
    (let o := { opOf .loop (.walk walkBlk (walkSnap 1)) with prog := 2, kids := [6, 7] }
     opThere (withOp o) o (fun _ => (withOp o).walkOver o) = true) :=
  by decide +kernel

/-- A refinement of one equation 2 x = 4 in FP32 factors: its command block at VA 0x400, A, b and x at 0x600. -/
def rflBytes : List Byte :=
  toBytes 4 1 ++ toBytes 4 0 ++ toBytes 8 0x600 ++ toBytes 8 8 ++ toBytes 8 0x608 ++ toBytes 8 0x610 ++
  toBytes 8 0x4000000000000000 ++ toBytes 4 4096 ++ List.replicate 12 0 ++
  toBytes 4 0x0E ++ toBytes 4 10 ++ List.replicate 24 0 ++
  toBytes 8 0x3DDB7CDFD9D7BDBB ++ toBytes 8 0x3FE0000000000000 ++ toBytes 4 1 ++ List.replicate 4 0 ++ toBytes 8 0x3FF0000000000000 ++
  List.replicate 64 0
def setupOp : EngOp := opOf .rfl (.rflSetup 0x400 1)
def rflRunOp : EngOp := { opOf .rfl (.rflRun 1) with id := 6 }
def rfl0 : State :=
  let s := ctrl.modPair 0 0 0 fun p => { p with bindView := true, bindMask := 1 }
  { s with ops := [setupOp, rflRunOp], nextId := 7,
           mem := memWrite (memWrite s.mem 0x20400 rflBytes) 0x20600 (toBytes 8 0x4000000000000000 ++ toBytes 8 0x4010000000000000) }
/-- The same with the block bound. -/
def rflBind : RflBind :=
  ⟨0x400, 1, 1, false, [⟨0x0E, 0, 10⟩], 0x600, 8, 0x608, 0x610, 0x4000000000000000, 0x3DDB7CDFD9D7BDBB, 0x3FE0000000000000, 1,
    0x3FF0000000000000, 5⟩
def rfl1 : State := { rfl0 with ops := [rflRunOp] }.modPair 0 0 0 fun p => { p with bind := some rflBind }
/-- The run under way at a step, after its INIT: A = [2], b = [4], x = 0, r = 4, factor 2. -/
def rflAt (k : Nat) : State :=
  { (rfl1.modPair 0 0 0 fun p => { p with
      run := some { RflRun.start 6 1 with
        step := k, etas := [0x3FF0000000000000], eta := 0x3FF0000000000000, normA := 0x4000000000000000,
        r := [0x4010000000000000], d := [0x4000000000000000], lu := [[0x40000000]], scales := [[]], perm := [0] } }).modCoreHw 0
      fun h => { h with rfl := some (0, 0, 0) } with
    ops := [{ rflRunOp with started := true }] }

/-- What each step's clause asks: the run is live, not stopped, at step k, its operands readable. -/
def live (k : Nat) (P : State → LiveRun → Bool) : Bool :=
  match (rflAt k).liveRun 6 with
  | some (s1, v) => !v.o.stop && v.r.step == k && (s1.wsPoison v).isNone && (s1.pair? v.o.block v.o.rank v.o.quad).isSome &&
    (match s1.readAb v with
      | (s2, .ok _) => (s2.pair? v.o.block v.o.rank v.o.quad).isSome
      | _ => false) && P s1 v
  | none => false

/-- The run at DONE with these writes left. -/
def writingAt (got : List (Nat × List (DWord × List Byte))) : State :=
  { rflAt 8 with ops := [{ rflRunOp with started := true, copied := true, got := got }] }

theorem witness_RefinementSteps :
    (opThere rfl0 setupOp (fun x => rfl0.queueHead setupOp &&
      match rfl0.takeRfl x.core 0 0 0 with
      | some s1 => (match s1.engReadAt x .rfl 0x400 192 with
        | (s2, .ok bs) =>
          let b := parseBlock bs 0x400 1 5
          blockOk bs b && s2.workspaceOk x b (ofBytes ((bs.drop 0x30).take 4)) && (s2.operandFault x b).isNone && b == rflBind
        | _ => false)
      | none => false) = true) ∧
    (match rfl1.opSite rflRunOp, rfl1.op? 6 with
      | some x, some o => o == rflRunOp && rfl1.opLive o && rfl1.runReady x o &&
        (match x.pair.bind (·.bind), rfl1.takeRfl x.core 0 0 0 with
          | some b, some s1 =>
            let s2 := ((s1.emptyPlanes 0 0 b.mask).modPair 0 0 0 fun p => { p with run := some (RflRun.start 6 b.n) }).modOp 6
              fun y => { y with started := true }
            (match s2.liveRun 6 with
              | some (s3, v) => (match s3.readAb v with
                | (s4, .ok _) => (match s4.readGuess v with
                  | (s5, .ok _) => (s5.pair? v.o.block v.o.rank v.o.quad).isSome
                  | _ => false)
                | _ => false)
              | none => false)
          | _, _ => false)
      | _, _ => false) = true ∧
    live 2 (fun _ _ => true) = true ∧ live 3 (fun _ _ => true) = true ∧
    live 4 (fun _ v => (fmtF64.value (maxNorm v.r.r)).isFin) = true ∧ live 5 (fun _ _ => true) = true ∧
    live 6 (fun _ _ => true) = true ∧ live 7 (fun _ _ => true) = true ∧
    live 8 (fun s1 v =>
      (match s1.engWriteAt v.x .rfl (ptrAdd v.b.ptr 0xC0) (v.r.status v.r.exitCode) with
        | (_, .ok _) => (match s1.engWriteAt v.x .rfl v.b.xPtr (f64Bytes v.r.x) with
          | (_, .ok _) => !v.o.copied
          | _ => false)
        | _ => false)) = true ∧
    (match (writingAt [(8, [(0x610, List.replicate 8 7)])]).liveRun 6 with
      | some (s1, v) => v.o.copied && !v.o.stop && v.o.got == [(8, [(0x610, List.replicate 8 7)])] &&
        (s1.pair? v.o.block v.o.rank v.o.quad).isSome && (match s1.engWriteAt v.x .rfl 0x610 (List.replicate 8 7) with
          | (s2, .ok _) => (s2.op? 6).isSome
          | _ => false)
      | none => false) = true ∧
    (match (writingAt []).liveRun 6 with
      | some (s1, v) => v.o.copied && !v.o.stop && v.o.got.isEmpty && (s1.pair? v.o.block v.o.rank v.o.quad).isSome
      | none => false) = true :=
  by decide +kernel

-- Witnesses: queues, packets, leases.

/-- A grid descriptor at VA 0x400: code base 0x800, V 1, U 1, one group, one item, lease list at VA 0x600. -/
def descBytes : List Byte :=
  toBytes 8 0x800 ++ toBytes 4 0x40 ++ toBytes 4 0 ++ toBytes 4 0x40 ++ toBytes 4 0xFFFFFFFF ++ toBytes 4 0x101 ++ toBytes 4 0 ++
  toBytes 4 0x10001 ++ toBytes 4 1 ++ toBytes 8 1 ++ toBytes 8 0x600 ++ List.replicate 72 0
/-- The cells of some bytes from a place on. -/
def cells (k : Nat) (bs : List Byte) : List Host.Cell :=
  ((List.range bs.length).zip bs).filterMap fun (i, b) => if b = 0 then none else some (k + i, b)
/-- One packet, its words given, unread in slot 0 of a mapped queue; a descriptor, its lease list, a graph node at VA 0x680 and
a signal of 5 at VA 0xD00. -/
def ringS (raw : List Nat) : State :=
  let s := State.reset.bootOver false
  let node := toBytes 8 4 ++ toBytes 8 (2 ^ 64 - 1) ++ toBytes 8 0 ++ toBytes 8 0xD00 ++ toBytes 8 2 ++ List.replicate 24 0
  { s with grids := [], blocks := [], nextId := 9,
           mem := s.mem ++ cells 0x20000 (raw.flatMap fun w => toBytes 8 w) ++ cells 0x20400 descBytes ++
             cells 0x20600 (toBytes 16 1 ++ toBytes 8 (0xF * 2 ^ 56) ++ toBytes 8 0x1000) ++ cells 0x20680 node ++
             cells 0x20D00 (toBytes 8 5),
           queues := [{ ringQ false with widx := 1, resv := 1, mapped := true, state := .active }] }
/-- What `ReadsPacket` asks of slot 0, with a further condition on the state its checks leave, the queue and the words. -/
def readsPkt (raw : List Nat) (kind : Nat) (P : State → Queue → List DWord → Bool) : Bool :=
  match (ringS raw).queue? 0 with
  | some q => ((ringS raw).ctxDesc q.ctx).valid && q.reads && decide (q.ridx < q.widx) && q.skip == 0 && !q.voidAt q.ridx && q.run.all (fun r => r.index != q.ridx) &&
    (match (ringS raw).qpRead q.ctx (q.slotVa q.ridx) 64 with
      | (s1, .ok bs) => (match s1.signalsOk q.ctx (pktSignals (wordsOf bs) false) with
        | (s2, .ok _) => packetOk (wordsOf bs) false && pktKind (wordsOf bs) == kind && !bitOf (pktFlags (wordsOf bs)) 0 &&
          !bitOf (pktFlags (wordsOf bs)) 1 && !bitOf (pktFlags (wordsOf bs)) 2 && s2.queue? 0 == some q && P s2 q (wordsOf bs)
        | _ => false)
      | _ => false)
  | none => false
/-- Whether an answer is one value, in a state that keeps the queue. -/
def okIs {α : Type} (r : State × QpRes α) (q : Queue) (f : α → Bool) : Bool :=
  match r with
  | (s, .ok x) => s.queue? 0 == some q && f x
  | _ => false

theorem witness_RingPackets :
    readsPkt [1, 0, 0, 0x400] 1 (fun s q raw => okIs (s.launch ⟨q, q.ridx, none, raw⟩) q fun _ => true) = true ∧
    readsPkt [2, 0, 0, 0x100, 0x200, 16] 2 (fun s q raw =>
      match s.resolveAll q.ctx q.die s.nextId qeAccess (copyRanges raw) with
      | (s3, .ok ps) => ((s3.markLeaves (copyRanges raw) ps).pinAll ps).queue? 0 == some q
      | _ => false) = true ∧
    readsPkt [3, 0, 0, 0xD00, 5, 0] 3 (fun s q raw => okIs (s.condition q.ctx raw) q fun b => b) = true ∧
    readsPkt [3, 0, 0, 0xD00, 6, 0] 3 (fun s q raw => okIs (s.condition q.ctx raw) q fun b => !b) = true ∧
    readsPkt [4, 0, 0, 0xD00, 6, 1] 4 (fun s q raw => okIs (s.signalAt q.ctx (raw.getD 3 0) true) q fun _ => true) = true ∧
    readsPkt [5, 0, 0, 0xD00, 6, 0x100] 5 (fun s q raw => okIs (s.condition q.ctx raw) q fun b => !b) = true ∧
    readsPkt [6, 0, 0, 0x680, 1] 6 (fun s q raw => okIs (s.qpRead q.ctx (pktBody raw 0) (64 * pktBody raw 1)) q fun bs =>
      graphOk (nodesOf bs)) = true ∧
    readsPkt [8 + 63 * 2 ^ 32] 8 (fun _ _ _ => true) = true ∧ readsPkt [9, 0, 0, 0x77] 9 (fun _ _ _ => true) = true ∧
    readsPkt [10, 0, 0, 0, 0x1000, 0] 10 (fun s q raw => ((s.replSync q.ctx raw).bind (·.queue? 0)) == some q) = true ∧
    readsPkt [10, 0, 0, 0, 0x1000, 1] 10 (fun s q raw =>
      match s.resolveAll q.ctx q.die s.nextId qeAccess [preloadRange raw] with
      | (s3, .ok ps) => (s3.markLeaves [preloadRange raw] ps).queue? 0 == some q
      | _ => false) = true :=
  by decide +kernel

-- Witnesses: dispatch, policy engines, sketches.

/-- A signal node released in a ring's graph. -/
def sigNode : List DWord := [4, 2 ^ 64 - 1, 0, 0xD00, 2, 0, 0, 0]
def graphS : State :=
  let s := ringS []
  { s with queues := s.queues.map fun q => { q with graphs := [⟨0, [sigNode], [0], [0], [], false, 2 ^ 32, 0, false⟩] } }
theorem witness_SignalNodes :
    (match graphS.queue? 0 with
      | some q => (graphS.ctxDesc q.ctx).valid && q.nodeAt 0 0 == some sigNode && pktKind sigNode == 4 && Memory.wf graphS.mem &&
        (match graphS.signalsOk q.ctx (pktSignals sigNode true) with
          | (s1, .ok _) => (match s1.signalAt q.ctx (sigNode.getD 3 0) true with
            | (_, .ok _) => true
            | _ => false)
          | _ => false)
      | none => false) = true := by decide +kernel

/-- A packet of words that begin with `raw` in flight in a ring, its work done or not. -/
def flight (raw : List Nat) (done : Bool) : Running :=
  ⟨0, raw.map (BitVec.ofNat 64) ++ List.replicate (8 - raw.length) 0, done, false, 0, [], []⟩
def flightS (raw : List Nat) (done : Bool) : State :=
  let s := ringS []
  { s with queues := s.queues.map fun q => { q with ridx := 1, run := [flight raw done], state := .blocked } }
/-- Grid 0 of the test state, ready in cluster 0, with what `f` changes. -/
def readyS (f : Grid → Grid) : State :=
  let s := State.reset.bootOver false
  { s with nextId := 9, queues := [ringQ false],
           grids := s.grids.map fun g => f { g with desc := { g.desc with items := 4, maxBlocks := 4 }, offers := [⟨0, 0, some 5, false, 0⟩] } }

theorem witness_QueueAndLeaseEvents :
    ((flightS [9 + 4 * 2 ^ 16 + 63 * 2 ^ 32] true).queue? 0).any (fun q => (q.run.find? (·.index == 0)).any fun r => !r.failed && r.done &&
      !bitOf (pktFlags r.raw) 1 && bitOf (pktFlags r.raw) 2 && decide (pktVector r.raw < 64)) = true ∧
    (let g : GraphRun := ⟨0, [sigNode, sigNode], [0, 1], [0], [⟨0, true, true, 0, [], []⟩], false, 2 ^ 32, 0, false⟩
     let qs := graphS.queues.map fun q => { q with graphs := [g] }
     let s := { graphS with queues := qs }
     (s.queue? 0).any fun q => q.graphs.any fun g => g.running.any fun r => r.done && !bitOf (pktFlags (g.nodes.getD 0 [])) 2 &&
      (!(g.completed r).released.isEmpty || !(g.completed r).running.isEmpty)) = true ∧
    (let qs := (ringS []).queues.map fun q => { q with mapped := false, state := .unmapped }
     let s := { ringS [] with queues := qs }
     (s.queue? 0).any fun q => s.mappable q && s.mapsNext q && decide ((s.threadsOf q.die).length < 64)) = true ∧
    (let s := flightS [3, 0, 0, 0xD00, 5, 0] false
     (s.queue? 0).any fun q => q.waiting == q.run.head? && q.mapped && q.waitNodes.isEmpty && q.run.any fun r =>
      okIs (s.condition q.ctx r.raw) q (fun b => b) && !bitOf (pktFlags r.raw) 1) = true ∧
    (let s := readyS fun g => { g with lease := .resolving, leases := [] }
     match s.grid? 0, s.queue? 0 with
     | some g, some q => (match s.resolveGrid g q.die q.qcbh.leaseLimit.toNat with
       | (s1, .ok _) => (s1.grid? 0).isSome
       | _ => false)
     | _, _ => false) = true ∧
    (let s := { flightS [3, 0, 0, 0xD00, 6, 0] false with clk17 := 17 * 10 ^ 7 }
     s.waitCycle 1 && decide ((s.queues.map (·.id)).Nodup)) = true := by
  decide +kernel

/-- The head of cluster 0's round is grid 0, ready. -/
def roundS (f : Grid → Grid) : State :=
  let s := readyS f
  { s with disps := [(0, { head := some 0, order := [0] })] }
/-- The one block of the test state changed. -/
def blockS (s : State) (f : Block → Block) : State := { s with blocks := s.blocks.map f }

/-- Grid 0's turn in cluster 0 while grid 1 is the reserved head there. -/
def behindS : State :=
  let s := roundS fun g => g
  { s with grids := s.grids ++ (s.grids.map fun g => { g with id := 1, reserved := true }),
           disps := [(0, { head := some 1, order := [0] })] }

theorem witness_Placement :
    (let s := roundS fun g => { g with desc := { g.desc with c := 0, privBase := 0 } }
     (s.disp 0).order.head? == some 0 && (s.swappedOf 0).isEmpty && s.sweepHeads.roundOf 0 [0] == [0] &&
      (s.grid? 0).any fun g => s.isReady 0 g && (s.sweepHeads.findPlace g 0 none).2.isSome &&
      decide (g.desc.m ≤ (s.coreOrder (s.ctxFn g.ctx) g.desc 0).length) && g.desc.tokens == 0 && g.desc.c == 0 &&
      g.desc.privBase == 0) = true ∧
    (let s := roundS fun g => { g with desc := { g.desc with m := 13 } }
     s.sweepHeads.roundOf 0 [0] == [0] && (s.swappedOf 0).isEmpty &&
      (s.grid? 0).any fun g => s.isReady 0 g && (s.sweepHeads.findPlace g 0 none).2.isNone &&
      (s.sweepHeads.findPlace g 0 none).1.disps == (s.sweepHeads).disps) = true ∧
    ((behindS.disp 0).order.head? == some 0 && !((behindS.sweepHeads.roundOf 0 [0]).contains 0) &&
      (behindS.grid? 0).any fun g => behindS.isReady 0 g) = true := by
  decide +kernel

theorem witness_RestoreAndPreemption :
    (let s := blockS (roundS fun g => g) fun b => { b with pre := .swapped }
     (s.block? 0).any fun b => (s.grid? 0).any fun g => s.isReady 0 g && s.swappedOf g.id == [b] && b.frame == none &&
      s.sweepHeads.roundOf 0 [0] == [0] && (s.sweepHeads.findPlace g 0 (some b)).2.isSome) = true ∧
    (let s := { roundS fun g => { g with reserved := true, desc := { g.desc with power := true } } with clk17 := 10 ^ 9, ptpool := 1 }
     (s.slicedHead 0).any fun g => !(s.victims 0 g).isEmpty && s.blocks.all fun b => b.pre == .none) = true ∧
    (let s := blockS (readyS fun g => g) fun b => { b with pre := .soft 0 }
     (s.block? 0).any fun b => s.graceOver b && b.groups.all fun g => !s.savable b g) = true ∧
    (let s := blockS lane fun b => { b with pre := .hard }
     (s.block? 0).any fun b => (b.group? 0).any fun g => s.savable b g && b.pre == .hard &&
      g.threads.all (fun th => decide (th.v.length ≤ 64)) && decide (g.uni.s.length ≤ 64) && s.wq.late.isEmpty) = true := by
  decide +kernel

/-- Cluster 0 with its policy engine off or on and one event at the head of its queue. -/
def polS (on : Bool) (e : TrEvent) : State :=
  let s := readyS fun g => g
  { s with disps := [(0, { trctl := if on then 0x800003E8 else 0x3E8, events := [e] })] }
/-- Function 0 ready, an image of one ENQUEUE routine, a lone DONE, at VA 0x400 of context 1. -/
def loadS : State :=
  let s := State.reset.bootOver false
  { s with mem := s.mem ++ cells 0x20400 (toBytes 4 1 ++ List.replicate 28 0 ++ toBytes 4 1 ++ List.replicate 28 0 ++ toBytes 4 0x7F000000),
           fns := [(0, { ready := true, trlAddr := 0x400 })] }
theorem witness_CarouselAndSeed :
    (let p := fun (e : TrEvent) => (polS false e).disp 0
     ([0, 1, 2, 3, 4, 5].all fun k => (p ⟨k, 0, 0, 2⟩).events == [⟨k, 0, 0, 2⟩] && (p ⟨k, 0, 0, 2⟩).policy == none && !(p ⟨k, 0, 0, 2⟩).enabled)) = true ∧
    (let s := polS false ⟨0, 0, 0, 2⟩
     (s.grid? 0).any fun g => (g.offerAt 0).isSome) = true ∧
    { polS false ⟨2, 0, 0, 2⟩ with clk17 := 0 }.tickDue 0 = false ∧ ((polS false ⟨3, 0, 0, 2⟩).block? 5) = none ∧
    ((polS false ⟨3, 0, 0, 2⟩).block? 0).map (·.grid) = some 0 ∧
    (let s := { polS true ⟨0, 0, 0, 2⟩ with sets := [⟨0, [(1, 0)], 0, [0], [], false⟩] }
     s.overruns 0) = true ∧
    (let s := loadS
     (s.fnRegs 0).ready && !(s.fnRegs 0).trlCtl.getLsbD 31 && ((s.startLoad 0 0x80010000).fnRegs 0).trlCtl.getLsbD 31 &&
      (s.ctxDesc 1).fn == 0 && (s.ctxDesc 1).valid &&
      match (s.startLoad 0 0x80010000).qpRead 1 0x400 64 with
      | (s1, .ok h) =>
        (match s1.qpRead 1 0x440 (4 * (imageOf h).words) with
          | (s2, .ok bs) => (s2.checkImage (imageOf h) (s.ctxDesc 1).tenant false h (imageCode bs)).isNone && bs.length == 4
          | _ => false)
      | _ => false) = true := by
  decide +kernel

/-- Stack 3's sketch on, with an interval of 100 µs that is over or not, one frame counted. -/
def sketchS (now : Nat) : State :=
  let k : Sketch := { skctl := 0x80000064, cnt := [(5, 7)], hot := [⟨2 ^ 24 + 9, 3, 7⟩], waiting := [(2 ^ 24 + 9, 1)] }
  { State.reset with clk17 := now, sketches := [(3, k)] }
theorem witness_AccessSketch :
    ((sketchS 0).sketch 3).on = true ∧ ((sketchS 0).sketch 3).waiting.head? = some (2 ^ 24 + 9, 1) ∧
    (2 ^ 24 + 9) / 2 ^ 24 = 3 / 3 ∧ (sketchS (100 * usec)).sketchDue 3 = true ∧
    (sketchS (100 * usec - 1)).sketchDue 3 = false ∧ Memory.wf (sketchS 0).mem = true := by
  decide +kernel

-- Witnesses: registers, resets, the outside.

/-- The ring of `ringS` with nothing unread, function 0 ready, its registers changed. -/
def devS (f : FnRegs → FnRegs) : State :=
  let s := ringS []
  { s with queues := [ringQ false], fns := [(0, f { ready := true })] }
/-- A TLB entry of context 1. -/
def tlbE : TlbEntry := ⟨1, 0x1000, 12, 0⟩
theorem witness_InvalidationAndQueueRegisters :
    (let s := devS fun f => { f with tlbiNpg := 1 }
     !s.tlbiRejects 0 0x80010000 && s.tlbiRejects 0 0x8001000C && !(s.fnRegs 0).tlbiCtl.getLsbD 31) = true ∧
    (let s := { devS fun f => { f with tlbiCtl := 0x80010004, tlbiRun := [1, 1, 0, 0] } with cores := [(0, { tlb := [tlbE] })] }
     (s.fnRegs 0).tlbiCtl.getLsbD 31 && (s.fnRegs 0).tlbiRun == [1, 1, 0, 0] && s.wq.stores.isEmpty && s.wq.late.isEmpty &&
      s.blocks.all fun b => b.doms.all List.isEmpty) = true ∧
    (let s := devS fun f => f
     (s.queueNamed 1 0).any fun q => s.queue? q.id == some q && s.ctxFn 1 == 0 && !q.device &&
      decide (16 + (q.widx - q.ridx) ≤ q.entries) && !decide (17 + (q.widx - q.ridx) ≤ q.entries) &&
      (0 + 2 ^ 42 - q.widx % 2 ^ 42) % 2 ^ 42 == 0) = true ∧
    ((devS fun f => f).queueNamed 1 3) = none ∧ (devS fun f => f).ctxFn 1 ≠ 3 ∧
    (let s := { devS fun f => f with queues := [ringQ true] }
     (s.queueNamed 1 0).any fun q => q.device) = true ∧
    (let s := devS fun f => f
     s.qcbOk (half true) && !s.qcbOk { half true with ringBase := 8 } &&
      (s.queues.find? fun q => q.ctx == 1 && q.num == 0).any fun q => s.queue? q.id == some q) = true ∧
    (let s := { devS fun f => { f with fngen := 6 } with pageReqs := [⟨9, false, 0, 6, 1, 0x1000, false⟩, ⟨4, true, 0, 6, 1, 0x2000, false⟩] }
     s.fns.all (fun f => !f.2.trlCtl.getLsbD 31) && (s.requestOf 0 9 false).isSome && (s.requestOf 0 8 false).isNone &&
      (s.requestOf 0 9 false).any (fun _ => bitsOf (6 * 2 ^ 48 + 9) 63 48 == (s.fnRegs 0).fngen.toNat &&
        bitsOf (5 * 2 ^ 48 + 9) 63 48 != (s.fnRegs 0).fngen.toNat) && s.fns.all (fun f => f.2.trlRun.isNone) &&
      (s.requestOf 0 4 true).any fun r => r.gen == (s.fnRegs r.fn).fngen.toNat) = true ∧
    (let s := { devS fun f => { f with fngen := 6 } with pageReqs := [⟨4, true, 0, 5, 1, 0x2000, false⟩] }
     (s.requestOf 0 4 true).any fun r => r.gen != (s.fnRegs r.fn).fngen.toNat) = true ∧
    (let s := devS fun f => { f with unsent := [(5, 1)] }
     s.messageDue 0 5) = true := by
  decide +kernel

theorem witness_DeviceRegisters :
    (let s := { State.reset with quads := [(767, { wanted := some 3, session := true, dbgCtx := 4095, stopped := true, dbgBuf := 0x10000 })] }
     isHbm (s.quadHw 767).dbgBuf.toNat && Memory.wf s.mem && (s.quadHw 767).wanted == some 3 && s.quadEmpty 767 && (s.quadHw 767).stopped) =
      true ∧
    { State.reset with fns := [(0, { ready := true })] }.debugReady 0 = true ∧ State.reset.debugReady 0 = false ∧
    (16 : Word).toNat % 32 ≤ 16 ∧ (31 : Word).toNat % 32 = 31 ∧ (768 : Word).toNat % 2 ^ 10 ≤ 768 := by
  decide +kernel

/-- RSTCTL with GO for a rung on queue 0 of context 1, engine 1 of quadrant 0. -/
def rstWord (rung : Nat) : DWord := BitVec.ofNat 64 (2 ^ 63 + rung * 2 ^ 60 + 2 ^ 32 + 2 ^ 28)
theorem witness_Resets :
    (let s := devS fun f => f
     (List.range 5).all (fun r => (rstWord r).getLsbD 63 && rstRung (rstWord r).toNat == r && !s.rstRejects 0 (rstWord r).toNat) &&
      !(s.fnRegs 0).rstCtl.getLsbD 63 &&
      (s.queues.find? fun q => q.ctx == rstCtx (rstWord 0).toNat && q.num == rstQueue (rstWord 0).toNat).any fun q =>
        s.queue? q.id == some q) = true ∧
    (let o := opOf .copy (.copy copy16)
     (List.range 6).any fun e => (withOp o).engineHit e 0 o) = true ∧
    (let s := devS fun f => { f with rstCtl := 0x8000000000000000, rstRung := 3 }
     (s.fnRegs 0).rstCtl.getLsbD 63 && s.rungDone 0) = true ∧
    (let s := { devS fun f => { f with rstCtl := 0x8000000000000000, rstRung := 3 } with clk17 := 2000 * 17000 }
     decide ((s.fnRegs 0).rstStart + (s.fnRegs 0).rstTmo.toNat * 17000 ≤ s.clk17) && !(s.fnRegs 0).rstCtl.getLsbD 59) = true := by
  decide +kernel

/-- Port 2 exports 0x1000 bytes of HBM from 0x10000 on at offset 0x800, with every right. -/
def exportS : State :=
  { State.reset with exports := [(2 * 64, { base := 0x800, len := 0xE000000000001000, phys := 0x10000 })] }
theorem witness_OutsideEvents :
    (State.reset.fnRegs 0).stage = 0 ∧ State.reset.meas.length = 8 ∧
    (let s := { State.reset with fns := [(3, { stage := 4 })], agenda := [.micro (.fnReady 3)] }
     s.due.isNone && !s.wq.void && s.agenda == [.micro (.fnReady 3)] && (s.fnRegs 3).stage == 4) = true ∧
    exportS.exported 2 0x17F8 8 61 = some 0x10FF8 ∧ exportS.exported 2 0x17F8 8 63 = some 0x10FF8 ∧ 0x17F8 % 8 = 0 ∧
    exportS.exported 3 0x17F8 8 63 = none ∧ exportS.exported 3 0x17F8 8 61 = none ∧
    (∀ i, i < 8 → exportS.inSpill (0x10FF8 + i) = false) ∧ exportS.poison = [] ∧
    (List.replicate 5 (⟨true, false, true, [], []⟩ : ImagePair)).length = 5 ∧
    hbmSpan 0x10000 64 = true ∧ (∀ i, i < 64 → State.reset.inSpill (0x10000 + i) = false) ∧ State.reset.wq = {} ∧
    State.reset.poison = [] ∧ hbmSpan (2 ^ 46) 1 = false ∧ exportS.exported 2 0x17F0 16 62 = some 0x10FF0 ∧
    exportS.exported 2 0x17F0 17 62 = none ∧ exportS.exported 3 0x17F0 16 62 = none ∧ Memory.wf exportS.mem = true ∧
    isHbm 0x10000 = true := by
  decide +kernel

-- Witnesses: steps, encodings.

def isNext (o : Host.Outcome State Fault Refusal) : Bool :=
  match o with
  | .next _ => true
  | _ => false
theorem witness_StepKeepsMemory : Memory.wf (State.reset.withFetchWord 32 0).mem = true ∧
    isNext (step (State.reset.withFetchWord 32 0)) = true := by
  decide +kernel
/-- What the first clause of StepRunsDecoded asks of a state whose agenda begins with an issue. -/
def issuesWord (s : State) (word : Nat) (late : Bool := false) : Bool :=
  match s.due, s.agenda with
  | none, .issue a :: rest =>
    let s0 := { s with agenda := rest }
    !s.wq.void && (s0.ready a).any fun a' => (State.who { s0 with cur := a' }).any fun w => w.dueFlags.isEmpty &&
      (match State.fetch ((State.passClose { s0 with cur := a' } (w.blk.id, w.rank)).openDue w) w.site w.pc with
        | (s1, .word x) => x == word && (s0.pipeHeld w).isNone && !w.fillHolds word &&
          (s1.wq.late.any fun l => l.holds w.agent word) == late
        | _ => false)
  | _, _ => false
/-- A load into v0 of lane 0 that has still to take effect. -/
def lateV0 : LateAcc :=
  { owner := .frag 0 0 1, uni := false, issue := 0, pc := 0, block := 0, rank := 0, quad := 0, ptr := 0, place := .buf 0, n := 4,
    d := 0, kind := .load {} none false }
/-- A word of SADDI s20, s12, 1 where lane 31 waits for a fill of s12. -/
def fillWaits : State :=
  let s := lane.modLanes 0 0 [31] fun _ t => { t with wait := .fill (some (0, 0)) 0 (0x44 + 12, 1) 0 0 }
  { s with agenda := [.issue (.frag 0 0 0xFFFFFFFF)], cur := .none }
theorem witness_StepRunsDecoded :
    issuesWord (State.reset.withFetchWord 32 0) 0 = true ∧ decode 0 ≠ none ∧
    issuesWord (State.reset.withFetchWord 32 0x7FFFFFFF) 0x7FFFFFFF = true ∧ decode 0x7FFFFFFF = none ∧
    issuesWord { State.reset.withFetchWord 32 0 with wq := { late := [lateV0] } } 0 true = true ∧
    (match encode (.saddi ⟨20, 12, 1⟩) with
      | some x =>
        let s := fillWaits.putWord 0x20040 x
        s.due.isNone && !s.wq.void && (match s.agenda with
          | .issue a :: rest =>
            let s0 := { s with agenda := rest }
            (s0.ready a).any fun a' => (State.who { s0 with cur := a' }).any fun w => w.dueFlags.isEmpty && w.fillHolds x &&
              (match State.fetch ((State.passClose { s0 with cur := a' } (w.blk.id, w.rank)).openDue w) w.site w.pc with
                | (_, .word y) => y == x
                | _ => false)
          | _ => false)
      | none => false) = true ∧
    (let s := { State.reset with agenda := [.event .getVersion] }
     s.due.isNone && s.agenda == [.event .getVersion]) = true ∧
    laneW.site.grid.leased .x 0x40 4 = true ∧
    (match lane.globPlace laneW.site 0x40 false with
      | (u, .ok (.glob k _ _ _)) => !u.poisoned k 4 && (u.coreHw laneW.site.core).ic.isEmpty
      | _ => false) = true := by
  decide +kernel
theorem witness_DecodeEncode : (Instr.stw ⟨2, 9, 2, 0, 2⟩).wf = true ∧ encode (.stw ⟨2, 9, 2, 0, 2⟩) = some 0x6A890402 := by
  decide +kernel
theorem witness_EncodeDecode : 0xB4460020 < 2 ^ 32 ∧ decode 0xB4460020 = some (.mxStream ⟨12, 0x20⟩) := by
  decide +kernel

-- Words of the spec's encodings. Each word is one the spec writes out beside its assembly, or is formed from the bit fields of
-- 07_encoding_and_assembly.md R170 to R189 as the sum shown.

/-- Every listed word decodes to the instruction beside it, and is that instruction's encoding. -/
def decodesTo (l : List (Nat × Instr)) : Bool := l.all fun e => decode e.1 == some e.2 && encode e.2 == some e.1

/-- 07, the worked chain; 06, 08 and 14, words of their examples. -/
theorem test_decode_arithmetic :
    decodesTo [(0x2820048D, .fmul ⟨0, true, 0, 0x04, 0x46, true⟩), (0x2620400F, .fadd ⟨0, true, 0, 0x40, 0x07, true⟩),
      (0x2E04C18F, .fmax ⟨0, false, 9, 0x41, 0x47, true⟩), (0x3A114290, .fcmp ⟨0, false, 4, 2, 0x42, 0x48, false⟩),
      (0x38098192, .icmp ⟨0, false, 2, 3, 0x01, 0x49, false⟩), (0x38048A9C, .icmp ⟨0, false, 1, 1, 0x0A, 0x4E, false⟩),
      (0x24850E9C, .sel ⟨2, false, 10, 14, 0x4E, false⟩), (0, .iadd ⟨0, false, 0, 0, 0, false⟩)] = true := by decide +kernel
/-- 08 R218's example, 09's and 17's words. -/
theorem test_decode_team_and_special :
    decodesTo [(0x4C030586, .tredFadd ⟨0, false, 6, 0x05, 3, false⟩), (0x480F1073, .tshflIdx ⟨0, 15, 8, 14, 3⟩),
      (0x460E0406, .ballot ⟨0, false, 28, 4, 3, false⟩), (0x4E010000, .movs ⟨0, 1, 0⟩), (0x4E000010, .movs ⟨0, 0, 0x10⟩),
      (0x4E140032, .movs ⟨0, 20, 0x32⟩)] = true := by decide +kernel
/-- 09's loads, stores and atomics; 14's misaligned store. -/
theorem test_decode_memory :
    decodesTo [(0x64080482, .ldq ⟨0, 8, 2, 1, 2⟩), (0x63583480, .ldd ⟨5, 24, 26, 1, 0⟩), (0x6A890402, .stw ⟨2, 9, 2, 0, 2⟩),
      (0x6A040400, .stw ⟨0, 4, 2, 0, 0⟩), (0x6C062400, .std ⟨0, 6, 18, 0, 0⟩), (0x70049460, .atom ⟨0, 4, 0x4A, 12, 0⟩),
      (0x701CA8F0, .atom ⟨0, 28, 0x54, 0x1E, 0⟩), (0x709490B8, .atom ⟨2, 20, 0x48, 0x17, 0⟩)] = true := by decide +kernel
/-- Branches and synchronisation words of 08, 09 and 17. -/
theorem test_decode_control :
    decodesTo [(0x78E00005, .brv ⟨3, true, 5⟩), (0x785FFFFA, .brv ⟨1, false, -6⟩), (0x781FFFE9, .brv ⟨0, false, -23⟩),
      (0x9ABFFFFA, .sbr ⟨2, true, -6⟩), (0x9A5FFFCD, .sbr ⟨1, false, -51⟩), (0x7E000004, .refill), (0x7E00000A, .bar ⟨0⟩),
      (0x7E00030C, .barArrive ⟨3⟩), (0x7E00030E, .barWait ⟨3⟩), (0x7E000010, .phaseOpen), (0x7E000012, .phaseClose),
      (0x7E000014, .fenceBlk), (0xBA30A000, .waitc ⟨6, 5⟩), (0x7E03051A, .waitcL ⟨6, 5⟩), (0xBAF06000, .waitc ⟨30, 3⟩),
      (0xC4000000, .sysTrapret ⟨0⟩)] = true := by decide +kernel
/-- Uniform words of 07 and 17. -/
theorem test_decode_uniform :
    decodesTo [(0x8A080030, .smovi ⟨1, 0x30⟩), (0x8C080020, .smovhi ⟨1, 0x20⟩), (0x8F209410, .scmp ⟨true, 1, 1, 10, 2, 0⟩),
      (0xAC220000, .dqPop ⟨4, 0⟩), (0xAC001400, .dqPush ⟨10, 0⟩)] = true := by decide +kernel
/-- Engine words of 10, 16 and 17 (R255: class, subcode, register of the block, event selector). -/
theorem test_decode_engines :
    decodesTo [(0xB00418A3, .cpG2a ⟨8, 12, 0xA3⟩), (0xB0662460, .cpA2a ⟨12, 18, 0x60⟩), (0xB2A83840, .cpmxGather ⟨0x10, 0x1C, 0x40⟩),
      (0xB4020020, .mxLds ⟨4, 0x20⟩), (0xB4200021, .mxSwap ⟨0x21⟩), (0xB4460020, .mxStream ⟨12, 0x20⟩),
      (0xB4680060, .mxGrouped ⟨16, 0x60⟩), (0xB6010000, .accAlloc ⟨2, 0⟩), (0xB8260040, .acceOut ⟨12, 0x40⟩),
      (0xB8280080, .acceOut ⟨16, 0x80⟩), (0xBE010021, .rflSetup ⟨2, 0x21⟩), (0xBE250022, .rflRun ⟨10, 0x22⟩),
      (0xBE460000, .rflWait ⟨12⟩), (0xBE480000, .rflWait ⟨16⟩)] = true := by decide +kernel

-- Words that decode to nothing (R167, R189): a reserved opcode of each half, a reserved bit set, a predicate or a condition 0
-- as a destination, a team width above 32, an unlisted special register, a branch on the false of p0.
theorem test_refuses_words :
    ([0x7FFFFFFF, 0xFFFFFFFF, 0xC4000008, 0x38040A9C, 0x4C03058C, 0x4E0100FF, 0x78200005].all fun w =>
      (decode w).isNone) = true := by decide +kernel

/-- Ill-formed terms, one for each exclusion of WellFormed. -/
def illFormed : List Instr :=
  [.sel ⟨0, false, 1, 2, 3, false⟩, .icmp ⟨0, false, 1, 0, 2, 3, false⟩, .fcmp ⟨0, false, 1, 0, 2, 3, false⟩,
   .dcmp ⟨0, false, 1, 0, 2, 4, false⟩, .plop ⟨0, false, 1, 0, 0, 1, false⟩, .ballot ⟨0, false, 1, 1, 6, false⟩,
   .tshflIdx ⟨0, 1, 2, 3, 6⟩, .tshflXor ⟨0, 1, 2, 3, 7⟩, .tredAdd ⟨0, false, 1, 2, 6, false⟩, .tredMin ⟨0, false, 1, 2, 6, false⟩,
   .tredMax ⟨0, false, 1, 2, 6, false⟩, .tredUmin ⟨0, false, 1, 2, 6, false⟩, .tredUmax ⟨0, false, 1, 2, 6, false⟩,
   .tredAnd ⟨0, false, 1, 2, 6, false⟩, .tredOr ⟨0, false, 1, 2, 6, false⟩, .tredXor ⟨0, false, 1, 2, 6, false⟩,
   .tredFadd ⟨0, false, 1, 2, 6, false⟩, .tredFmin ⟨0, false, 1, 2, 6, false⟩, .tredFmax ⟨0, false, 1, 2, 6, false⟩,
   .tredDadd ⟨0, false, 2, 4, 6, false⟩, .movs ⟨0, 1, 0x0A⟩, .brv ⟨0, true, 4⟩, .scmp ⟨false, 1, 0, 1, 2, 0⟩,
   .sbr ⟨0, true, 4⟩]
def illFormedUni : List Instr :=
  [.scop ⟨0, 0, 1, 2, 0⟩, .smovs ⟨1, 0x0A⟩, .smovw ⟨1, 0x0A⟩, .sfltFcmp ⟨1, 0, 1, 2, 0⟩, .sfltDcmp ⟨1, 0, 2, 4, 0⟩, .dqPoll ⟨4, 0, 0⟩, .evqPoll ⟨4, 0, 0⟩]
theorem test_wf_refuses : ((illFormed ++ illFormedUni).all fun i => !i.wf) = true := by decide +kernel
/-- The instances that R1 does not give the device. -/
theorem test_wf_refuses_instances : ((
  [.tryPlace 16 0, .blockRestore 16 0, .tsliceExpiry 16, .tregalEnqueue 16 0, .tregalPick 16, .tregalTick 16, .tregalBlock 16 0,
   .tregalWake 16 0 0, .tregalMigrate 0 12, .policyWatchdogOverrun 16, .sketchCountBurst 12 0 0, .sketchIntervalClose 12, .tlbiGo 17 0,
   .tlbiComplete 17, .skctlWrite 12 0, .dbellWrite 17 0, .prrespWrite 17 0, .intpendClear 17 0, .interruptMessage 0 64, .qownWrite 768 0,
   .qownChange 768, .trseedWrite 16 0, .tregalLoad 17 0, .resetQueue 17 0, .resetContext 17 0, .resetEngine 17 0, .resetPartition 17 0,
   .resetDevice 17 0, .resetRungTimeout 17, .resetComplete 17, .functionLevelReset 17, .thermalLimitExceeded 4, .debugStop 768,
   .debugRun 768, .debugDump 768, .monitorClear 192 0, .jxLinkPortDown 16 true, .peerStoreRejected 0 17] : List Instr).all fun i => !i.wf) = true := by decide +kernel

-- The spec's worked examples.

/-- 01, a permuted AB address: natural bank 28, row 3709 under modes 0, 5 and 9. -/
theorem test_permute_bank : permuteBank 28 3709 0 = 28 ∧ permuteBank 28 3709 5 = 17 ∧ permuteBank 28 3709 9 = 1 := by decide
/-- 01, CLS addresses: three members, contributions at 0x1C0000. -/
theorem test_cls_home :
    let b : Block := { lane.blocks.headD (Block.start (bootDesc false) 0 0 0 [0] 0 [0] none 0 0) with cores := [0, 1, 2], cbase := 0x1C0000 }
    clsHome b 0x001A5 = (0, 0x1C00A5) ∧ clsHome b 0x2F3C4 = (2, 0x1CFBC4) ∧ clsHome b 0xBFFFF = (2, 0x1FFFFF) := by
  decide +kernel
/-- 02, the home slice of context 0x2A5 at 0x0015315891A43000: core 44. -/
theorem test_home_slice : homeSlice 0x2A5 0x0015315891A43000 = 44 := by decide +kernel
/-- 04, a scale segment of six blocks, written and read back. -/
theorem test_scale_segment :
    encodeSegment [127, 128, 125, 133, 130, 130] = [0xF8, 0x17, 0x8D, 0x85, 0x0D, 0, 0, 0, 0, 0, 0, 0, 0, 0, 0, 0] ∧
    decodeSegment [0xF8, 0x17, 0x8D, 0x85, 0x0D, 0, 0, 0, 0, 0, 0, 0, 0, 0, 0, 0] 6 = ([127, 128, 125, 133, 130, 130], false) := by
  decide +kernel
/-- 04, a cancelling pass of E4M3 by E4M3 on the cell 0x2740000000. -/
theorem test_cancelling_pass :
    let w := 0x7E * 256 ^ 5 + 0xFE * 256 ^ 17 + 256 ^ 40
    let a := 0x7E * 256 ^ 5 + 0x7E * 256 ^ 17 + 256 ^ 40
    (cellPass 9 9 (decodeLine 9 w [] 0 0 48 48).1 (decodeLine 9 a [] 0 0 48 48).1 (some 0x2740000000)).code = 0x3680000000 := by
  decide +kernel
/-- 08, a float reduction over absent lanes: 1.0, and NX. -/
theorem test_tred_absent_lanes :
    tredResult 8 ⟨.rne, false⟩ ([some (0x4B800000, 0), some (0x3F800000, 0), some (0x3F800000, 0), none, some (0xCB800000, 0),
      some (0x3F800000, 0), none, none]) = (0x3F800000, 16) := by decide +kernel
/-- 13, the worked PICK routine passes the loader, and costs 21 cycles. -/
theorem test_policy_routine :
    let ws := [0x50100032, 0x60214000, 0x0140000F, 0x32420005, 0x70200000, 0x20530004, 0x30200001, 0x2053000C, 0x53524000, 0x7F000000]
    checkRoutine 0 1 ws = none ∧ (costsFrom ⟨List.replicate 10 none, []⟩ 0 ws).head? = some 21 := by
  decide +kernel

/-- One instruction of the test states, and one field of what it leaves. -/
def after {α : Type} (i : Instr) (s : State) (f : State → α) : Option α :=
  match exec i s with
  | .next t => some (f t)
  | _ => none
def vOf (l r : Nat) (s : State) : Word := ((s.thread? ⟨0, 0, l⟩).map fun t => t.vget r).getD 0

-- One instruction at a time: expected values worked out by hand from the rules named.

/-- The per-lane test state with registers of lane 0 set. -/
def laneV (l : List (Nat × Word)) : State :=
  lane.modLanes 0 0 [0] fun _ t => { t with v := l.foldl (fun (v : List Word) e => v.set e.1 e.2) t.v }
/-- v20 of lane 0, and lane 0's v21, after an instruction with v2 and v3 set. -/
def v20 (i : Instr) (a b : Word) : Option Word := after i (laneV [(2, a), (3, b)]) (vOf 0 20)
def v20p (i : Instr) (a a' b b' : Word) : Option (Word × Word) :=
  after i (laneV [(4, a), (5, a'), (6, b), (7, b')]) fun s => (vOf 0 20 s, vOf 0 21 s)
def gflagsOf (s : State) : Word := ((s.group? 0 0).map fun g => g.uni.gflags).getD 0
def r3 : LR := ⟨0, false, 20, 2, 3, false⟩
def r3p : LR := ⟨0, false, 20, 4, 6, false⟩
def u2 : Un := ⟨0, false, 20, 2, false⟩
def u2p : Un := ⟨0, false, 20, 4, false⟩

/-- R200. -/
theorem test_iadd_wraps : v20 (.iadd r3) 0xFFFFFFFF 1 = some 0 := by decide +kernel
theorem test_isub_operand_order : v20 (.isub r3) 3 5 = some 0xFFFFFFFE := by decide +kernel
theorem test_imulh_signed : v20 (.imulh r3) 0x80000000 2 = some 0xFFFFFFFF := by decide +kernel
theorem test_imulhu_unsigned : v20 (.imulhu r3) 0x80000000 2 = some 1 := by decide +kernel
theorem test_shl_amount_mod_32 : v20 (.shl r3) 1 33 = some 2 := by decide +kernel
theorem test_sar_sign_fill : v20 (.sar r3) 0x80000000 1 = some 0xC0000000 := by decide +kernel
theorem test_shr_zero_fill : v20 (.shr r3) 0x80000000 1 = some 0x40000000 := by decide +kernel
theorem test_imin_signed : v20 (.imin r3) 0xFFFFFFFF 1 = some 0xFFFFFFFF := by decide +kernel
theorem test_umin_unsigned : v20 (.umin r3) 0xFFFFFFFF 1 = some 1 := by decide +kernel
theorem test_iadd64_carry : v20p (.iadd64 r3p) 0xFFFFFFFF 0 1 0 = some (0, 1) := by decide +kernel
/-- R201: space and rank kept, the offset wraps at 2^56. -/
theorem test_padd_wraps_offset : v20p (.padd r3p) 0xFFFFFFFF 0x1FFFFFFF 1 0 = some (0, 0x1F000000) := by decide +kernel
/-- R198: lane 2's p1 is false, so its v20 keeps 22. -/
theorem test_guard_false_keeps : after (.iadd { r3 with g := 1 }) lane (vOf 2 20) = some 22 := by decide +kernel
/-- R203: p1 is true in lane 0 and false in lane 2. -/
theorem test_sel_both_ways : after (.sel { r3 with g := 1 }) lane (fun s => (vOf 0 20 s, vOf 2 20 s)) = some (2, 5) := by
  decide +kernel
/-- R204, R205: 1 + 2; ∞ × 0 with a quiet NaN addend; −0 below +0. -/
theorem test_fadd : v20 (.fadd r3) 0x3F800000 0x40000000 = some 0x40400000 := by decide +kernel
theorem test_ffma_invalid : after (.ffma r3) (laneV [(2, 0x7F800000), (3, 0), (20, 0x7FC00001)]) (fun s => (vOf 0 20 s, (gflagsOf s).getLsbD 0)) =
    some (0x7FC00000, true) := by decide +kernel
theorem test_fmin_zeros : v20 (.fmin r3) 0 0x80000000 = some 0x80000000 := by decide +kernel
/-- R206: 2^53 + 1 is a tie, its error 1. -/
theorem test_dtsum_error : after (.dtsum ⟨0, 20, 4, 6, false⟩) (laneV [(4, 0), (5, 0x43400000), (6, 0), (7, 0x3FF00000)])
    (fun s => [20, 21, 22, 23].map fun r => vOf 0 r s) = some [0, 0x43400000, 0, 0x3FF00000] := by decide +kernel
/-- R207: a NaN makes NE true and EQ false; the kind is c[5:3]. -/
theorem test_fcmp_ne_nan : after (.fcmp ⟨0, false, 1, 2, 2, 3, false⟩) (laneV [(2, 0x7FC00000), (3, 0)])
    (fun s => ((s.thread? ⟨0, 0, 0⟩).map fun t => t.pget 2)) = some (some true) := by decide +kernel
/-- R209, R210. -/
theorem test_frcp_minus_zero : v20 (.xuFrcp u2) 0x80000000 0 = some 0xFF800000 := by decide +kernel
theorem test_fexp2_integer : v20 (.xuFexp2 u2) 0x40400000 0 = some 0x41000000 := by decide +kernel
theorem test_flog2_power : v20 (.xuFlog2 u2) 0x41000000 0 = some 0x40400000 := by decide +kernel
theorem test_fsqrt_two : v20 (.xuFsqrt u2) 0x40000000 0 = some 0x3FB504F3 := by decide +kernel
theorem test_frsq_four : v20 (.xuFrsq u2) 0x40800000 0 = some 0x3F000000 := by decide +kernel
theorem test_ffloor_negative : v20 (.xuFfloor u2) 0xBF000000 0 = some 0xBF800000 := by decide +kernel
theorem test_iabs_least : v20 (.xuIabs u2) 0x80000000 0 = some 0x80000000 := by decide +kernel
theorem test_clz_zero : v20 (.xuClz u2) 0 0 = some 32 := by decide +kernel
theorem test_brev : v20 (.xuBrev u2) 1 0 = some 0x80000000 := by decide +kernel
/-- R211: ties to even; a NaN gives 0; clamped at the top; 2^32 − 1 unsigned. -/
theorem test_cvt_tie : v20 (.cvtS32F32 u2) 0x40200000 0 = some 2 := by decide +kernel
theorem test_cvt_clamps : v20 (.cvtS32F32 u2) 0x4F000000 0 = some 0x7FFFFFFF := by decide +kernel
theorem test_cvt_unsigned : v20 (.cvtF32U32 u2) 0xFFFFFFFF 0 = some 0x4F800000 := by decide +kernel
theorem test_cvt_widens : after (.cvtF64F32 u2) (laneV [(2, 0x3F800000)]) (fun s => (vOf 0 20 s, vOf 0 21 s)) = some (0, 0x3FF00000) := by
  decide +kernel
/-- R202. -/
theorem test_movi_sign_extends : after (.movi ⟨0, 20, 0x8000⟩) lane (vOf 0 20) = some 0xFFFF8000 := by decide +kernel
theorem test_movhi_keeps_low : after (.movhi ⟨0, 20, 0x8000⟩) (laneV [(20, 0x1234)]) (vOf 0 20) = some 0x80001234 := by decide +kernel
theorem test_shi_rotates : v20 (.shi ⟨0, 20, 2, 3, 4⟩) 0x80000001 0 = some 0x18 := by decide +kernel

-- Memory: lane 0's v10:v11 points at AB byte 0, lane 2's at byte 128.

/-- R177, R229: stores are little-endian, the offset counts elements. -/
theorem test_stw_bytes : after (.stw ⟨1, 20, 10, 0, 1⟩) (laneV [(20, 0x11223344)])
    (fun s => (List.range 5).map fun i => (memGet s.mem (abKey [0, 1, 2, 3] 0 (4 + i) 0)).toNat) =
    some [0x44, 0x33, 0x22, 0x11, 0] := by decide +kernel
theorem test_ldb_sign_extends : after (.ldb ⟨1, 20, 10, 0, 0⟩) { lane with mem := memSet lane.mem (abKey [0, 1, 2, 3] 0 0 0) 0x80 }
    (vOf 0 20) = some 0xFFFFFF80 := by decide +kernel
theorem test_ldbu_zero_extends : after (.ldbu ⟨1, 20, 10, 0, 0⟩) { lane with mem := memSet lane.mem (abKey [0, 1, 2, 3] 0 0 0) 0x80 }
    (vOf 0 20) = some 0x80 := by decide +kernel
/-- R235: the addition of lane 0 alone, with the old value returned. -/
theorem test_atom_add : after (.atom ⟨1, 20, 10, 4, 0⟩) { lane with mem := memSet lane.mem (abKey [0, 1, 2, 3] 0 0 0) 10 }
    (fun s => (vOf 0 20 s, (memGet s.mem (abKey [0, 1, 2, 3] 0 0 0)).toNat)) = some (10, 14) := by decide +kernel
/-- 14, a misaligned store in a task: TCAUSE 5 in an unversioned launch, the pointer as issued, the handler's pc. -/
theorem test_misaligned_store :
    let s := lane.modLanes 0 0 [0] fun _ t => { t with v := t.v.set 10 2, item := some 1234 }
    after (.stw ⟨1, 4, 10, 0, 0⟩) s (fun s => (s.thread? ⟨0, 0, 0⟩).map fun t => (t.trap.tcause, t.trap.taddr, t.trap.titem, t.pc)) =
      some (some (0x00000005, 0x1000000000000002, 0x4D2, 0x80)) := by decide +kernel

-- Control flow.

/-- 08, a divergent branch: the lane that takes it and the lane that does not. -/
theorem test_brv_diverges : after (.brv ⟨1, false, 5⟩) lane (fun s => [0, 2].map fun l => (s.thread? ⟨0, 0, l⟩).map (·.pc)) =
    some [some (0x40 + 20), some 0x44] := by decide +kernel
/-- R224. -/
theorem test_jmp : after (.jmp ⟨1, 4⟩) (laneV [(4, 0x100), (5, 0)]) (fun s => (s.thread? ⟨0, 0, 0⟩).map (·.pc)) = some (some 0x100) := by
  decide +kernel
/-- R155: REFILL parks, EXIT drains. -/
theorem test_refill_parks : after .refill lane (fun s => (s.thread? ⟨0, 0, 2⟩).map (·.st)) = some (some .parked) := by decide +kernel
theorem test_exit_drains : after .exit lane (fun s => (s.thread? ⟨0, 0, 2⟩).map (·.st)) = some (some .drained) := by decide +kernel

-- Uniform instructions of the control thread.

def sOf (r : Nat) (s : State) : Word := (((s.block? 0).bind fun b => b.ctls.head?).map fun c => c.uni.sget r).getD 0
/-- R181, R182, R225: s(r) holds r mod 8. -/
theorem test_smovi : after (.smovi ⟨20, 0x7FFFF⟩) ctrl (sOf 20) = some 0xFFFFFFFF := by decide +kernel
theorem test_salu_sub : after (.saluSub ⟨20, 13, 15, 0⟩) ctrl (sOf 20) = some 0xFFFFFFFE := by decide +kernel
theorem test_sbr_taken : after (.sbr ⟨1, false, -6⟩) ctrl (fun s => ((s.block? 0).bind fun b => b.ctls.head?).map (·.pc)) =
    some (some (0x40 - 24)) := by decide +kernel

end Sys2Proof.Tests
end

section
/-!
PROOFS. Statements of 04_data_formats.md: the float results of the per-lane set, the lanes that trap on an enabled flag,
and the writes of special registers.
-/
open Sys2Proof Sys2Proof.Machine
namespace Sys2Proof.DataFormats

-- Words of a result: how the writes of a computing instruction read as register writes of a thread.

theorem loWord_eq_extract (x : DWord) : loWord x = x.extractLsb' 0 32 := by
  unfold loWord
  ext i hi
  simp

theorem hiWord_eq_extract (x : DWord) : hiWord x = x.extractLsb' 32 32 := by
  unfold hiWord
  apply BitVec.eq_of_toNat_eq
  simp [BitVec.extractLsb'_toNat, Nat.shiftRight_eq_div_pow]

theorem setRegs_pairWords (th : Thread) (d : BitVec 6) (x : DWord) :
    ({ th with v := setRegs th.v d.toNat (pairWords x) } : Thread) = th.putPair d x := by
  simp [pairWords, setRegs, Thread.putPair, loWord_eq_extract, hiWord_eq_extract]

theorem setRegs_append (v : List Word) (d : Nat) (a b : List Word) :
    setRegs v d (a ++ b) = setRegs (setRegs v d a) (d + a.length) b := by
  induction a generalizing v d with
  | nil => rfl
  | cons x xs ih => simp [setRegs, ih, Nat.add_assoc, Nat.add_comm 1]

/-- The upper pair of a quad that may be named (R146, R169): the register number does not wrap. -/
theorem quad_upper {w : Who} {d : BitVec 6} (h : w.mayName d 4) : (d + 2).toNat = d.toNat + 2 := by
  have hd : d.toNat % 4 = 0 := by
    unfold Who.mayName vOk at h
    simp only [Bool.and_eq_true, beq_iff_eq] at h
    exact h.1
  have hlt := d.isLt
  rw [BitVec.toNat_add, show (2 : BitVec 6).toNat = 2 from rfl]
  omega

theorem setRegs_quad {w : Who} {d : BitVec 6} (h : w.mayName d 4) (th : Thread) (x y : DWord) :
    ({ th with v := setRegs th.v d.toNat (pairWords x ++ pairWords y) } : Thread) = (th.putPair d x).putPair (d + 2) y := by
  have hx := setRegs_pairWords th d x
  rw [← setRegs_pairWords, quad_upper h, ← hx, setRegs_append]
  rfl

-- The float words and their results.

/-- Each FP32 arithmetic word is the FP32 lane instruction of its arithmetic (R204, R205). -/
theorem exec_fp32 : ∀ p ∈ fp32, ∃ readsD, ∀ (x : LR) (s : State), exec (p.1 x) s = (f32Spec x readsD p.2).run s := by
  unfold fp32
  simp only [List.mem_cons, List.not_mem_nil, or_false]
  rintro p (rfl | rfl | rfl | rfl | rfl)
  · exact ⟨false, fun _ _ => rfl⟩
  · exact ⟨false, fun _ _ => rfl⟩
  · exact ⟨true, fun _ _ => rfl⟩
  · exact ⟨false, fun _ _ => rfl⟩
  · exact ⟨false, fun _ _ => rfl⟩

/-- Each FP64 arithmetic word is the FP64 lane instruction of its arithmetic (R204). -/
theorem exec_fp64 : ∀ p ∈ fp64, ∃ readsD, ∀ (x : LR) (s : State), exec (p.1 x) s = (f64Spec x readsD p.2).run s := by
  unfold fp64
  simp only [List.mem_cons, List.not_mem_nil, or_false]
  rintro p (rfl | rfl | rfl)
  · exact ⟨false, fun _ _ => rfl⟩
  · exact ⟨false, fun _ _ => rfl⟩
  · exact ⟨true, fun _ _ => rfl⟩

/-- The two sources of a word that may be read, as the issue checks ask for them. -/
theorem srcs_of_mayRead {w : Who} {a b : BitVec 7} {n : Nat} (ha : w.mayRead a n) (hb : w.mayRead b n) :
    ∀ q ∈ [(a.toNat, n), (b.toNat, n)], srcOk w.grid.desc q.1 q.2 = true ∧ (q.1 < 0x40 ∨ 0x44 ≤ q.1) := by
  intro q hq
  simp only [List.mem_cons, List.not_mem_nil, or_false] at hq
  rcases hq with rfl | rfl
  · exact ha
  · exact hb

/-- Settles O5: each word is a computing lane instruction of its own arithmetic, whose effect outside a chain is known when
no enabled flag is raised; what remains is that its result words are the register, pair or quad the statement names. -/
theorem floatResults : Obligations.FloatResults := by
  unfold Obligations.FloatResults
  refine ⟨fun x s w g h hh => ⟨?_, ?_⟩, ?_⟩
  · intro p hp ha hb hd f ht
    obtain ⟨readsD, he⟩ := exec_fp32 p hp
    exact (f32Spec x readsD p.2).laneEffect h (he x s) hh (srcs_of_mayRead ha hb) (.inr hd) ht
  · intro p hp ha hb hd f ht
    obtain ⟨readsD, he⟩ := exec_fp64 p hp
    simp only [← setRegs_pairWords]
    exact (f64Spec x readsD p.2).laneEffect h (he x s) hh (srcs_of_mayRead ha hb) (.inr hd) ht
  · intro x s w g h hh ha hb hd f ht
    simp only [← setRegs_quad hd]
    exact (dtsumSpec x).laneEffect h rfl hh (srcs_of_mayRead ha hb) (.inr hd) ht

-- The end of a computing instruction some of whose lanes trap on an enabled flag.

/-- The same instruction with its flags silenced. -/
def quiet (x : LaneSpec) : LaneSpec := { x with eval := fun w l th => { x.eval w l th with flags := 0 } }

/-- A lane's result with its flags silenced. -/
def silence (r : Nat × Bool × LaneOut) : Nat × Bool × LaneOut := (r.1, r.2.1, { r.2.2 with flags := 0 })

/-- Silencing the flags leaves the writes as they are. -/
theorem quiet_effects (x : LaneSpec) (w : Who) : (quiet x).effects w = { x.effects w with flags := [] } := by
  have hout : ∀ q : Nat × Thread,
      (if !(quiet x).guarded || q.2.guard (quiet x).g then (q.1, true, (quiet x).eval w q.1 q.2)
        else (q.1, false, ({ latch := (quiet x).keptLatch q.2 } : LaneOut))) =
      silence (if !x.guarded || q.2.guard x.g then (q.1, true, x.eval w q.1 q.2)
        else (q.1, false, { latch := x.keptLatch q.2 })) := by
    intro q
    rw [apply_ite silence]
    rfl
  have hnone : w.threads.filterMap (fun _ => (none : Option (Nat × Word))) = [] :=
    List.filterMap_eq_nil_iff.mpr fun _ _ => rfl
  unfold LaneSpec.effects
  simp only [List.flatMap_map, List.filterMap_map, Function.comp_def, hout, silence, beq_self_eq_true, if_true, hnone]
  rfl

theorem quiet_after (x : LaneSpec) : (quiet x).after = x.after := rfl

/-- A computing instruction outside a chain whose operands are in range comes to its end (R166). -/
theorem run_eq_laneEnd (x : LaneSpec) {s : State} {w : Who} {g : Group} (h : Issues s w g) (hh : x.h = false)
    (hsrc : ∀ p ∈ x.srcs, srcOk w.grid.desc p.1 p.2 = true ∧ (p.1 < 0x40 ∨ 0x44 ≤ p.1))
    (hd : x.dwords = 0 ∨ vOk w.grid.desc x.d x.dwords = true) :
    x.run s = .next (s.laneEnd w g (x.effects w) (w.pc + 4)) := by
  have hok : (x.srcs.all (fun (a, n) => srcOk w.grid.desc a n) &&
      (x.dwords == 0 || vOk w.grid.desc x.d x.dwords)) = true := by
    rw [Bool.and_eq_true, List.all_eq_true]
    refine ⟨fun p hp => (hsrc p hp).1, ?_⟩
    rcases hd with hd | hd <;> simp [hd]
  have hlatch : (x.srcs.map (·.1)).any (staleSrc none) = false := by
    rw [List.any_eq_false]
    intro a ha
    obtain ⟨p, hp, rfl⟩ := List.mem_map.mp ha
    have := (hsrc p hp).2
    simp only [staleSrc, Bool.and_true, Bool.and_eq_true, decide_eq_true_eq]
    omega
  simp [LaneSpec.run, perLane, LaneSpec.issue, h.who, h.grp, h.who_chain, issueFault, hh, hok, hlatch, LaneSpec.poisoned,
    h.clean]

/-- The end of an instruction outside a chain is its end with its flags silenced, the flags merged, and the trap of the lanes
that raised an enabled one (R111, R112). -/
theorem laneEnd_eq_flagTraps {s : State} {w : Who} {g : Group} (h : Issues s w g) (e : LaneEff) (next : Nat) :
    s.laneEnd w g e next =
      ((s.laneEnd w g { e with flags := [] } next).modGroup w.blk.id g.num
        fun y => { y with uni := y.uni.merge (flagsOf e.flags) }).flagTraps
        w.blk.id g.num (trapLanes w.uni e.flags w.lanes) w.pc next := by
  have hm : ∀ u : Uni, u.merge (flagsOf []) = u := merge_zero
  unfold State.laneEnd
  simp only [h.who_chain, Option.map_none, Option.getD_none, List.nil_append, trapLanes_nil, State.flagTraps, List.map_nil,
    State.takeTraps, Who.flagAddr, hm, setPc_frag _ _ _ _ h.grp]
  rw [modGroup_modGroup _ _ _ _ _ (by intro; rfl), modGroup_modGroup _ _ _ _ _ (by intro; rfl),
    modGroup_modGroup _ _ _ _ _ (by intro; rfl)]
  rfl

/-- The end of a computing instruction outside a chain: every lane has its results and stands at the next word, the flags
are merged, and then the lanes that raised an enabled flag trap. -/
theorem laneEnd_traps (x : LaneSpec) {s : State} {w : Who} {g : Group} (h : Issues s w g) :
    ∃ t, OnlyGroup s t w.blk.id g.num ∧
      t.group? w.blk.id g.num =
        some { g.modLanes w.lanes (x.after w) with uni := g.uni.merge (flagsOf (x.effects w).flags) } ∧
      s.laneEnd w g (x.effects w) (w.pc + 4) =
        t.flagTraps w.blk.id g.num (trapLanes w.uni (x.effects w).flags w.lanes) w.pc (w.pc + 4) := by
  have hflags : ((quiet x).effects w).flags = [] := by rw [quiet_effects]
  obtain ⟨t, ht, honly, hgrp⟩ := (quiet x).laneEnd_clean h (by rw [hflags, trapLanes_nil])
  refine ⟨t.modGroup w.blk.id g.num fun y => { y with uni := y.uni.merge (flagsOf (x.effects w).flags) },
    honly.trans (onlyGroup_modGroup _ _ _ _ (by intro; rfl)), ?_, ?_⟩
  · rw [group?_modGroup _ _ _ _ (by intro; rfl), if_pos ⟨rfl, rfl⟩, hgrp, hflags, quiet_after, Option.map_some]
    simp only [show flagsOf [] = 0 from rfl, merge_zero]
  · rw [laneEnd_eq_flagTraps h, ← quiet_effects, ht]

/-- What a trap reads of the state it is taken in: the grid's descriptor and the group (R343). -/
def trapSite (t : State) (b g : Nat) : Option (GridDesc × Group) :=
  (t.block? b).bind fun blk => (t.grid? blk.grid).bind fun gr => (blk.group? g).map fun grp => (gr.desc, grp)

/-- What a trap finds in a state that differs in one group: the grid's descriptor and the group as it now is. -/
theorem trapSite_of_onlyGroup {s t : State} {w : Who} {g g' : Group} (h : Issues s w g) (ht : OnlyGroup s t w.blk.id g.num)
    (hg : t.group? w.blk.id g.num = some g') :
    trapSite t w.blk.id g.num = some (w.grid.desc, g') := by
  obtain ⟨hblk, _, hgrid, _⟩ := who_frag h.who h.grp
  have hshell := ht.shell
  rw [hblk] at hshell
  obtain ⟨blk, hb, he⟩ := Option.map_eq_some_iff.mp hshell
  have hsame : blk.grid = w.blk.grid := congrArg (·.grid) he
  have hgrids : t.grid? blk.grid = some w.grid := by
    rw [hsame, ← hgrid, ht.fields]
    rfl
  have hgrp : blk.group? g.num = some g' := by simpa [State.group?, hb] using hg
  simp [trapSite, hb, hgrids, hgrp]

/-- What FLAG_TRAP makes of a lane (R112). -/
def flagTrapped (d : GridDesc) (ls : List Nat) (addr next l : Nat) (th : Thread) : Thread :=
  th.takeTrap d ⟨l, .flagTrap, 0, BitVec.ofNat 64 addr, next, false⟩ (BitVec.ofNat 64 addr) (maskOf ls) false

theorem modLanes_nil (g : Group) (f : Nat → Thread → Thread) : g.modLanes [] f = g := by
  have : mapLanes [] f 0 g.threads = g.threads := by
    apply List.ext_getElem?
    intro l
    simp [mapLanes_get?]
  simp only [Group.modLanes, this]

/-- The lowest faulting lane's fault is one of the faults. -/
theorem lowest_mem (fs : List LaneTrap) (f : LaneTrap) :
    fs.foldl (fun (a : LaneTrap) x => if x.lane < a.lane then x else a) f ∈ f :: fs := by
  induction fs generalizing f with
  | nil => simp
  | cons x xs ih =>
    rw [List.foldl_cons]
    split
    · exact List.mem_cons_of_mem _ (ih x)
    · rcases List.mem_cons.mp (ih f) with h | h
      · rw [h]; exact List.mem_cons_self ..
      · exact List.mem_cons_of_mem _ (List.mem_cons_of_mem _ h)

/-- Faults of one issue in an unversioned launch, their lanes running: each lane takes its own trap, TLANES naming them all, and
nothing else of the group changes (R343). -/
theorem takeTraps_group {t : State} {b g : Nat} {d : GridDesc} {gr : Group} {chain : Bool} {addr : DWord} (fs : List LaneTrap)
    (hsite : trapSite t b g = some (d, gr)) (hgrp : t.group? b g = some gr) (hv : d.vers = false)
    (haddr : ∀ f ∈ fs, f.addr = addr)
    (hrun : ∀ f ∈ fs, ∀ th, gr.thread? f.lane = some th → th.st = .running) :
    (t.takeTraps b g chain fs).group? b g = some (gr.modLanes (fs.map (·.lane)) fun l th =>
      ((fs.find? (·.lane == l)).map fun f => th.takeTrap d f addr (maskOf (fs.map (·.lane))) chain).getD th) := by
  cases fs with
  | nil => rw [State.takeTraps, hgrp, List.map_nil, modLanes_nil]
  | cons f0 fs =>
    have hlow := haddr _ (List.mem_of_mem_cons_of_mem (lowest_mem (f0 :: fs) f0) (List.mem_cons_self ..))
    have hdbl : ((f0 :: fs).filter fun f => ((gr.thread? f.lane).map Thread.doubleTraps).getD false) = [] := by
      rw [List.filter_eq_nil_iff]
      intro f hf
      cases hth : gr.thread? f.lane with
      | none => simp
      | some th => simp [Thread.doubleTraps, hrun f hf th hth]
    have hgone : ((f0 :: fs).filter fun f => ((gr.thread? f.lane).map (·.inTask d)).getD false) = [] := by
      rw [List.filter_eq_nil_iff]
      intro f hf
      cases hth : gr.thread? f.lane with
      | none => simp
      | some th => simp [Thread.inTask, hv]
    unfold trapSite at hsite
    unfold State.takeTraps
    simp only [hsite, hdbl, hgone, hlow, List.foldl_nil, List.length_nil, beq_self_eq_true, if_true]
    rw [State.modLanes, group?_modGroup _ _ _ _ (by intro; rfl), if_pos ⟨rfl, rfl⟩, hgrp, Option.map_some]
    congr 1
    apply modLanes_congr
    intro l th _
    cases (f0 :: fs).find? (·.lane == l) <;> rfl

theorem find?_map_lane (ls : List Nat) (f : Nat → LaneTrap) (hf : ∀ l, (f l).lane = l) (l : Nat) :
    (ls.map f).find? (·.lane == l) = if l ∈ ls then some (f l) else none := by
  rw [List.find?_map, show ((fun y : LaneTrap => y.lane == l) ∘ f) = (· == l) by funext; simp [hf], find_self]
  split <;> rfl

/-- A group whose trapping lanes run, in an unversioned launch: they enter the handler, and nothing else of it changes. -/
theorem flagTraps_group {t : State} {b g : Nat} {d : GridDesc} {gr : Group} (ls : List Nat) (addr next : Nat)
    (hsite : trapSite t b g = some (d, gr)) (hgrp : t.group? b g = some gr) (hv : d.vers = false)
    (hrun : ∀ l ∈ ls, ∀ th, gr.thread? l = some th → th.st = .running) :
    (t.flagTraps b g ls addr next).group? b g = some (gr.modLanes ls (flagTrapped d ls addr next)) := by
  unfold State.flagTraps
  rw [takeTraps_group (addr := BitVec.ofNat 64 addr) _ hsite hgrp hv (by simp) (by simpa using hrun)]
  congr 1
  have hlanes : (ls.map fun l => (⟨l, .flagTrap, 0, BitVec.ofNat 64 addr, next, false⟩ : LaneTrap)).map (·.lane) = ls := by
    simp [Function.comp_def]
  rw [hlanes]
  apply modLanes_congr
  intro l th _
  rw [find?_map_lane _ _ (fun _ => rfl)]
  by_cases hl : l ∈ ls <;> simp [hl, flagTrapped]

/-- The record and the state of a lane that ran when FLAG_TRAP took it, in an unversioned launch (R112, R344, R345). -/
theorem flagTrapped_running {d : GridDesc} {th : Thread} (hv : d.vers = false) (hrun : th.st = .running) (ls : List Nat)
    (addr next l : Nat) :
    flagTrapped d ls addr next l th =
      { th with
        pc := d.handler, st := .trapped, wait := .none, flagDue := none,
        trap := { tcause := 0x0C, taddr := BitVec.ofNat 64 addr, titem := th.titem, tlanes := maskOf ls,
                  resume := next % 2 ^ 56 } } := by
  simp [flagTrapped, Thread.takeTrap, hrun, Thread.inTask, hv, Cause.endsItem, tcauseOf, Cause.code]

/-- A fragment has a lane's thread exactly when its group has it and the lane is the fragment's. -/
theorem mem_threads {w : Who} {g : Group} (hg : w.grp = some g) (l : Nat) (th : Thread) :
    (l, th) ∈ w.threads ↔ l ∈ w.lanes ∧ g.thread? l = some th := by
  unfold Who.threads
  simp only [hg, List.mem_filterMap, Option.map_eq_some_iff, Prod.mk.injEq]
  constructor
  · rintro ⟨m, hm, u, hu, rfl, rfl⟩
    exact ⟨hm, hu⟩
  · rintro ⟨hl, hth⟩
    exact ⟨l, hl, th, hth, rfl, rfl⟩

/-- The lanes whose thread meets p, in the fragment's order. -/
theorem lanes_filter {w : Who} {g : Group} (hg : w.grp = some g) (p : Nat × Thread → Bool) :
    (w.lanes.filter fun l => (g.thread? l).any fun th => p (l, th)) = (w.threads.filter p).map (·.1) := by
  unfold Who.threads
  simp only [hg]
  induction w.lanes with
  | nil => rfl
  | cons l ls ih =>
    cases hth : g.thread? l with
    | none => simp [hth, ih]
    | some th => cases hp : p (l, th) <;> simp [hth, hp, ih]

/-- A lane that FLAG_TRAP takes is an active one that raised an enabled flag (R112). -/
theorem raised_iff (x : LaneSpec) {w : Who} {g : Group} (hg : w.grp = some g) {l : Nat} (hl : l ∈ w.lanes) :
    ((x.effects w).flags.any fun y => y.1 == l && (y.2 &&& w.uni.te) != 0) =
      (g.thread? l).any fun th => (!x.guarded || th.guard x.g) && (x.eval w l th).flags &&& w.uni.te != 0 := by
  rw [x.flags_eq, Bool.eq_iff_iff, List.any_eq_true, Option.any_eq_true]
  constructor
  · rintro ⟨y, hy, hr⟩
    obtain ⟨⟨m, th⟩, hm, hsome⟩ := List.mem_filterMap.mp hy
    obtain ⟨hth, hon⟩ := List.mem_filter.mp hm
    rw [Option.ite_none_left_eq_some, Option.some.injEq] at hsome
    obtain ⟨_, rfl⟩ := hsome
    rw [Bool.and_eq_true, beq_iff_eq] at hr
    obtain ⟨rfl, hte⟩ := hr
    exact ⟨th, ((mem_threads hg _ _).mp hth).2, by rw [Bool.and_eq_true]; exact ⟨hon, hte⟩⟩
  · rintro ⟨th, hth, hr⟩
    obtain ⟨hon, hte⟩ := Bool.and_eq_true_iff.mp hr
    refine ⟨(l, (x.eval w l th).flags), List.mem_filterMap.mpr ⟨(l, th), ?_, ?_⟩, by simpa using hte⟩
    · exact List.mem_filter.mpr ⟨(mem_threads hg _ _).mpr ⟨hl, hth⟩, hon⟩
    · have hne : (x.eval w l th).flags ≠ 0 := fun h0 => by simp [h0] at hte
      simpa using hne

/-- The lanes FLAG_TRAP takes are those of the active ones that raised an enabled flag, in order (R112). -/
theorem trapLanes_eq (x : LaneSpec) {w : Who} {g : Group} (hg : w.grp = some g) :
    trapLanes w.uni (x.effects w).flags w.lanes =
      ((x.active w).filter fun q => (x.eval w q.1 q.2).flags &&& w.uni.te != 0).map (·.1) := by
  unfold trapLanes LaneSpec.active
  rw [List.filter_filter, ← lanes_filter hg]
  apply List.filter_congr
  intro l hl
  rw [raised_iff x hg hl]
  simp only [Bool.and_comm]

theorem after_st (x : LaneSpec) (w : Who) (l : Nat) (th : Thread) : (x.after w l th).st = th.st := by
  unfold LaneSpec.after
  split <;> rfl

theorem after_v_on (x : LaneSpec) {th : Thread} (hw : x.w = false) (hg : th.guard x.g = true) (w : Who) (l : Nat) :
    (x.after w l th).v = setRegs th.v x.d (x.eval w l th).words := by
  simp [LaneSpec.after, hw, hg]

theorem thread?_eq_group? (s : State) (b g l : Nat) : s.thread? ⟨b, g, l⟩ = (s.group? b g).bind (·.thread? l) := by
  simp [State.thread?, State.group?, Option.bind_assoc]

/-- A computing instruction outside a chain whose lanes run, in an unversioned launch: all lanes have their results and the
flags are merged, and the active lanes that raised an enabled flag have trapped. -/
theorem run_flagTraps (x : LaneSpec) {s : State} {w : Who} {g : Group} (h : Issues s w g) (hh : x.h = false)
    (hv : w.grid.desc.vers = false) (hsrc : ∀ p ∈ x.srcs, srcOk w.grid.desc p.1 p.2 = true ∧ (p.1 < 0x40 ∨ 0x44 ≤ p.1))
    (hd : x.dwords = 0 ∨ vOk w.grid.desc x.d x.dwords = true) (hrun : ∀ q ∈ w.threads, q.2.st = .running)
    {bad : List Nat} (hbad : bad = ((x.active w).filter fun q => (x.eval w q.1 q.2).flags &&& w.uni.te != 0).map (·.1)) :
    ∃ t, x.run s = .next t ∧ t.group? w.blk.id g.num =
      some { (g.modLanes w.lanes (x.after w)).modLanes bad (flagTrapped w.grid.desc bad w.pc (w.pc + 4)) with
        uni := g.uni.merge (orFlags (x.active w) fun l th => (x.eval w l th).flags) } := by
  obtain ⟨t, honly, hgrp, hend⟩ := laneEnd_traps x h
  rw [← x.flagsOf_eq, hbad, ← trapLanes_eq x h.grp]
  refine ⟨_, run_eq_laneEnd x h hh hsrc hd, ?_⟩
  rw [hend, flagTraps_group _ _ _ (trapSite_of_onlyGroup h honly hgrp) hgrp hv]
  · rfl
  · intro l hl th hth
    change (g.modLanes w.lanes (x.after w)).thread? l = some th at hth
    have hin : l ∈ w.lanes := (List.mem_filter.mp hl).1
    rw [thread?_modLanes] at hth
    obtain ⟨u, hu, rfl⟩ := Option.map_eq_some_iff.mp hth
    rw [if_pos (by simpa using hin), after_st]
    exact hrun (l, u) ((mem_threads h.grp l u).mpr ⟨hin, hu⟩)

/-- Settles O12: the group after the trap is known (`run_flagTraps`); a trapping lane is its thread with the result written,
standing at the handler with the record of FLAG_TRAP. -/
theorem flagTraps : Obligations.FlagTraps := by
  unfold Obligations.FlagTraps
  intro p hp x s w g h hh hw hv ha hb hd f bad hrun
  obtain ⟨readsD, he⟩ := exec_fp32 p hp
  obtain ⟨t, hexec, hgrp⟩ :=
    run_flagTraps (f32Spec x readsD p.2) (bad := bad) h hh hv (srcs_of_mayRead ha hb) (.inr hd) hrun rfl
  refine ⟨t, (he x s).trans hexec, ?_, ?_⟩
  · rw [hgrp]
    rfl
  · intro l hl th hth
    obtain ⟨⟨m, u⟩, hu, hm⟩ := List.mem_map.mp hl
    obtain rfl : m = l := hm
    obtain ⟨hthread, hguard⟩ := List.mem_filter.mp (List.mem_filter.mp hu).1
    obtain ⟨hin, hlane⟩ := (mem_threads h.grp m u).mp hthread
    obtain rfl : u = th := Option.some.inj (hlane.symm.trans hth)
    refine ⟨flagTrapped w.grid.desc bad w.pc (w.pc + 4) m ((f32Spec x readsD p.2).after w m u), ?_, ?_⟩
    · rw [thread?_eq_group?, hgrp, Option.bind_some]
      change ((g.modLanes w.lanes _).modLanes bad _).thread? m = _
      rw [thread?_modLanes, thread?_modLanes, hth, Option.map_some, Option.map_some, if_pos (by simpa using hl),
        if_pos (by simpa using hin)]
    · rw [flagTrapped_running hv ((after_st ..).trans (hrun _ hthread))]
      exact ⟨after_v_on (f32Spec x readsD p.2) hw hguard .., rfl, rfl, rfl, by simp [TrapRec.nest, bitOf], rfl, rfl, rfl⟩

-- SMOVW, and the fault of a control thread.

/-- The bits of GCTL that are not reserved (R110). -/
theorem gctlMask_bit (i : Nat) :
    (0x008E01FF : Word).getLsbD i = (i ≤ 8 || i == 17 || i == 18 || i == 19 || i == 23) := by
  have hlow : ∀ j : Fin 32, (0x008E01FF : Word).getLsbD j =
      (j.val ≤ 8 || j.val == 17 || j.val == 18 || j.val == 19 || j.val == 23) := by decide
  by_cases hi : i < 32
  · exact hlow ⟨i, hi⟩
  · rw [BitVec.getLsbD_of_ge _ _ (by omega)]
    symm
    simp only [Bool.or_eq_false_iff, decide_eq_false_iff_not, beq_eq_false_iff_ne]
    omega

/-- SMOVW to a writable register: the register takes its new value and the issuer goes on (R214). -/
theorem smovw_writes {x : SMovw} {s : State} {w : Who} (h : IssuesUni s w) (ha : sOk w x.a.toNat 1 1 = true)
    (hx : x.i = 0x040 ∨ x.i = 0x041 ∨ x.i = 0x042) :
    UniEffect (.smovw x) s w (w.uni.setSpecial x.i.toNat (w.uni.sget x.a.toNat)) w.next := by
  refine ⟨_, uniform_on h 0 _ _ _ ?_ (cget_zero _), onlyIssuer_modUni_setPc h.who _ _⟩
  rcases hx with hx | hx | hx <;> simp [hx, ha]

/-- SMOVW to any other register faults at its word (R184, R214). -/
theorem smovw_faults {x : SMovw} {s : State} {w : Who} (h : IssuesUni s w) (h0 : x.i ≠ 0x040) (h1 : x.i ≠ 0x041)
    (h2 : x.i ≠ 0x042) : exec (.smovw x) s = .next (s.faultHere w .illegalOperand) := by
  have hbad : (x.i.toNat == 0x040 || x.i.toNat == 0x041 || x.i.toNat == 0x042) = false := by
    simp only [Bool.or_eq_false_iff, beq_eq_false_iff_ne]
    bv_omega
  change execSmovw x s = _
  simp [execSmovw, uniform, h.who, h.chain, hbad]

theorem takeTrap_place (c : Ctl) (d : GridDesc) (f : LaneTrap) :
    (c.takeTrap d f).rank = c.rank ∧ (c.takeTrap d f).quad = c.quad := by
  simp only [Ctl.takeTrap]
  split <;> exact ⟨rfl, rfl⟩

/-- What a trap makes of a control thread that runs (R254, R345). -/
theorem takeTrap_running {c : Ctl} (h : c.st = .running) (d : GridDesc) (f : LaneTrap) :
    c.takeTrap d f =
      { c with
        pc := d.handler, st := .trapped, wait := .none,
        trap := { tcause := tcauseOf f.cause f.detail false false f.join false true, taddr := f.addr,
                  titem := BitVec.ofNat 64 (2 ^ 63), tlanes := 0, resume := f.resume % 2 ^ 56 } } := by
  have hst : (c.st == .trapped) = false := by rw [h]; rfl
  simp [Ctl.takeTrap, hst]

/-- The fault of a control thread that runs (R254, R345): it stands at the handler with its record, and no other agent changes. -/
theorem faultHere_ctl {s : State} {w : Who} {c : Ctl} (h : s.who = some w) (hg : w.grp = none) (hc : w.ctl = some c)
    (hrun : c.st = .running) (cause : Cause) :
    OnlyCtl s (s.faultHere w cause) w.blk.id c.rank c.quad ∧
      (s.faultHere w cause).ctl? w.blk.id c.rank c.quad =
        some (c.takeTrap w.grid.desc ⟨0, cause, 0, w.addr, w.pc, false⟩) := by
  obtain ⟨c', hc', hblk, hctl, hgrid, _⟩ := who_ctl h hg
  obtain rfl : c = c' := Option.some.inj (hc.symm.trans hc')
  have hin : w.blk.ctl? c.rank c.quad = some c := by simpa [State.ctl?, hblk] using hctl
  have heq : s.faultHere w cause =
      s.modCtl w.blk.id c.rank c.quad (·.takeTrap w.grid.desc ⟨0, cause, 0, w.addr, w.pc, false⟩) := by
    simp [State.faultHere, State.faultAll, hg, hc, State.takeCtlTrap, hblk, hgrid, hin, hrun]
  rw [heq]
  refine ⟨onlyCtl_modCtl _ _ _ _ _ (takeTrap_place · _ _), ?_⟩
  rw [ctl?_modCtl _ _ _ _ _ (takeTrap_place · _ _), if_pos ⟨rfl, rfl, rfl⟩, hctl, Option.map_some]

/-- Settles O17: a writable register takes its value and the issuer goes on (`smovw_writes`); any other one is an operand out
of range, whose fault a control thread takes alone. -/
theorem specialWrites : Obligations.SpecialWrites := by
  unfold Obligations.SpecialWrites
  constructor
  · intro x s w h ha v
    refine ⟨fun hx => ?_, fun hx => ⟨v &&& 0x008E01FF, ?_, fun i => by rw [BitVec.getLsbD_and, gctlMask_bit]⟩, fun hx => ?_⟩
    · have hw := smovw_writes h ha (.inl hx)
      rwa [hx] at hw
    · have hw := smovw_writes h ha (.inr (.inl hx))
      rwa [hx] at hw
    · have hw := smovw_writes h ha (.inr (.inr hx))
      rwa [hx] at hw
  · intro x s w c h hg hc hrun _ h0 h1 h2
    obtain ⟨honly, hctl⟩ := faultHere_ctl h.who hg hc hrun .illegalOperand
    rw [takeTrap_running hrun] at hctl
    exact ⟨_, _, smovw_faults h h0 h1 h2, honly, hctl, rfl, rfl, rfl, by simp [TrapRec.cause, tcauseOf, Cause.code], rfl, rfl⟩

end Sys2Proof.DataFormats
end
